-- ==== Sys2Proof/Word.lean ====
section
/-! DEFINITION. Words, bytes and the sparse tables that hold the machine's repeated registers. -/

namespace Sys2Proof

/-- A 64-bit pattern: scalar register, generic address, most system registers (02 R45). -/
abbrev Word := BitVec 64
/-- One byte of memory. -/
abbrev Byte := BitVec 8
/-- A lane word, or one of the two words of an M command (04 R98, R112). -/
abbrev Code := BitVec 32

/-- A table with a value for every index: the listed rows, and `dflt` for every index that no row lists. -/
structure Tab (α : Type) where
  dflt : α
  rows : List (Nat × α) := []
deriving DecidableEq, Repr

/-- The value a list of rows gives index `n`, `d` when it lists none. -/
def rowsGet {α : Type} (d : α) (n : Nat) : List (Nat × α) → α
  | [] => d
  | (k, v) :: t => if k = n then v else rowsGet d n t

/-- The rows with index `n` set to `v`, in rising order of index. -/
def rowsSet {α : Type} (n : Nat) (v : α) : List (Nat × α) → List (Nat × α)
  | [] => [(n, v)]
  | (k, w) :: t => if n < k then (n, v) :: (k, w) :: t else if k = n then (n, v) :: t else (k, w) :: rowsSet n v t

/-- Reads index `n`. -/
def Tab.get {α : Type} (t : Tab α) (n : Nat) : α := rowsGet t.dflt n t.rows

/-- Writes index `n`. -/
def Tab.set {α : Type} (t : Tab α) (n : Nat) (v : α) : Tab α := { t with rows := rowsSet n v t.rows }

/-- Applies `f` to the value at index `n`. -/
def Tab.upd {α : Type} (t : Tab α) (n : Nat) (f : α → α) : Tab α := t.set n (f (t.get n))

/-- Applies `f` to every value of the table. -/
def Tab.all {α : Type} (t : Tab α) (f : α → α) : Tab α :=
  { dflt := f t.dflt, rows := t.rows.map fun r => (r.1, f r.2) }

/-- Every index holds `v`. -/
def Tab.fill {α : Type} (v : α) : Tab α := { dflt := v, rows := [] }

theorem rowsGet_set_eq {α : Type} (d : α) (n : Nat) (v : α) (l : List (Nat × α)) :
    rowsGet d n (rowsSet n v l) = v := by
  induction l with
  | nil => simp [rowsSet, rowsGet]
  | cons h t ih =>
    obtain ⟨k, w⟩ := h
    simp only [rowsSet]
    split
    · simp [rowsGet]
    · split
      · simp [rowsGet]
      · simp [rowsGet, *]

theorem rowsGet_set_ne {α : Type} (d : α) {n m : Nat} (v : α) (l : List (Nat × α)) (h : n ≠ m) :
    rowsGet d m (rowsSet n v l) = rowsGet d m l := by
  induction l with
  | nil => simp [rowsSet, rowsGet, h]
  | cons a t ih =>
    obtain ⟨k, w⟩ := a
    simp only [rowsSet]
    split
    · simp [rowsGet, h]
    · split
      · subst_vars; simp [rowsGet, h]
      · simp [rowsGet, ih]

@[simp] theorem Tab.get_set_eq {α : Type} (t : Tab α) (n : Nat) (v : α) : (t.set n v).get n = v :=
  rowsGet_set_eq _ _ _ _

@[simp] theorem Tab.get_set_ne {α : Type} (t : Tab α) {n m : Nat} (v : α) (h : n ≠ m) : (t.set n v).get m = t.get m :=
  rowsGet_set_ne _ _ _ h

theorem Tab.get_set {α : Type} (t : Tab α) (n m : Nat) (v : α) :
    (t.set n v).get m = if n = m then v else t.get m := by
  by_cases h : n = m
  · subst h; simp
  · simp [h]

@[simp] theorem Tab.get_fill {α : Type} (v : α) (n : Nat) : (Tab.fill v).get n = v := rfl

@[simp] theorem Tab.get_upd_eq {α : Type} (t : Tab α) (n : Nat) (f : α → α) : (t.upd n f).get n = f (t.get n) := by
  simp [Tab.upd]

@[simp] theorem Tab.get_upd_ne {α : Type} (t : Tab α) {n m : Nat} (f : α → α) (h : n ≠ m) :
    (t.upd n f).get m = t.get m := by simp [Tab.upd, h]

/-- The little-endian pattern of a list of bytes (00 R6). -/
def leBytes : List Byte → Nat
  | [] => 0
  | b :: t => b.toNat + 256 * leBytes t

/-- The `n` low bytes of `x`, least significant first (00 R6). -/
def toBytes : Nat → Nat → List Byte
  | 0, _ => []
  | n + 1, x => BitVec.ofNat 8 x :: toBytes n (x / 256)

/-- Bits [lo + w - 1 : lo] of a pattern. -/
def bits {n : Nat} (x : BitVec n) (lo w : Nat) : BitVec w := x.extractLsb' lo w

/-- Bit `i` of a Nat. -/
def natBit (x i : Nat) : Bool := x / 2 ^ i % 2 == 1

/-- Two's-complement reading of the low `w` bits of a Nat. -/
def natSigned (w x : Nat) : Int :=
  let y := x % 2 ^ w
  if y < 2 ^ (w - 1) then (y : Int) else (y : Int) - (2 ^ w : Nat)

/-- The 64-bit pattern of `x`, sign-extended from `n` bits (01 R33 `sext`). -/
def sextW {n : Nat} (x : BitVec n) : Word := x.signExtend 64

/-- The 64-bit pattern of `x`, zero-extended (01 R33 `zext`). -/
def zextW {n : Nat} (x : BitVec n) : Word := x.setWidth 64

end Sys2Proof
end

