-- ==== Sys2Proof/Config.lean ====
section
/-! DEFINITION. What an implementation fixes and the free values: constants without a body, so that no proof can see
what they are (logs 5, 6, 44). -/

namespace Sys2Proof

/-- Address of place `n` of the fault-record ring of die 0 (`false`) or 1, in the Yard Controller's memory; 19 R406 does
not place the ring. -/
opaque Config.recordAddress : Bool → Nat → Word

/-- The entry number that `TVAL` names for an `MDRAIN` whose LMF is none, or was restored without its number (08 R223). -/
opaque Config.entryOfNoLmf : BitVec 4

/-- The way of the L2 that holds a line (11 R285 gates ways and does not say which lines they hold). -/
opaque Config.wayOf : Nat → Nat

/-- The certificate chain of the package (21 R440), whose bytes the manual does not give. -/
opaque Config.certificateChain : List Byte

/-- Digest of a certificate chain (21 R442). -/
opaque Config.digest : List Byte → List Byte

/-- Measurement of an index 1-4 (21 R442), for a version of the configuration image. -/
opaque Config.measurement : Nat → Nat → List Byte

/-- The identity key's signature over a challenge nonce (21 R440, R442). -/
opaque Config.challengeSignature : Nat → List Byte

end Sys2Proof
end

