-- ==== Sys2Proof/Syntax.lean ====
section
/-! DEFINITION. The instructions: one constructor per row of spec/opcode_table.json, with the operand types they take.
Reserved fields have no place here: the decoder checks them (04 R117). -/

namespace Sys2Proof

abbrev SReg := BitVec 5
/-- A V-lane register code: 0-59 name `v0`-`v59`; 60-63 name `q0`-`q3` in a position that is read (04 R109). -/
abbrev VReg := BitVec 6
abbrev PReg := BitVec 4
abbrev TReg := BitVec 3
abbrev EReg := BitVec 4
abbrev GReg := BitVec 3
abbrev XdReg := BitVec 4
abbrev SgReg := BitVec 6
abbrev AbReg := BitVec 5
abbrev MfReg := BitVec 4
abbrev McReg := BitVec 6
/-- Core id: die [10], quadrant [9:8], cluster [7:3], core [2:0] (02 R61 `COREID`). -/
abbrev CoreId := BitVec 11

/-- The framing of a word: IDLE and SYN of an S, V or X word (04 R98), or the start stamp and the sync flag of an M
command (04 R112). The lane holds it beside the instruction: it decides when the word issues, not what it does. -/
structure Framing where
  idle : BitVec 3
  syn : Bool
  stamp : BitVec 24
deriving DecidableEq, Repr

/-- The four issue lanes, in the order of 02 R37. -/
inductive Lane where
  | s | v | m | x
deriving DecidableEq, Repr

/-- `LDX` sizes (04 R104). -/
inductive LoadSize where
  | b | bu | h | hu | w | wu | d
deriving DecidableEq, Repr

/-- `STX` sizes (04 R104). -/
inductive StoreSize where
  | b | h | w | d
deriving DecidableEq, Repr

/-- The windows that `APIS` tests (05 R146). -/
inductive Window where
  | ownSpad | ownVault | anyVault | peerSpad | peerAcc | global
deriving DecidableEq, Repr

/-- Atomic operations (04 R104). -/
inductive AtomOp where
  | add | and | or | xor | min | max | minu | maxu | swap
deriving DecidableEq, Repr

/-- Orders of `ATOM` and `CAS` (04 R104). -/
inductive MemOrder where
  | plain | acq | rel | sc
deriving DecidableEq, Repr

inductive FenceKind where
  | full | acq | rel
deriving DecidableEq, Repr

/-- Scopes (13 R312). -/
inductive Scope where
  | core | cluster | package | domain
deriving DecidableEq, Repr

/-- Slot owners (02 R60). -/
inductive Owner where
  | lanes | xe | sbox | turn
deriving DecidableEq, Repr

/-- `MFIDX`.SRC values that software may write (02 R57). -/
inductive MfSrc where
  | direct | lv10 | loop
deriving DecidableEq, Repr

/-- Engine classes of `SETDIV` (04 R106). -/
inductive Engine where
  | ctl | mat | vec | copy
deriving DecidableEq, Repr

/-- Modes of the Turntable commands (04 R107). -/
inductive TurnMode where
  | complex | real32 | realBf16
deriving DecidableEq, Repr

/-- Vector element types, in the code order of 02 R48. -/
inductive EType where
  | f32 | bf16 | f16 | e4m3 | e5m2 | i32 | i16 | i8 | f64 | c64
deriving DecidableEq, Repr

/-- Rounding modes, in the code order of 02 R62. -/
inductive Rm where
  | rne | rtz | rup | rdn
deriving DecidableEq, Repr

/-- Conditions of `VCMP` opcode 0x16 (04 R111). -/
inductive Cmp where
  | eq | lt | le | un
deriving DecidableEq, Repr

/-- Conditions of `VCMP` opcode 0x17 (04 R111). -/
inductive CmpU where
  | ltu | leu
deriving DecidableEq, Repr

/-- Conditions of `VBR` (04 R111). -/
inductive BrCond where
  | any | none | all
deriving DecidableEq, Repr

/-- Element widths of ZC transfers (04 R115). -/
inductive ZcWidth where
  | one | two | four
deriving DecidableEq, Repr

/-- The register blocks that a window write or a register write reaches. -/
inductive RegBlock where
  /-- the Signal Box control window (10 R260) -/
  | sbox
  /-- the fabric block (17 R378) -/
  | fabric
  /-- the power block (21 R427) -/
  | power
  /-- the memory-health block (11 R290) -/
  | health
  /-- the translation block (11 R299) -/
  | translation
  /-- the reuse counters of a die (15 R368) -/
  | reuse (die1 : Bool)
  /-- the migration engine's command ring (11 R293): 32-byte records, one per 32 bytes of offset -/
  | shunter
  /-- the BAR0 registers of a virtual function (21 R436) -/
  | bar0 (vf : Nat)
  /-- the system registers of a core, through the core-control path (15 R358): number `n` at offset 8 n -/
  | core (c : CoreId)
deriving DecidableEq, Repr

/-- A write of 4 or 8 bytes to a register block (00 R7). -/
structure RegWrite where
  block : RegBlock
  off : Nat
  wide : Bool
  value : Word
deriving DecidableEq, Repr

/-- What a PTP exchange tells the package (17 R382, R383): the rate to apply in parts per billion, the forward move of
the first lock, the TIMESTAT fields, and the best master that other packages announce: its priorities and its package. -/
structure PtpMessage where
  ratePpb : Int
  step : Nat
  offs : BitVec 32
  hops : BitVec 5
  lock : Bool
  prio1 : BitVec 8 := 0
  prio2 : BitVec 8 := 0
  master : BitVec 9 := 0
deriving DecidableEq, Repr

/-- A place of the management or control windows in the physical address space (21 R441). -/
structure WindowPlace where
  block : RegBlock
  base : Nat
  size : Nat
deriving DecidableEq, Repr

/-- What the signed configuration image fixes (21 R441), with the outcome of its signature check (R440). -/
structure ConfigImage where
  signatureOk : Bool
  version : Nat
  windows : List WindowPlace
  pkgid : BitVec 9
  prio1 : BitVec 8
  prio2 : BitVec 8
  budget : BitVec 16
  shares : List (BitVec 16)
  ports : BitVec 24
  sensorLimit : Nat
  readOut : Bool
deriving DecidableEq, Repr

/-- The steps of bring-up that can fail (21 R443). -/
inductive BootStep where
  | bootRom | configImage | training | ports | pcie | yard | selfTest
deriving DecidableEq, Repr

/-- How an expert fetch ends (10 R271). -/
inductive FetchResult where
  /-- a capacity-tier fetch runs to its own outcome -/
  | capacity
  /-- a peer fetch delivers these bytes -/
  | peerBytes (bs : List Byte)
  /-- a peer fetch fails under 17 R379 or R380 -/
  | fabricErr
deriving DecidableEq, Repr

/-- What an uncorrectable error strikes (15 R370, 19 R418-R420). -/
inductive UeTarget where
  | taskEntry (die : Bool) (i : Nat)
  | depCounter (die : Bool) (vf n : Nat)
  | tagEntry (die : Bool) (i : Nat)
  /-- an 8-byte word of memory, by the model's key of its first byte -/
  | memWord (key : Nat)
  | scalar (c : CoreId) (n : SReg)
  | vecWord (c : CoreId) (phys word : Nat)
deriving DecidableEq, Repr

/-- The operands of an event: an event has no encoding, so what it names comes with the turn that makes it happen.
Each event's docstring says which fields it reads. -/
structure EventArg where
  /-- a core -/
  core : CoreId := 0
  /-- a second core -/
  core2 : CoreId := 0
  lane : Lane := .s
  /-- an index: a line, a queue place, a cluster, a channel, a port, a virtual function, a token ... -/
  n : Nat := 0
  /-- a second index or an address -/
  m : Nat := 0
  flag : Bool := false
  value : BitVec 384 := 0
  bytes : List Byte := []
  boot : Option BootStep := none
  fetch : FetchResult := .capacity
  ptp : PtpMessage := { ratePpb := 0, step := 0, offs := 0, hops := 0, lock := false }
  reg : RegWrite := { block := .power, off := 0, wide := true, value := 0 }
  ue : UeTarget := .memWord 0
  img : Option ConfigImage := none
deriving DecidableEq, Repr

/-- The instructions of the package: lane words, M commands, Signal Box words, and the events of the machine. -/
inductive Instr where
  -- S lane (R100-R108)
  /-- `ADD`, R121: Writes a + b, wrapping modulo 2^64, to sd. -/
  | add (d a b : SReg)
  /-- `SUB`, R121: Writes a − b, wrapping, to sd. -/
  | sub (d a b : SReg)
  /-- `AND`, R121: Writes the bitwise AND of a and b to sd. -/
  | and_ (d a b : SReg)
  /-- `OR`, R121: Writes the bitwise OR of a and b to sd. -/
  | or_ (d a b : SReg)
  /-- `XOR`, R121: Writes the bitwise XOR of a and b to sd. -/
  | xor_ (d a b : SReg)
  /-- `ANDN`, R121: Writes a AND NOT b to sd. -/
  | andn (d a b : SReg)
  /-- `SHL`, R121: Shifts a left by b[5:0]. -/
  | shl (d a b : SReg)
  /-- `SHR`, R121: Shifts a right logically by b[5:0]. -/
  | shr (d a b : SReg)
  /-- `SRA`, R121: Shifts a right arithmetically by b[5:0]. -/
  | sra (d a b : SReg)
  /-- `SLT`, R121: Writes 1 if a < b signed, else 0. -/
  | slt (d a b : SReg)
  /-- `SLTU`, R121: Writes 1 if a < b unsigned, else 0. -/
  | sltu (d a b : SReg)
  /-- `MIN`, R121: Writes the signed lesser of a and b. -/
  | min_ (d a b : SReg)
  /-- `MAX`, R121: Writes the signed greater of a and b. -/
  | max_ (d a b : SReg)
  /-- `MINU`, R121: Writes the unsigned lesser of a and b. -/
  | minu (d a b : SReg)
  /-- `MAXU`, R121: Writes the unsigned greater of a and b. -/
  | maxu (d a b : SReg)
  /-- `SEL`, R121: Writes a if the old sd is nonzero, else b. -/
  | sel (d a b : SReg)
  /-- `MUL`, R122: Writes the low 64 bits of a × b. -/
  | mul (d a b : SReg)
  /-- `MULH`, R122: Writes the high half of the signed 128-bit product. -/
  | mulh (d a b : SReg)
  /-- `MULHU`, R122: Writes the high half of the unsigned 128-bit product. -/
  | mulhu (d a b : SReg)
  /-- `DIV`, R122: Writes the signed truncated quotient with fixed results for zero divisor and overflow. -/
  | div (d a b : SReg)
  /-- `DIVU`, R122: Writes the unsigned quotient, all ones for a zero divisor. -/
  | divu (d a b : SReg)
  /-- `REM`, R122: Writes the signed remainder with the sign of the dividend. -/
  | rem (d a b : SReg)
  /-- `REMU`, R122: Writes the unsigned remainder, a for a zero divisor. -/
  | remu (d a b : SReg)
  /-- `CLZ`, R122: Counts leading zero bits of a. -/
  | clz (d a : SReg)
  /-- `CTZ`, R122: Counts trailing zero bits of a. -/
  | ctz (d a : SReg)
  /-- `POPC`, R122: Counts the one bits of a. -/
  | popc (d a : SReg)
  /-- `ADDI`, R123: Adds a sign-extended 11-bit immediate to a. -/
  | addi (d a : SReg) (imm : BitVec 11)
  /-- `ANDI`, R123: ANDs a with a zero-extended immediate. -/
  | andi (d a : SReg) (imm : BitVec 11)
  /-- `ORI`, R123: ORs a with a zero-extended immediate. -/
  | ori (d a : SReg) (imm : BitVec 11)
  /-- `XORI`, R123: XORs a with a zero-extended immediate. -/
  | xori (d a : SReg) (imm : BitVec 11)
  /-- `SHLI`, R123: Shifts a left by an immediate count. -/
  | shli (d a : SReg) (sh : BitVec 6)
  /-- `SHRI`, R123: Shifts a right logically by an immediate count. -/
  | shri (d a : SReg) (sh : BitVec 6)
  /-- `SRAI`, R123: Shifts a right arithmetically by an immediate count. -/
  | srai (d a : SReg) (sh : BitVec 6)
  /-- `SLTI`, R123: Writes 1 if a is less than the signed immediate. -/
  | slti (d a : SReg) (imm : BitVec 11)
  /-- `LIS`, R124: Places a 16-bit value at bit 16k, clearing the bits below and keeping those above. -/
  | lis (d : SReg) (k : BitVec 2) (imm : BitVec 16)
  /-- `BEQ`, R129: Branches when a equals b. -/
  | beq (a b : SReg) (off : BitVec 11)
  /-- `BNE`, R129: Branches when a differs from b. -/
  | bne (a b : SReg) (off : BitVec 11)
  /-- `BLT`, R129: Branches when a < b signed. -/
  | blt (a b : SReg) (off : BitVec 11)
  /-- `BGE`, R129: Branches when a ≥ b signed. -/
  | bge (a b : SReg) (off : BitVec 11)
  /-- `BLTU`, R129: Branches when a < b unsigned. -/
  | bltu (a b : SReg) (off : BitVec 11)
  /-- `BGEU`, R129: Branches when a ≥ b unsigned. -/
  | bgeu (a b : SReg) (off : BitVec 11)
  /-- `LOOP`, R130: Decrements a nonzero counter and branches while it stays nonzero. -/
  | loop (a : SReg) (off : BitVec 11)
  /-- `JMP`, R131: Jumps by a 21-bit word offset. -/
  | jmp (off : BitVec 21)
  /-- `CALL`, R132: Pushes a 72-byte frame to the spill area and transfers to the target. -/
  | call (off : BitVec 21)
  /-- `JAL`, R131: Writes the link and jumps by a 16-bit word offset. -/
  | jal (d : SReg) (off : BitVec 16)
  /-- `JALR`, R131: Writes the link and jumps to sa plus an offset. -/
  | jalr (d a : SReg) (imm : BitVec 11)
  /-- `MCALL`, R139: Executes macro n of the control store as one instruction. -/
  | mcall (n : BitVec 6) (d a b : SReg)
  /-- `IDLE`, R135: Delays the next S-lane word by n cycles. -/
  | idle (n : BitVec 16)
  /-- `LD_B`, R141: Loads a sign-extended byte. -/
  | ldB (d a : SReg) (imm : BitVec 11)
  /-- `LD_BU`, R141: Loads a zero-extended byte. -/
  | ldBu (d a : SReg) (imm : BitVec 11)
  /-- `LD_H`, R141: Loads a sign-extended half word. -/
  | ldH (d a : SReg) (imm : BitVec 11)
  /-- `LD_HU`, R141: Loads a zero-extended half word. -/
  | ldHu (d a : SReg) (imm : BitVec 11)
  /-- `LD_W`, R141: Loads a sign-extended word. -/
  | ldW (d a : SReg) (imm : BitVec 11)
  /-- `LD_WU`, R141: Loads a zero-extended word. -/
  | ldWu (d a : SReg) (imm : BitVec 11)
  /-- `LD_D`, R141: Loads a double word. -/
  | ldD (d a : SReg) (imm : BitVec 11)
  /-- `ST_B`, R141: Stores the low byte of the data register. -/
  | stB (a b : SReg) (off : BitVec 11)
  /-- `ST_H`, R141: Stores the low half word of the data register. -/
  | stH (a b : SReg) (off : BitVec 11)
  /-- `ST_W`, R141: Stores the low word of the data register. -/
  | stW (a b : SReg) (off : BitVec 11)
  /-- `ST_D`, R141: Stores the data register as a double word. -/
  | stD (a b : SReg) (off : BitVec 11)
  /-- `LDX`, R141: Loads from sa plus a scaled index with the size from SZ. -/
  | ldx (sz : LoadSize) (scale : BitVec 2) (d a b : SReg)
  /-- `STX`, R141: Stores sd to sa plus a scaled index with the size from SZ. -/
  | stx (sz : StoreSize) (scale : BitVec 2) (d a b : SReg)
  /-- `PREF`, R144: Hints that a line be brought into a cache level, with no architectural effect. -/
  | pref (hint : BitVec 2) (a : SReg) (imm : BitVec 11)
  /-- `APTO_PKG`, R145: Converts an own-core window address to its package-wide form. -/
  | aptoPkg (d a : SReg)
  /-- `APTO_OWN`, R145: Converts a package-wide address of the own core to its own-window form. -/
  | aptoOwn (d a : SReg)
  /-- `APIS`, R146: Writes 1 when an address decodes to the named window without APERTURE. -/
  | apis (w : Window) (d a : SReg)
  /-- `LDA_W`, R148: Loads a word as an acquire at the address's natural scope. -/
  | ldaW (d a : SReg) (imm : BitVec 11)
  /-- `LDA_D`, R148: Loads a double word as an acquire. -/
  | ldaD (d a : SReg) (imm : BitVec 11)
  /-- `STL_W`, R148: Stores a word as a release. -/
  | stlW (a b : SReg) (off : BitVec 11)
  /-- `STL_D`, R148: Stores a double word as a release. -/
  | stlD (a b : SReg) (off : BitVec 11)
  /-- `ATOM_W`, R149: Performs an indivisible 4-byte read-modify-write with the given order. -/
  | atomW (op : AtomOp) (ord : MemOrder) (d a b : SReg)
  /-- `ATOM_D`, R149: Performs an indivisible 8-byte read-modify-write with the given order. -/
  | atomD (op : AtomOp) (ord : MemOrder) (d a b : SReg)
  /-- `CAS_W`, R149: Compares and swaps 4 bytes with success and failure orders. -/
  | casW (succ fail : MemOrder) (d a b : SReg)
  /-- `CAS_D`, R149: Compares and swaps 8 bytes with success and failure orders. -/
  | casD (succ fail : MemOrder) (d a b : SReg)
  /-- `FATOM_W`, R150: Performs a 4-byte plain atomic at the line's home. -/
  | fatomW (op : AtomOp) (d a b : SReg)
  /-- `FATOM_D`, R150: Performs an 8-byte plain atomic at the line's home. -/
  | fatomD (op : AtomOp) (d a b : SReg)
  /-- `FENCE`, R152: Blocks for a release, acquire or full fence at the named scope. -/
  | fence (kind : FenceKind) (scope : Scope)
  /-- `SIGADD`, R158: Adds sa[31:0] to a signal of the own or a named core as a release. -/
  | sigadd (g : SgReg) (a : SReg)
  /-- `SIGWAIT`, R159: Blocks until a count threshold is met or a byte-mode signal is disarmed, then acquires. -/
  | sigwait (g : SgReg) (a : SReg)
  /-- `SIGEXPECT`, R160: Sets a signal to count mode or arms it in byte mode with an expectation. -/
  | sigexpect (g : SgReg) (a : SReg)
  /-- `SIGREAD`, R161: Copies the own core's signal state into sd. -/
  | sigread (d : SReg) (g : SgReg)
  /-- `RINGCLAIM`, R163: Waits for room and claims an entry of a peer's ring. -/
  | ringclaim (d : SReg) (r : BitVec 4) (a : SReg)
  /-- `RINGCOMMIT`, R163: Marks a claimed entry committed and advances TAIL. -/
  | ringcommit (r : BitVec 4) (a : SReg)
  /-- `RINGWAITF`, R163: Waits until m entries are free in a peer's ring. -/
  | ringwaitf (r : BitVec 4) (a : SReg)
  /-- `RINGWAITE`, R163: Waits until m committed entries await taking in the own ring. -/
  | ringwaite (r : BitVec 4) (a : SReg)
  /-- `RINGTAKE`, R163: Waits for and takes the next committed entry of the own ring. -/
  | ringtake (d : SReg) (r : BitVec 4)
  /-- `RINGDONE`, R163: Marks a taken entry done and advances HEAD. -/
  | ringdone (r : BitVec 4) (a : SReg)
  /-- `OWN`, R164: Waits for pending accesses and flips the owner fields of a slot range. -/
  | own (first : BitVec 8) (count1 : BitVec 5) (o : Owner)
  /-- `OWNWAIT`, R165: Waits for pending accesses to a slot range without changing owners. -/
  | ownwait (first : BitVec 8) (count1 : BitVec 5) (o : Owner)
  /-- `TICKWAIT`, R167: Forms its group when PTIME reaches sa and loads CYC with sa. -/
  | tickwait (a : SReg)
  /-- `LAMPTEST`, R168: Writes the Lamp state and DONE condition into sd. -/
  | lamptest (d : SReg)
  /-- `COLLRDY`, R386: Releases, reads and checks a collective tile entry and sets its ready flag, firing it. -/
  | collrdy (a b : SReg)
  /-- `RPROBE`, R171: Looks up a reuse tag and decides COMPUTE, SKIP or CANDIDATE. -/
  | rprobe (d a b : SReg)
  /-- `RPUT`, R172: Installs a new reuse entry image for a tag. -/
  | rput (a b : SReg)
  /-- `RDROP`, R172: Invalidates a reuse tag if present. -/
  | rdrop (a : SReg)
  /-- `LVREAD`, R173: Reads the task's copy of a loop register. -/
  | lvread (d : SReg) (n : BitVec 4)
  /-- `LVWRITE`, R173: Writes the core's copy of a loop register at system level. -/
  | lvwrite (n : BitVec 4) (a : SReg)
  /-- `MFSEL`, R174: Writes MFIDX.SRC and BASE. -/
  | mfsel (src : MfSrc) (base : BitVec 4)
  /-- `ACQP`, R175: Checks limits and waits for a grant of n energy units. -/
  | acqp (n : BitVec 16)
  /-- `RELP`, R175: Returns up to n energy units. -/
  | relp (n : BitVec 16)
  /-- `SETDIV`, R176: Requests a divisor for an engine class of the cluster and blocks until it is in effect. -/
  | setdiv (eng : Engine) (dv : BitVec 7)
  /-- `PHINT`, R178: Marks a pre-emption point, taken when a request is pending and conditions hold. -/
  | phint (a : SReg)
  /-- `TRAP`, R179: Raises TRAP_SW with TVAL = n. -/
  | trap (n : BitVec 16)
  /-- `SYSR`, R180: Reads system register n. -/
  | sysr (d : SReg) (n : BitVec 11)
  /-- `SYSW`, R180: Writes system register n under the checks of R61. -/
  | sysw (n : BitVec 11) (a : SReg)
  /-- `L2CONV`, R181: Converts L2 ways to cluster scratchpad or back. -/
  | l2conv (back : Bool) (ways : BitVec 5)
  /-- `EVENT`, R182: Releases and posts a copy of a launch record to the die's launch queue. -/
  | event (a : SReg)
  /-- `XDSET`, R183: Sets a descriptor to a contiguous walk of 32 × n bytes. -/
  | xdset (x : XdReg) (a : SReg) (n : BitVec 11)
  /-- `XDSET_D1`, R183: Writes CNT1 and STR1 of a descriptor and resets CUR. -/
  | xdsetD1 (x : XdReg) (a b : SReg)
  /-- `XDSET_D2`, R183: Writes CNT2 and STR2 of a descriptor and resets CUR. -/
  | xdsetD2 (x : XdReg) (a b : SReg)
  /-- `XDSET_WIN`, R183: Writes WIN of a descriptor and resets CUR; `b` is reserved, 0 (DEDUCED, log 39). -/
  | xdsetWin (x : XdReg) (a b : SReg)
  /-- `XDSET_LEN`, R183: Writes LEN of a descriptor and resets CUR; `b` is reserved, 0 (DEDUCED, log 39). -/
  | xdsetLen (x : XdReg) (a b : SReg)
  /-- `TBIND`, R236: Reads and checks a binding record and queues the new binding. -/
  | tbind (a : SReg)
  /-- `TMAP`, R239: Queues a write of a TBMAP register. -/
  | tmap (n : BitVec 2) (a : SReg)
  /-- `TGLD`, R245: Loads a gate matrix into a gate register. -/
  | tgld (real : Bool) (a : SReg) (g : GReg)
  /-- `TGATE`, R246: Queues a gate applied to the bound state, swapping non-local targets first. -/
  | tgate (m : TurnMode) (a : SReg) (g : GReg)
  /-- `TCGATE`, R246: Queues a controlled gate on the bound state. -/
  | tcgate (m : TurnMode) (d a : SReg) (g : GReg)
  /-- `TDIAG`, R246: Queues a diagonal gate without data movement. -/
  | tdiag (m : TurnMode) (a : SReg) (g : GReg)
  /-- `TSWAP`, R247: Queues an exchange of the physical positions of two logical bits. -/
  | tswap (a : SReg)
  /-- `TPROB`, R248: Waits and returns the probability of selected bit values as binary64. -/
  | tprob (d a : SReg)
  /-- `TNORM`, R248: Waits and returns the squared norm of the bound state. -/
  | tnorm (m : TurnMode) (d : SReg)
  -- V lane (R109-R111)
  /-- `VSETSHAPE`, R187: Writes VSHAPE element type and vector length. -/
  | vsetshape (ty : EType) (vl : BitVec 9)
  /-- `VADD`, R188: Adds vectors elementwise. -/
  | vadd (d a b : VReg) (p : PReg)
  /-- `VSUB`, R188: Subtracts vectors elementwise. -/
  | vsub (d a b : VReg) (p : PReg)
  /-- `VMUL`, R188: Multiplies vectors elementwise. -/
  | vmul (d a b : VReg) (p : PReg)
  /-- `VDIV`, R188: Divides vectors elementwise. -/
  | vdiv (d a b : VReg) (p : PReg)
  /-- `VMIN`, R188: Elementwise minimum. -/
  | vmin (d a b : VReg) (p : PReg)
  /-- `VMAX`, R188: Elementwise maximum. -/
  | vmax (d a b : VReg) (p : PReg)
  /-- `VFMA`, R188: Fused a × b + old destination. -/
  | vfma (d a b : VReg) (p : PReg)
  /-- `VFMS`, R188: Fused a × b − old destination. -/
  | vfms (d a b : VReg) (p : PReg)
  /-- `VFNMA`, R188: Fused old destination − a × b. -/
  | vfnma (d a b : VReg) (p : PReg)
  /-- `VCMUL`, R188: Complex multiply of C64 elements. -/
  | vcmul (d a b : VReg) (p : PReg)
  /-- `VABS`, R189: Clears the sign bit or takes the integer absolute value. -/
  | vabs (d a : VReg) (p : PReg)
  /-- `VNEG`, R189: Inverts the sign bit or negates integers. -/
  | vneg (d a : VReg) (p : PReg)
  /-- `VRCP`, R190: Correctly rounded reciprocal. -/
  | vrcp (d a : VReg) (p : PReg)
  /-- `VRSQRT`, R190: Correctly rounded reciprocal square root. -/
  | vrsqrt (d a : VReg) (p : PReg)
  /-- `VSQRT`, R190: Correctly rounded square root. -/
  | vsqrt (d a : VReg) (p : PReg)
  /-- `VEXP2`, R190: Correctly rounded 2^x. -/
  | vexp2 (d a : VReg) (p : PReg)
  /-- `VLOG2`, R190: Correctly rounded log2 x. -/
  | vlog2 (d a : VReg) (p : PReg)
  /-- `VSINPI`, R190: Correctly rounded sin(πx). -/
  | vsinpi (d a : VReg) (p : PReg)
  /-- `VCOSPI`, R190: Correctly rounded cos(πx). -/
  | vcospi (d a : VReg) (p : PReg)
  /-- `VSIG`, R190: Correctly rounded logistic sigmoid. -/
  | vsig (d a : VReg) (p : PReg)
  /-- `VIADD`, R191: Wrapping integer add. -/
  | viadd (d a b : VReg) (p : PReg)
  /-- `VISUB`, R191: Wrapping integer subtract. -/
  | visub (d a b : VReg) (p : PReg)
  /-- `VIMUL`, R191: Low bits of integer product. -/
  | vimul (d a b : VReg) (p : PReg)
  /-- `VAND`, R191: Bitwise AND of vectors. -/
  | vand (d a b : VReg) (p : PReg)
  /-- `VOR`, R191: Bitwise OR of vectors. -/
  | vor (d a b : VReg) (p : PReg)
  /-- `VXOR`, R191: Bitwise XOR of vectors. -/
  | vxor (d a b : VReg) (p : PReg)
  /-- `VSHL`, R191: Integer shift left. -/
  | vshl (d a b : VReg) (p : PReg)
  /-- `VSHR`, R191: Integer logical shift right. -/
  | vshr (d a b : VReg) (p : PReg)
  /-- `VSRA`, R191: Integer arithmetic shift right. -/
  | vsra (d a b : VReg) (p : PReg)
  /-- `VCMP`, R192: Signed or floating compare writing a predicate. -/
  | vcmp (c : Cmp) (d : PReg) (a b : VReg) (p : PReg)
  /-- `VCMP_U`, R192: Unsigned compare writing a predicate. -/
  | vcmpU (c : CmpU) (d : PReg) (a b : VReg) (p : PReg)
  /-- `PAND`, R193: Predicate AND. -/
  | pand (d a b : PReg)
  /-- `POR`, R193: Predicate OR. -/
  | por (d a b : PReg)
  /-- `PXOR`, R193: Predicate XOR. -/
  | pxor (d a b : PReg)
  /-- `EFORM`, R253: Accumulates P2M terms of sources into an expansion register. -/
  | eform (d : EReg) (a b : VReg) (p : PReg)
  /-- `PCOUNT`, R193: Counts set predicate bits below VL into a scalar. -/
  | pcount (d : SReg) (a : PReg)
  /-- `VQL4DEC`, R195: Decodes one QL4 block of a superblock to binary32. -/
  | vql4dec (d a : VReg) (blk : BitVec 2) (p : PReg)
  /-- `VQL4ENC`, R196: Encodes 256 binary32 values into a QL4 superblock. -/
  | vql4enc (d a : VReg) (p : PReg)
  /-- `VREDSUM`, R197: Tree sum reduction. -/
  | vredsum (d a : VReg) (p : PReg)
  /-- `VREDMAX`, R197: Tree maximum reduction. -/
  | vredmax (d a : VReg) (p : PReg)
  /-- `VREDMIN`, R197: Tree minimum reduction. -/
  | vredmin (d a : VReg) (p : PReg)
  /-- `VSCAN`, R197: Inclusive prefix sums. -/
  | vscan (d a : VReg) (p : PReg)
  /-- `VCVT`, R194: Converts elements to a target type without saturation. -/
  | vcvt (d a : VReg) (ty : EType) (rm : Rm) (p : PReg)
  /-- `VCVT_S`, R194: Converts elements to a target type with the saturate option. -/
  | vcvtS (d a : VReg) (ty : EType) (rm : Rm) (p : PReg)
  /-- `ECLR`, R252: Clears coefficients and radius of an expansion register. -/
  | eclr (d : EReg)
  /-- `ESHIFT`, R252: Multipole-to-multipole shift accumulated into ed. -/
  | eshift (d a : EReg)
  /-- `ECONV`, R252: Multipole-to-local conversion accumulated into ed. -/
  | econv (d a : EReg)
  /-- `ELSHIFT`, R252: Local-to-local shift accumulated into ed. -/
  | elshift (d a : EReg)
  /-- `EADD`, R252: Adds two expansions with equal centres. -/
  | eadd (d a : EReg)
  /-- `EORD`, R252: Sets the expansion order. -/
  | eord (n : BitVec 5)
  /-- `VPERM`, R198: Permutes elements by index vector. -/
  | vperm (d a b : VReg) (p : PReg)
  /-- `VSLIDE`, R198: Slides elements by a signed amount. -/
  | vslide (d a : VReg) (n : BitVec 6) (p : PReg)
  /-- `VBCAST`, R198: Broadcasts a scalar into active elements. -/
  | vbcast (d : VReg) (a : SReg) (p : PReg)
  /-- `VCOMPRESS`, R198: Packs active elements to the front and zeros the rest. -/
  | vcompress (d a : VReg) (p : PReg)
  /-- `VBUCKET`, R199: Regroups payload by expert id and adds to expert use counters. -/
  | vbucket (d a b : VReg) (p : PReg)
  /-- `VLD`, R200: Loads a vector through a descriptor walk. -/
  | vld (d : VReg) (x : XdReg) (p : PReg)
  /-- `VST`, R200: Stores a vector through a descriptor walk. -/
  | vst (d : VReg) (x : XdReg) (p : PReg)
  /-- `VLDS`, R200: Strided vector load. -/
  | vlds (d : VReg) (a b : SReg) (p : PReg)
  /-- `VSTS`, R200: Strided vector store. -/
  | vsts (d : VReg) (a b : SReg) (p : PReg)
  /-- `VGATHER`, R200: Gathers elements by offsets. -/
  | vgather (d : VReg) (a : SReg) (b : VReg) (p : PReg)
  /-- `VSCATTER`, R200: Scatters elements by offsets. -/
  | vscatter (d : VReg) (a : SReg) (b : VReg) (p : PReg)
  /-- `QLD`, R202: Reserves a queue entry and reads 256 walk bytes into it. -/
  | qld (q : BitVec 2) (x : XdReg)
  /-- `VMOVS`, R203: Moves one element to a scalar. -/
  | vmovs (d : SReg) (a : VReg) (n : BitVec 6) (p : PReg)
  /-- `VGUIDE`, R205: Guidance combination u + g·c − g·u rounded once. -/
  | vguide (d a b : VReg) (p : PReg)
  /-- `VSTEP`, R205: Step update a·x + b·e rounded once. -/
  | vstep (d a b : VReg) (p : PReg)
  /-- `VTEMB`, R205: Timestep sine and cosine embedding. -/
  | vtemb (d a : VReg) (p : PReg)
  /-- `VLOOP`, R206: Rotates register bases and closes a counted V-lane loop. -/
  | vloop (off : BitVec 12) (n : BitVec 10)
  /-- `VBR`, R207: Branches on any, none or all predicate bits. -/
  | vbr (c : BrCond) (off : BitVec 12) (p : PReg)
  /-- `TCFG`, R208: Configures a tile's shape and zeros it. -/
  | tcfg (t : TReg) (rows1 cols1 : BitVec 4)
  /-- `TLDROW`, R208: Loads a tile row through a descriptor. -/
  | tldrow (t : TReg) (x : XdReg) (row : BitVec 4)
  /-- `TSTROW`, R208: Stores a tile row through a descriptor. -/
  | tstrow (t : TReg) (x : XdReg) (row : BitVec 4)
  /-- `TMOVR`, R208: Moves a tile row into a vector. -/
  | tmovr (d : VReg) (t : TReg) (row : BitVec 4)
  /-- `TMOVC`, R208: Moves a tile column into a vector. -/
  | tmovc (d : VReg) (t : TReg) (col : BitVec 4)
  /-- `TZERO`, R208: Zeros a tile within its shape. -/
  | tzero (t : TReg)
  /-- `TFMA`, R209: Tile matrix multiply-accumulate rounded once per element. -/
  | tfma (d a b : TReg)
  /-- `EEVAL`, R254: Adds an expansion's value at positions to a vector. -/
  | eeval (d a : VReg) (b : EReg) (p : PReg)
  /-- `EP2P`, R255: Adds direct near-field terms. -/
  | ep2p (d a b : VReg) (p : PReg)
  /-- `EADMIT`, R256: Writes the exact admissibility test into a predicate. -/
  | eadmit (d : PReg) (a b : EReg)
  /-- `ELD`, R257: Loads a 272-byte expansion record. -/
  | eld (d : EReg) (x : XdReg)
  /-- `EST`, R257: Stores a 272-byte expansion record. -/
  | est (d : EReg) (x : XdReg)
  -- M lane (R112-R113)
  /-- `MMA`, R218: Runs K outer-product steps from the FIFOs into accumulator banks. -/
  | mma (ab : AbReg) (k1 : BitVec 8) (mf : MfReg) (rh : Bool) (ncol1 : BitVec 5)
  /-- `MMASP`, R220: Runs 2:4 sparse outer-product steps into banks. -/
  | mmasp (ab : AbReg) (k1 : BitVec 8) (mf : MfReg) (rh : Bool) (ncol1 : BitVec 5)
  /-- `MMV`, R221: Applies a streamed matrix to held vectors. -/
  | mmv (ab : AbReg) (k1 : BitVec 8) (mf : MfReg) (nv1 : BitVec 3)
  /-- `MZERO`, R222: Zeros allocated banks. -/
  | mzero (ab : AbReg) (count : BitVec 6)
  /-- `MALLOC`, R222: Allocates banks with mode from the pending manifest. -/
  | malloc (ab : AbReg) (count : BitVec 6)
  /-- `MFREE`, R222: Frees allocated banks. -/
  | mfree (ab : AbReg) (count : BitVec 6)
  /-- `MHAND`, R222: Hands the drain right of banks to a cluster core. -/
  | mhand (ab : AbReg) (count : BitVec 6) (core : CoreId)
  /-- `MDRAIN`, R223: Converts bank entries and writes them through a descriptor. -/
  | mdrain (ab : AbReg) (count : BitVec 6) (x : XdReg) (sg : SgReg) (se : Bool)
  /-- `MLOAD`, R224: Loads raw 96-bit entries into banks. -/
  | mload (ab : AbReg) (count : BitVec 6) (x : XdReg)
  /-- `MFMT`, R224: Loads a manifest entry from memory. -/
  | mfmt (mf : MfReg) (x : XdReg)
  /-- `MLOOP`, R225: Closes the M lane's single counted loop and adjusts MOFF. -/
  | mloop (n : BitVec 12) (off : BitVec 16)
  -- X lane (R114-R115)
  /-- `XCOPY`, R228: Copies a source walk to a destination walk, or band-drains accumulators. -/
  | xcopy (a b : XdReg) (sg : SgReg) (se : Bool)
  /-- `XFEEDA`, R216: Pushes n entries into FIFO A in the pending manifest's format. -/
  | xfeeda (a : XdReg) (n1 : BitVec 8)
  /-- `XFEEDB`, R216: Pushes n entries into FIFO B in the pending manifest's format. -/
  | xfeedb (a : XdReg) (n1 : BitVec 8)
  /-- `XMCAST`, R230: Writes a source walk to every cluster core of a multicast set. -/
  | xmcast (mc : McReg) (b : XdReg) (sg : SgReg) (se : Bool)
  /-- `XGATHER`, R231: Gathers rows by index into a destination walk. -/
  | xgather (a b c : XdReg) (sg : SgReg) (se : Bool)
  /-- `XZCE`, R232: Encodes a walk as a ZC stream. -/
  | xzce (w : ZcWidth) (a b : XdReg) (sg : SgReg) (se : Bool)
  /-- `XZCD`, R232: Decodes a ZC stream into a walk. -/
  | xzcd (w : ZcWidth) (a b : XdReg) (sg : SgReg) (se : Bool)
  /-- `XDELTA`, R233: Measures the largest difference of an input from its reference. -/
  | xdelta (ty : EType) (a b : XdReg) (sg : SgReg) (se : Bool)
  /-- `XHALO`, R229: Copies a halo and signals the destination's owner core. -/
  | xhalo (a b : XdReg) (sg : SgReg) (se : Bool)
  /-- `XSIG`, R234: Adds n to a signal once every earlier X transfer and feed has completed. -/
  | xsig (sg : SgReg) (n : BitVec 8)
  /-- `XLOOP`, R234: Closes the X lane's counted loop. -/
  | xloop (n : BitVec 10) (off : BitVec 13)
  -- Signal Box program words (R116)
  /-- `SBURST`, R266: Reads units × 64 bytes and writes them to a multicast set. -/
  | sburst (mc : McReg) (units : BitVec 21) (src : BitVec 64)
  /-- `SWRITE`, R266: After earlier writes, stores a 32-bit value as a domain release. -/
  | swrite (addr : BitVec 64) (v : BitVec 32)
  /-- `SLOOP`, R268: Closes a Signal Box loop using the context's loop stack. -/
  | sloop (n : BitVec 11) (off : BitVec 16)
  /-- `SWAIT`, R266: Waits for a core's count-mode signal to reach a threshold and subtracts it. -/
  | swait (core : CoreId) (sg : SgReg) (t : BitVec 10)
  /-- `SSIG`, R266: After earlier writes, adds to a core's signal as a release. -/
  | ssig (core : CoreId) (sg : SgReg) (n : BitVec 10)
  /-- `SEXPERT`, R270: Sends an expert header and, when resident, its weights to a set. -/
  | sexpert (e : BitVec 12) (mc : McReg)
  /-- `SFETCH`, R271: Starts a fetch of an expert from the capacity tier or a peer. -/
  | sfetch (e : BitVec 12) (peer : Bool) (pkg : BitVec 9)
  /-- `SCOUNT`, R272: Writes and clears expert use counters. -/
  | scount (first : BitVec 12) (n : BitVec 13) (table : BitVec 64)
  /-- `SJUMP`, R266: Jumps by a signed word offset. -/
  | sjump (off : BitVec 27)
  -- lane, M and Signal Box words without operands
  /-- `RET`, R132: Pops the spill frame, restores s24–s31 and returns. -/
  | ret
  /-- `HALT`, R136: Waits for all lanes to park and all work to complete, releases at package scope and stops the core. -/
  | halt
  /-- `VFENCE`, R154: Blocks until every earlier vault write of the core is performed. -/
  | vfence
  /-- `SYNC`, R166: Opens a timed region when its sync group forms. -/
  | sync
  /-- `LAMPSEND`, R168: Updates and forwards the Lamp when the core holds it. -/
  | lampsend
  /-- `WAKE`, R177: Starts waking a gated matrix engine without waiting. -/
  | wake
  /-- `ERET`, R179: Restores PL from PPL and resumes every lane at its EPC. -/
  | eret
  /-- `TWAIT`, R241: Blocks until the core's earlier Turntable commands have completed. -/
  | twait
  /-- `V_NOP`, R99: V-lane no-op that spaces or synchronises its lane. -/
  | vnop
  /-- `MWAIT`, R225: Waits for earlier M commands and reports unresolved transfer faults. -/
  | mwait
  /-- `MSTOP`, R225: Parks the M lane. -/
  | mstop
  /-- `X_NOP`, R99: X-lane no-op. -/
  | xnop
  /-- `XWAIT`, R234: Blocks until earlier transfers and feeds end and reports unreported faults. -/
  | xwait
  /-- `SHALT`, R266: After earlier writes, posts an OK completion record and goes IDLE. -/
  | shalt
  /-- `SPARK`, R266: Parks the context until its SFETCHes have ended. -/
  | spark
  -- events of the machine, its engines and its host; their operands are the `EventArg` of the turn
  /-- `SYNC_GROUP`, R36: Issues all sync words of the non-parked lanes on the first cycle the group conditions hold. Reads core. -/
  | syncGroup
  /-- `CODE_FETCH`, R127: A word beyond the instruction buffer arrives on demand through L1 and L2. Reads core, lane. -/
  | codeFetch
  /-- `READ`, R313: An access leaves its queue and takes its value. Reads core, lane. -/
  | evRead
  /-- `WRITE`, R313: A write leaves its queue into the L1, a target or a vault path. Reads core, lane. -/
  | evWrite
  /-- `FETCH`, R313: An L1 copies a line from the L2 or the home. Reads core, n (line). -/
  | evFetch
  /-- `EVICT`, R313: A non-exclusive copy is removed, its dirty bytes written down. Reads core, n (line). -/
  | evEvict
  /-- `DRAIN`, R313: The dirty-line FIFO head line is written down. Reads core. -/
  | evDrain
  /-- `WB`, R313: A dirty L2 line goes to its home, which invalidates other L2 copies. Reads n (cluster), m (line). -/
  | evWb
  /-- `MARK`, R313: A release marker reaches the FIFO head and its release completes. Reads core. -/
  | evMark
  /-- `EXCL`, R313: An L1 obtains a line exclusively after recall. Reads core, n (line). -/
  | evExcl
  /-- `FAR`, R320: A FATOM is performed at the home after recall and a region check. Reads core. -/
  | evFar
  /-- `VERT`, R321: The oldest write of a vertical vault path is performed. Reads core. -/
  | evVert
  /-- `HORZ`, R321: The oldest write of a horizontal vault path is performed. Reads core, core2 (target). -/
  | evHorz
  /-- `ENG`, R313: One granule access of an engine is performed at its target. Reads core, n (transfer), m (unit). -/
  | evEng
  /-- `DONE`, R226: A transfer whose accesses are all performed completes and adds its signal. Reads core, n (transfer). -/
  | evDone
  /-- `SIG`, R157: A pending addition is applied to a signal, possibly firing it. Reads core, n (signal). -/
  | evSig
  /-- `QLD_FILL`, R49: The data of a QLD arrives and fills its reserved queue entry. Reads core, n (queue). -/
  | qldFill
  /-- `FEED_ENTRY_PUSH`, R216: A feed pushes its next entry into its FIFO after latency or room. Reads core, flag (FIFO B). -/
  | feedEntryPush
  /-- `MANIFEST_RESOLVE`, R444: The M lane resolves the manifest of its next matrix command once fetched, releasing held feeds. Reads core. -/
  | manifestResolve
  /-- `M_COMMAND_COMMIT`, R90: A matrix command's last write completes and its counts are added. Reads core. -/
  | mCommandCommit
  /-- `TILE_RESTORE`, R422: A lazily saved tile's bytes are read back from the image on first touch. Reads core, n (tile). -/
  | tileRestore
  /-- `TURNTABLE_COMMAND`, R240: The cluster's Turntable performs the next queued command. Reads n (cluster). -/
  | turntableCommand
  /-- `SETDIV_RAMP_END`, R176: A divisor ramp ends, the latest request applies and waiting SETDIVs complete. Reads n (cluster). -/
  | setdivRampEnd
  /-- `RING_LINK`, R360: A pending segment link is applied when HEAD reaches the origin lap. Reads core, n (ring). -/
  | ringLink
  /-- `LAMP_ARRIVE`, R361: A forwarded Lamp arrives at a participant, or passes a halted one. Reads core. -/
  | lampArrive
  /-- `CONTEXT_SAVE`, R410: After engines drain, the context image is written and the core halts. Reads core. -/
  | contextSave
  /-- `PREEMPT_REQUEST`, R408: The Yard Controller requests pre-emption with a context address. Reads core, value (context address). -/
  | preemptRequest
  /-- `PREEMPT_WITHDRAW`, R408: The Yard Controller withdraws a pending pre-emption request. Reads core. -/
  | preemptWithdraw
  /-- `DEBUG`, R405: A stop request is taken as a DEBUG trap when no timed region is open. Reads core. -/
  | debug
  /-- `RESUME`, R404: The Yard Controller resumes a stopped core at its EPCs. Reads core. -/
  | resume
  /-- `END`, R404: The Yard Controller ends a stopped task with status FAULT. Reads core. -/
  | end_
  /-- `SAVE`, R404: The Yard Controller saves a stopped core's context with everything live. Reads core, value (context address). -/
  | save
  /-- `RETRY`, R407: A fault record answer resumes the transfer at the failing granule. Reads flag (die), n (token). -/
  | retry
  /-- `ABANDON`, R407: A fault record answer leaves the transfer faulted. Reads flag (die), n (token). -/
  | abandon
  /-- `MACRO_STORE_WRITE`, R138: The Yard Controller writes entries of a core's macro store. Reads core, n (entry), value. -/
  | macroStoreWrite
  /-- `RING_CONFIG_WRITE`, R359: The Yard Controller writes a ring's configuration, possibly requesting a link. Reads core, n (ring), value, bytes (slot table). -/
  | ringConfigWrite
  /-- `BIND_RECORD_WRITE`, R355: The Yard Controller writes a bind record into the slot table. Reads flag (die), value. -/
  | bindRecordWrite
  /-- `DISPATCH`, R355: A region's task, or a whole gang, is entered or resumed once records head every queue and cores halted. Reads core (first core), value (owner codes that `.slot` lines give the slots, 2 bits each), m and bytes (slot and bytes of a `.data slot` section). -/
  | dispatch
  /-- `LAUNCH`, R343: The Timetable takes a launch record from a queue and checks it and its graph. Reads flag (die), n (virtual function). -/
  | launch
  /-- `STEP_START`, R349: The Timetable begins step k, loading loop values and dependence counters. Reads flag (die), n (virtual function). -/
  | stepStart
  /-- `WALKER_EXPAND`, R351: The walker expands the next tile step of a ready OPB while a task entry is free. Reads flag (die), n (virtual function), m (OPB; where it is not ready, the lowest ready one). -/
  | walkerExpand
  /-- `EVENT_COALESCE_TIMEOUT`, R363: The oldest pending event reaches NS nanoseconds and an MSI-X is sent. Reads n (virtual function). -/
  | eventCoalesceTimeout
  /-- `EVHEAD_WRITE`, R363: The host writes EVHEAD, consuming entries and re-arming interrupts. Reads n (virtual function), value. -/
  | evheadWrite
  /-- `LQPOST`, R437: The host posts LQREC to a die's launch queue, or is refused when full. Reads n (virtual function), value. -/
  | lqpost
  /-- `FUNCTION_LEVEL_RESET`, R438: A function level reset stops and clears one virtual function. Reads n (virtual function). -/
  | functionLevelReset
  /-- `START`, R261: SBCTL START runs an IDLE Signal Box context from PC 0. Reads n (context). -/
  | sbStart
  /-- `STOP`, R261: SBCTL STOP stops a running context after its current word. Reads n (context). -/
  | sbStop
  /-- `SBCTL_RESUME`, R261: SBCTL RESUME runs a STOPPED or FAULT context at PC. Reads n (context). -/
  | sbctlResume
  /-- `BURST_MEMBER_DONE`, R265: A member's burst bytes are all performed and its signal receives one addition. Reads n (context), m (burst), core (the member; where it is none, the first). -/
  | burstMemberDone
  /-- `FETCH_END`, R271: An expert fetch ends, leaving RESIDENT or restoring the state with a fault record. Reads n (expert), fetch. -/
  | fetchEnd
  /-- `EXPERT_ENTRY_WRITE`, R270: A window write to an expert entry, ignored in part while FETCHING. Reads n (expert), value. -/
  | expertEntryWrite
  /-- `PAGE_OUT_PACKED`, R296: The Shunter stores pages canonically coded, or raw when not smaller. -/
  | pageOutPacked
  /-- `PAGE_OUT_RAW`, R294: The Shunter stores pages raw. -/
  | pageOutRaw
  /-- `PAGES_IN`, R297: The Shunter decodes stored pages into HBM. -/
  | pagesIn
  /-- `BADCMD`, R293: A migration command with a bad OP or zero field is refused. -/
  | badcmd
  /-- `MIGRATION_COMPLETE`, R293: A migration command ends and writes its completion word. -/
  | migrationComplete
  /-- `TLB_INVALIDATE`, R304: Software posts an invalidation of a function and range. Reads n (virtual function), m (first page), value (last address). -/
  | tlbInvalidate
  /-- `INVALIDATION_COMPLETE`, R304: Every TLB has dropped matching entries and their accesses are performed. -/
  | invalidationComplete
  /-- `L2_WAY_GATE`, R285: The estimator writes back and gates an L2 cache way. Reads n (cluster), m (way). -/
  | l2WayGate
  /-- `L2_WAY_UNGATE`, R285: A gated way is ungated as its slice's miss rate rises. Reads n (cluster), m (way). -/
  | l2WayUngate
  /-- `VAULT_SCRUB`, R278: The scrubber reads and corrects a vault word in an idle cycle. Reads core, n (offset), flag (a bit is wrong). -/
  | vaultScrub
  /-- `LINK_CRC`, R289: An HBM flit fails its CRC and is replayed, up to four times. Reads n (channel), m (failed replays), flag (write), bytes, value (line). -/
  | linkCrc
  /-- `REFRESH_WINDOW`, R291: An HBM channel blocks access for a refresh window. Reads n (channel). -/
  | refreshWindow
  /-- `HBM_RETRAIN`, R291: An HBM channel retrains, or is removed from service on failure. Reads n (channel), flag (passed). -/
  | hbmRetrain
  /-- `RETRAIN`, R290: Writing RETRAIN requests retraining at the next refresh window. Reads n (channel). -/
  | retrain
  /-- `CLEAR`, R290: Writing CLEAR zeroes a channel's four health counters. Reads n (channel). -/
  | healthClear
  /-- `FLIT_REPLAY`, R376: A Wingafy flit fails its CRC and is replayed. Reads n (port), flag (the port's last failure was of another flit). -/
  | flitReplay
  /-- `PORT_RETRAIN`, R376: After eight failures a port retrains, or goes DOWN and resends its flits. Reads n (port), m (good lanes: 4, 2 or 0). -/
  | portRetrain
  /-- `PORT_CLEAR`, R377: Writing CLEAR zeroes a port's DOWNS and REPLAY. Reads n (port). -/
  | portClear
  /-- `FABRIC_COUNTERS_CLEAR`, R378: Writing CLEAR zeroes the seven fabric counters. -/
  | fabricCountersClear
  /-- `REMOTE_TIMEOUT`, R380: A remote request gets no response in 2 ms and fails with FABRIC_ERR. Reads core, n (line), flag (write). -/
  | remoteTimeout
  /-- `PTP_MESSAGE`, R382: A PTP message adjusts the PTIME discipline and lock state. Reads ptp. -/
  | ptpMessage
  /-- `COLL_SEND_DONE`, R387: A sender's base die has read SRC, sent the arrival and sets DONE. Reads n (pending send). -/
  | collSendDone
  /-- `COLL_ARRIVAL`, R389: An arrival reaches DPKG's base die and is applied, parked or discarded. Reads n (virtual function), m (sending package), value (DST), bytes. -/
  | collArrival
  /-- `PARKED_ARRIVAL_APPLY`, R388: A parked arrival is applied once its turn, slot or page is ready, completing the slot when last. Reads n (parked arrival). -/
  | parkedArrivalApply
  /-- `POWER_GRANT`, R430: At each PTIME microsecond the Energy Controller grants waiting ACQP requests. -/
  | powerGrant
  /-- `DRAW_WINDOW_END`, R433: A draw-estimate window ends and the charge and flag restart. -/
  | drawWindowEnd
  /-- `THROTTLE_INTERVAL`, R434: Every 10 µs the throttle level k is raised or lowered. Reads flag (condition holds). -/
  | throttleInterval
  /-- `MATRIX_GATE`, R435: An idle matrix engine gates after MIDLE × 64 cycles. Reads core. -/
  | matrixGate
  /-- `MATRIX_WAKE_DONE`, R435: A waking matrix engine becomes ready after 256 cycles. Reads core. -/
  | matrixWakeDone
  /-- `PWRCFG_WRITE`, R428: Writes PWRCFG; MODE NORMAL wakes every gated matrix engine. Reads value. -/
  | pwrcfgWrite
  /-- `REUSE_COUNTERS_CLEAR`, R368: Writing CLEAR zeroes a die's six reuse counters. Reads flag (die). -/
  | reuseCountersClear
  /-- `FREEZE`, R439: Writing FREEZE stops every clock of the package. -/
  | freeze
  /-- `FRZ_N`, R439: Asserting FRZ_N stops every clock of the package. -/
  | frzN
  /-- `PACKAGE_RESET`, R443: A package reset runs secure boot and bring-up. Reads boot (failing step), img. -/
  | packageReset
  /-- `CONFIGURATION_IMAGE`, R441: A new signed configuration image is accepted in RECOVERY. Reads img. -/
  | configurationImage
  /-- `GET_VERSION`, R442: SPDM request returning supported versions. -/
  | getVersion
  /-- `GET_CAPABILITIES`, R442: SPDM request returning capabilities. -/
  | getCapabilities
  /-- `NEGOTIATE_ALGORITHMS`, R442: SPDM request settling P-521 and SHA-512. Reads n (1: P-521 offered), m (1: SHA-512 offered). -/
  | negotiateAlgorithms
  /-- `GET_DIGESTS`, R442: SPDM request returning certificate digests. -/
  | getDigests
  /-- `GET_CERTIFICATE`, R442: SPDM request returning the certificate chain. Reads n (offset), m (length). -/
  | getCertificate
  /-- `CHALLENGE`, R442: SPDM challenge signed with the identity key. Reads value (nonce). -/
  | challenge
  /-- `GET_MEASUREMENTS`, R442: SPDM request returning measurements 1–4. Reads n (index). -/
  | getMeasurements
  /-- `REGISTER_WRITE`, R7: A write to a register without a row of its own, under its access codes. Reads reg. -/
  | registerWrite
  /-- `UNCORRECTABLE_ERROR`, R370: An uncorrectable error strikes a task entry or a live dependence counter in queue SRAM, and the task or OPB and its transitive successors are DROPPED and counted as lost. Reads ue. -/
  | uncorrectableError
deriving DecidableEq, Repr

end Sys2Proof
end

