-- ==== Sys2Proof/WellFormed.lean ====
section
/-! DEFINITION. Well-formed instructions: the operand values that the encoding of an instruction admits (04 R101-R117),
and the ranges of the names an event carries. -/

namespace Sys2Proof

/-- 02 R68 `valid_core`: the cluster field lies in 0-17. -/
def validCore (c : CoreId) : Bool := decide (c.toNat / 8 % 32 < 18)

/-- A code that names `v0`-`v59` (04 R109). -/
def isVec (r : VReg) : Bool := decide (r.toNat < 60)

/-- The greatest vector length of a type (02 R48). -/
def EType.maxVl : EType → Nat
  | .f32 => 64 | .bf16 => 128 | .f16 => 128 | .e4m3 => 256 | .e5m2 => 256
  | .i32 => 64 | .i16 => 128 | .i8 => 256 | .f64 => 32 | .c64 => 32

/-- A vector length that `VSHAPE` may hold for a type (02 R48). -/
def shapeOk (ty : EType) (vl : Nat) : Bool := decide (1 ≤ vl) && decide (vl ≤ ty.maxVl)

/-- A bank count of 1 to 32 (04 R113). -/
def countOk (n : Nat) : Bool := decide (1 ≤ n) && decide (n ≤ 32)

/-- The names in a register block lie in their ranges. -/
def RegBlock.wf : RegBlock → Bool
  | .sbox => true | .fabric => true | .power => true | .health => true | .translation => true
  | .reuse _ => true | .shunter => true | .bar0 vf => decide (vf < 96) | .core c => validCore c

def RegWrite.wf (w : RegWrite) : Bool := w.block.wf && (w.off % (if w.wide then 8 else 4) == 0)

/-- The rate stays within 50 ppm (17 R382), HOPS within 0-16 (17 R383). -/
def PtpMessage.wf (m : PtpMessage) : Bool :=
  decide (-50000 ≤ m.ratePpb) && decide (m.ratePpb ≤ 50000) && decide (m.hops.toNat ≤ 16)

def UeTarget.wf : UeTarget → Bool
  | .taskEntry _ i => decide (i < 16384)
  | .depCounter _ vf n => decide (vf < 96) && decide (n < 16384)
  | .tagEntry _ i => decide (i < 32768)
  | .memWord k => k % 8 == 0
  | .scalar c _ => validCore c
  | .vecWord c p w => validCore c && decide (p < 60) && decide (w < 32)

/-- The operand values that the encoding admits. -/
def Instr.wf : Instr → Bool
  | .add _ _ _ => true
  | .sub _ _ _ => true
  | .and_ _ _ _ => true
  | .or_ _ _ _ => true
  | .xor_ _ _ _ => true
  | .andn _ _ _ => true
  | .shl _ _ _ => true
  | .shr _ _ _ => true
  | .sra _ _ _ => true
  | .slt _ _ _ => true
  | .sltu _ _ _ => true
  | .min_ _ _ _ => true
  | .max_ _ _ _ => true
  | .minu _ _ _ => true
  | .maxu _ _ _ => true
  | .sel _ _ _ => true
  | .mul _ _ _ => true
  | .mulh _ _ _ => true
  | .mulhu _ _ _ => true
  | .div _ _ _ => true
  | .divu _ _ _ => true
  | .rem _ _ _ => true
  | .remu _ _ _ => true
  | .clz _ _ => true
  | .ctz _ _ => true
  | .popc _ _ => true
  | .addi _ _ _ => true
  | .andi _ _ _ => true
  | .ori _ _ _ => true
  | .xori _ _ _ => true
  | .shli _ _ _ => true
  | .shri _ _ _ => true
  | .srai _ _ _ => true
  | .slti _ _ _ => true
  | .lis _ _ _ => true
  | .beq _ _ _ => true
  | .bne _ _ _ => true
  | .blt _ _ _ => true
  | .bge _ _ _ => true
  | .bltu _ _ _ => true
  | .bgeu _ _ _ => true
  | .loop _ _ => true
  | .jmp _ => true
  | .call _ => true
  | .jal _ _ => true
  | .jalr _ _ _ => true
  | .ret => true
  | .mcall _ _ _ _ => true
  | .idle _ => true
  | .halt => true
  | .ldB _ _ _ => true
  | .ldBu _ _ _ => true
  | .ldH _ _ _ => true
  | .ldHu _ _ _ => true
  | .ldW _ _ _ => true
  | .ldWu _ _ _ => true
  | .ldD _ _ _ => true
  | .stB _ _ _ => true
  | .stH _ _ _ => true
  | .stW _ _ _ => true
  | .stD _ _ _ => true
  | .ldx _ _ _ _ _ => true
  | .stx _ _ _ _ _ => true
  | .pref _ _ _ => true
  | .aptoPkg _ _ => true
  | .aptoOwn _ _ => true
  | .apis _ _ _ => true
  | .ldaW _ _ _ => true
  | .ldaD _ _ _ => true
  | .stlW _ _ _ => true
  | .stlD _ _ _ => true
  | .atomW _ _ _ _ _ => true
  | .atomD _ _ _ _ _ => true
  | .casW _ fail _ _ _ => fail != .rel
  | .casD _ fail _ _ _ => fail != .rel
  | .fatomW _ _ _ _ => true
  | .fatomD _ _ _ _ => true
  | .fence _ _ => true
  | .vfence => true
  | .sigadd _ _ => true
  | .sigwait _ _ => true
  | .sigexpect _ _ => true
  | .sigread _ _ => true
  | .ringclaim _ _ _ => true
  | .ringcommit _ _ => true
  | .ringwaitf _ _ => true
  | .ringwaite _ _ => true
  | .ringtake _ _ => true
  | .ringdone _ _ => true
  | .own _ _ _ => true
  | .ownwait _ _ _ => true
  | .sync => true
  | .tickwait _ => true
  | .lampsend => true
  | .lamptest _ => true
  | .collrdy _ _ => true
  | .rprobe _ _ _ => true
  | .rput _ _ => true
  | .rdrop _ => true
  | .lvread _ _ => true
  | .lvwrite _ _ => true
  | .mfsel _ _ => true
  | .acqp _ => true
  | .relp _ => true
  | .setdiv _ _ => true
  | .wake => true
  | .phint _ => true
  | .trap _ => true
  | .eret => true
  | .sysr _ _ => true
  | .sysw _ _ => true
  | .l2conv _ _ => true
  | .event _ => true
  | .xdset _ _ _ => true
  | .xdsetD1 _ _ _ => true
  | .xdsetD2 _ _ _ => true
  | .xdsetWin _ _ b => b == 0
  | .xdsetLen _ _ b => b == 0
  | .tbind _ => true
  | .tmap _ _ => true
  | .tgld _ _ _ => true
  | .tgate _ _ _ => true
  | .tcgate _ _ _ _ => true
  | .tdiag _ _ _ => true
  | .tswap _ => true
  | .tprob _ _ => true
  | .tnorm _ _ => true
  | .twait => true
  | .vnop => true
  | .vsetshape ty vl => shapeOk ty vl.toNat
  | .vadd d _ _ _ => isVec d
  | .vsub d _ _ _ => isVec d
  | .vmul d _ _ _ => isVec d
  | .vdiv d _ _ _ => isVec d
  | .vmin d _ _ _ => isVec d
  | .vmax d _ _ _ => isVec d
  | .vfma d _ _ _ => isVec d
  | .vfms d _ _ _ => isVec d
  | .vfnma d _ _ _ => isVec d
  | .vcmul d _ _ _ => isVec d
  | .vabs d _ _ => isVec d
  | .vneg d _ _ => isVec d
  | .vrcp d _ _ => isVec d
  | .vrsqrt d _ _ => isVec d
  | .vsqrt d _ _ => isVec d
  | .vexp2 d _ _ => isVec d
  | .vlog2 d _ _ => isVec d
  | .vsinpi d _ _ => isVec d
  | .vcospi d _ _ => isVec d
  | .vsig d _ _ => isVec d
  | .viadd d _ _ _ => isVec d
  | .visub d _ _ _ => isVec d
  | .vimul d _ _ _ => isVec d
  | .vand d _ _ _ => isVec d
  | .vor d _ _ _ => isVec d
  | .vxor d _ _ _ => isVec d
  | .vshl d _ _ _ => isVec d
  | .vshr d _ _ _ => isVec d
  | .vsra d _ _ _ => isVec d
  | .vcmp _ _ _ _ _ => true
  | .vcmpU _ _ _ _ _ => true
  | .pand _ _ _ => true
  | .por _ _ _ => true
  | .pxor _ _ _ => true
  | .eform _ _ _ _ => true
  | .pcount _ _ => true
  | .vql4dec d _ _ _ => isVec d
  | .vql4enc d a _ => isVec d && !(57 ≤ a.toNat && a.toNat ≤ 59)
  | .vredsum d _ _ => isVec d
  | .vredmax d _ _ => isVec d
  | .vredmin d _ _ => isVec d
  | .vscan d _ _ => isVec d
  | .vcvt d _ ty _ _ => isVec d && ty != .c64
  | .vcvtS d _ ty _ _ => isVec d && ty != .c64
  | .eclr _ => true
  | .eshift _ _ => true
  | .econv _ _ => true
  | .elshift _ _ => true
  | .eadd _ _ => true
  | .eord n => n.toNat != 0
  | .vperm d _ _ _ => isVec d
  | .vslide d _ _ _ => isVec d
  | .vbcast d _ _ => isVec d
  | .vcompress d _ _ => isVec d
  | .vbucket d _ _ _ => isVec d
  | .vld d _ _ => isVec d
  | .vst _ _ _ => true
  | .vlds d _ _ _ => isVec d
  | .vsts _ _ _ _ => true
  | .vgather d _ _ _ => isVec d
  | .vscatter _ _ _ _ => true
  | .qld _ _ => true
  | .vmovs _ _ _ _ => true
  | .vguide d _ _ _ => isVec d
  | .vstep d _ _ _ => isVec d
  | .vtemb d _ _ => isVec d
  | .vloop _ n => n.toNat != 0
  | .vbr _ _ _ => true
  | .tcfg _ _ _ => true
  | .tldrow _ _ _ => true
  | .tstrow _ _ _ => true
  | .tmovr d _ _ => isVec d
  | .tmovc d _ _ => isVec d
  | .tzero _ => true
  | .tfma _ _ _ => true
  | .eeval d _ _ _ => isVec d
  | .ep2p d _ b _ => isVec d && b.toNat != 59
  | .eadmit _ _ _ => true
  | .eld _ _ => true
  | .est _ _ => true
  | .mma _ _ _ _ _ => true
  | .mmasp _ _ _ _ _ => true
  | .mmv _ _ _ _ => true
  | .mzero _ count => countOk count.toNat
  | .malloc _ count => countOk count.toNat
  | .mfree _ count => countOk count.toNat
  | .mhand _ count _ => countOk count.toNat
  | .mdrain _ count _ _ _ => countOk count.toNat
  | .mload _ count _ => countOk count.toNat
  | .mfmt _ _ => true
  | .mwait => true
  | .mloop n off => n.toNat != 0 && off.toNat % 2 == 0
  | .mstop => true
  | .xnop => true
  | .xcopy _ _ _ _ => true
  | .xfeeda _ _ => true
  | .xfeedb _ _ => true
  | .xmcast _ _ _ _ => true
  | .xgather _ _ _ _ _ => true
  | .xzce _ _ _ _ _ => true
  | .xzcd _ _ _ _ _ => true
  | .xdelta ty _ _ _ _ => ty != .c64
  | .xhalo _ _ _ _ => true
  | .xsig _ _ => true
  | .xloop n _ => n.toNat != 0
  | .xwait => true
  | .sburst _ units _ => units.toNat != 0
  | .swrite _ _ => true
  | .sloop n _ => n.toNat != 0
  | .swait _ _ _ => true
  | .ssig _ _ _ => true
  | .sexpert _ _ => true
  | .sfetch _ _ _ => true
  | .scount first n _ => n.toNat != 0 && first.toNat + n.toNat ≤ 4096
  | .sjump _ => true
  | .shalt => true
  | .spark => true
  | .syncGroup => true
  | .codeFetch => true
  | .evRead => true
  | .evWrite => true
  | .evFetch => true
  | .evEvict => true
  | .evDrain => true
  | .evWb => true
  | .evMark => true
  | .evExcl => true
  | .evFar => true
  | .evVert => true
  | .evHorz => true
  | .evEng => true
  | .evDone => true
  | .evSig => true
  | .qldFill => true
  | .feedEntryPush => true
  | .manifestResolve => true
  | .mCommandCommit => true
  | .tileRestore => true
  | .turntableCommand => true
  | .setdivRampEnd => true
  | .ringLink => true
  | .lampArrive => true
  | .contextSave => true
  | .preemptRequest => true
  | .preemptWithdraw => true
  | .debug => true
  | .resume => true
  | .end_ => true
  | .save => true
  | .retry => true
  | .abandon => true
  | .macroStoreWrite => true
  | .ringConfigWrite => true
  | .bindRecordWrite => true
  | .dispatch => true
  | .launch => true
  | .stepStart => true
  | .walkerExpand => true
  | .eventCoalesceTimeout => true
  | .evheadWrite => true
  | .lqpost => true
  | .functionLevelReset => true
  | .sbStart => true
  | .sbStop => true
  | .sbctlResume => true
  | .burstMemberDone => true
  | .fetchEnd => true
  | .expertEntryWrite => true
  | .pageOutPacked => true
  | .pageOutRaw => true
  | .pagesIn => true
  | .badcmd => true
  | .migrationComplete => true
  | .tlbInvalidate => true
  | .invalidationComplete => true
  | .l2WayGate => true
  | .l2WayUngate => true
  | .vaultScrub => true
  | .linkCrc => true
  | .refreshWindow => true
  | .hbmRetrain => true
  | .retrain => true
  | .healthClear => true
  | .flitReplay => true
  | .portRetrain => true
  | .portClear => true
  | .fabricCountersClear => true
  | .remoteTimeout => true
  | .ptpMessage => true
  | .collSendDone => true
  | .collArrival => true
  | .parkedArrivalApply => true
  | .powerGrant => true
  | .drawWindowEnd => true
  | .throttleInterval => true
  | .matrixGate => true
  | .matrixWakeDone => true
  | .pwrcfgWrite => true
  | .reuseCountersClear => true
  | .freeze => true
  | .frzN => true
  | .packageReset => true
  | .configurationImage => true
  | .getVersion => true
  | .getCapabilities => true
  | .negotiateAlgorithms => true
  | .getDigests => true
  | .getCertificate => true
  | .challenge => true
  | .getMeasurements => true
  | .registerWrite => true
  | .uncorrectableError => true

end Sys2Proof
end

