-- ==== Sys2Proof/Decode.lean ====
section
/-! DEFINITION. Decoding of instruction words (04 R98-R119), and the encoder written from the same tables.
A lane word that is no instruction is refused with the cause of 04 R117, the highest-ranking one first. -/

namespace Sys2Proof

/-- Why a word is no instruction (04 R117): the cause and, for `SHAPE_ILLEGAL`, that it replaces another. -/
inductive DecErr where
  | illegalOp | illegalFn | reservedField | shapeIllegal
deriving DecidableEq, Repr

/-- Where a word comes from: one of the lanes, or a Signal Box program. -/
inductive Source where
  | lane (l : Lane) | box
deriving DecidableEq, Repr

/-- Field [lo + n - 1 : lo] of a word. -/
def fld (w lo n : Nat) : Nat := w / 2 ^ lo % 2 ^ n

/-- The result for a word whose opcode is assigned: `fn` says that every function code and enumerated subfield is
assigned, `rsv` that every reserved field is zero and every code names something (04 R117, R118). -/
def chk (fn rsv : Bool) (i : Instr) : Except DecErr Instr :=
  if !fn then .error .illegalFn else if !rsv then .error .reservedField else .ok i

/-! ### Enumerated codes -/

def LoadSize.ofCode : Nat → Option LoadSize
  | 0 => some .b | 1 => some .bu | 2 => some .h | 3 => some .hu | 4 => some .w | 5 => some .wu | 6 => some .d
  | _ => none
def LoadSize.code : LoadSize → Nat
  | .b => 0 | .bu => 1 | .h => 2 | .hu => 3 | .w => 4 | .wu => 5 | .d => 6
def StoreSize.ofCode : Nat → Option StoreSize
  | 0 => some .b | 2 => some .h | 4 => some .w | 6 => some .d | _ => none
def StoreSize.code : StoreSize → Nat
  | .b => 0 | .h => 2 | .w => 4 | .d => 6
def Window.ofCode : Nat → Option Window
  | 0 => some .ownSpad | 1 => some .ownVault | 2 => some .anyVault | 3 => some .peerSpad | 4 => some .peerAcc
  | 5 => some .global | _ => none
def Window.code : Window → Nat
  | .ownSpad => 0 | .ownVault => 1 | .anyVault => 2 | .peerSpad => 3 | .peerAcc => 4 | .global => 5
def AtomOp.ofCode : Nat → Option AtomOp
  | 0 => some .add | 1 => some .and | 2 => some .or | 3 => some .xor | 4 => some .min | 5 => some .max
  | 6 => some .minu | 7 => some .maxu | 8 => some .swap | _ => none
def AtomOp.code : AtomOp → Nat
  | .add => 0 | .and => 1 | .or => 2 | .xor => 3 | .min => 4 | .max => 5 | .minu => 6 | .maxu => 7 | .swap => 8
def MemOrder.ofCode : Nat → MemOrder
  | 0 => .plain | 1 => .acq | 2 => .rel | _ => .sc
def MemOrder.code : MemOrder → Nat
  | .plain => 0 | .acq => 1 | .rel => 2 | .sc => 3
def FenceKind.ofCode : Nat → Option FenceKind
  | 0 => some .full | 1 => some .acq | 2 => some .rel | _ => none
def FenceKind.code : FenceKind → Nat
  | .full => 0 | .acq => 1 | .rel => 2
def Scope.ofCode : Nat → Scope
  | 0 => .core | 1 => .cluster | 2 => .package | _ => .domain
def Scope.code : Scope → Nat
  | .core => 0 | .cluster => 1 | .package => 2 | .domain => 3
def Owner.ofCode : Nat → Owner
  | 0 => .lanes | 1 => .xe | 2 => .sbox | _ => .turn
def Owner.code : Owner → Nat
  | .lanes => 0 | .xe => 1 | .sbox => 2 | .turn => 3
def MfSrc.ofCode : Nat → Option MfSrc
  | 0 => some .direct | 1 => some .lv10 | 2 => some .loop | _ => none
def MfSrc.code : MfSrc → Nat
  | .direct => 0 | .lv10 => 1 | .loop => 2
def Engine.ofCode : Nat → Engine
  | 0 => .ctl | 1 => .mat | 2 => .vec | _ => .copy
def Engine.code : Engine → Nat
  | .ctl => 0 | .mat => 1 | .vec => 2 | .copy => 3
def TurnMode.ofCode : Nat → Option TurnMode
  | 0 => some .complex | 1 => some .real32 | 2 => some .realBf16 | _ => none
def TurnMode.code : TurnMode → Nat
  | .complex => 0 | .real32 => 1 | .realBf16 => 2
def EType.ofCode : Nat → Option EType
  | 0 => some .f32 | 1 => some .bf16 | 2 => some .f16 | 3 => some .e4m3 | 4 => some .e5m2
  | 5 => some .i32 | 6 => some .i16 | 7 => some .i8 | 8 => some .f64 | 9 => some .c64 | _ => none
def EType.code : EType → Nat
  | .f32 => 0 | .bf16 => 1 | .f16 => 2 | .e4m3 => 3 | .e5m2 => 4 | .i32 => 5 | .i16 => 6 | .i8 => 7
  | .f64 => 8 | .c64 => 9
def Rm.ofCode : Nat → Rm
  | 0 => .rne | 1 => .rtz | 2 => .rup | _ => .rdn
def Rm.code : Rm → Nat
  | .rne => 0 | .rtz => 1 | .rup => 2 | .rdn => 3
def Cmp.ofCode : Nat → Cmp
  | 0 => .eq | 1 => .lt | 2 => .le | _ => .un
def Cmp.code : Cmp → Nat
  | .eq => 0 | .lt => 1 | .le => 2 | .un => 3
def CmpU.ofCode : Nat → Option CmpU
  | 1 => some .ltu | 2 => some .leu | _ => none
def CmpU.code : CmpU → Nat
  | .ltu => 1 | .leu => 2
def BrCond.ofCode : Nat → Option BrCond
  | 0 => some .any | 1 => some .none | 2 => some .all | _ => Option.none
def BrCond.code : BrCond → Nat
  | .any => 0 | .none => 1 | .all => 2
def ZcWidth.ofCode : Nat → Option ZcWidth
  | 0 => some .one | 1 => some .two | 2 => some .four | _ => none
def ZcWidth.code : ZcWidth → Nat
  | .one => 0 | .two => 1 | .four => 2

/-! ### S lane (04 R100-R108) -/

/-- Majors 0x00 and 0x01 by function (04 R103); `none` is an unassigned function. -/
def decodeInt (maj fn : Nat) (d a b : SReg) : Except DecErr Instr :=
  let un (i : Instr) := chk true (b.toNat == 0) i
  match maj, fn with
  | 0, 0x00 => .ok (.add d a b) | 0, 0x01 => .ok (.sub d a b) | 0, 0x02 => .ok (.and_ d a b)
  | 0, 0x03 => .ok (.or_ d a b) | 0, 0x04 => .ok (.xor_ d a b) | 0, 0x05 => .ok (.andn d a b)
  | 0, 0x06 => .ok (.shl d a b) | 0, 0x07 => .ok (.shr d a b) | 0, 0x08 => .ok (.sra d a b)
  | 0, 0x09 => .ok (.slt d a b) | 0, 0x0A => .ok (.sltu d a b) | 0, 0x0B => .ok (.min_ d a b)
  | 0, 0x0C => .ok (.max_ d a b) | 0, 0x0D => .ok (.minu d a b) | 0, 0x0E => .ok (.maxu d a b)
  | 0, 0x0F => .ok (.sel d a b)
  | 1, 0x00 => .ok (.mul d a b) | 1, 0x01 => .ok (.mulh d a b) | 1, 0x02 => .ok (.mulhu d a b)
  | 1, 0x03 => .ok (.div d a b) | 1, 0x04 => .ok (.divu d a b) | 1, 0x05 => .ok (.rem d a b)
  | 1, 0x06 => .ok (.remu d a b)
  | 1, 0x08 => un (.clz d a) | 1, 0x09 => un (.ctz d a) | 1, 0x0A => un (.popc d a)
  | _, _ => .error .illegalFn

/-- The ring group, major 0x4C (04 R104, R105). The group's row names d, a, b and fn. -/
def decodeRing (fn : Nat) (d a b : SReg) : Except DecErr Instr :=
  let r : BitVec 4 := BitVec.ofNat 4 b.toNat
  let ok := decide (b.toNat < 16)
  match fn with
  | 0 => chk true ok (.ringclaim d r a)
  | 1 => chk true (ok && d.toNat == 0) (.ringcommit r a)
  | 2 => chk true (ok && d.toNat == 0) (.ringwaitf r a)
  | 3 => chk true (ok && d.toNat == 0) (.ringwaite r a)
  | 4 => chk true (ok && a.toNat == 0) (.ringtake d r)
  | 5 => chk true (ok && d.toNat == 0) (.ringdone r a)
  | _ => .error .illegalFn

/-- The Turntable commands, majors 0x70-0x79 (04 R107). -/
def decodeTurn (maj fn : Nat) (d a b : SReg) : Except DecErr Instr :=
  let z (x : SReg) : Bool := x.toNat == 0
  let g : GReg := BitVec.ofNat 3 b.toNat
  let gOk := decide (b.toNat < 8)
  let mode (rsv : Bool) (k : TurnMode → Instr) : Except DecErr Instr :=
    match TurnMode.ofCode fn with
    | none => .error .illegalFn
    | some m => chk true rsv (k m)
  match maj with
  | 0x70 => chk true (z d && z b && fn == 0) (.tbind a)
  | 0x71 => chk (decide (fn < 4)) (z d && z b) (.tmap (BitVec.ofNat 2 fn) a)
  | 0x72 => chk (decide (fn < 2)) (z d && gOk) (.tgld (fn == 1) a g)
  | 0x73 => mode (z d && gOk) fun m => .tgate m a g
  | 0x74 => mode gOk fun m => .tcgate m d a g
  | 0x75 => mode (z d && gOk) fun m => .tdiag m a g
  | 0x76 => chk true (z d && z b && fn == 0) (.tswap a)
  | 0x77 => chk true (z b && fn == 0) (.tprob d a)
  | 0x78 => mode (z a && z b) fun m => .tnorm m d
  | 0x79 => chk true (z d && z a && z b && fn == 0) .twait
  | _ => .error .illegalOp

/-- An S-lane word. -/
def decodeS (w : Nat) : Except DecErr Instr :=
  let maj := fld w 21 7
  let syn := fld w 28 1 == 1
  let d : SReg := BitVec.ofNat 5 (fld w 16 5)
  let a : SReg := BitVec.ofNat 5 (fld w 11 5)
  let b : SReg := BitVec.ofNat 5 (fld w 6 5)
  let fn := fld w 0 6
  let imm : BitVec 11 := BitVec.ofNat 11 (fld w 0 11)
  let imm16 : BitVec 16 := BitVec.ofNat 16 (fld w 0 16)
  let off21 : BitVec 21 := BitVec.ofNat 21 (fld w 0 21)
  let z (x : SReg) : Bool := x.toNat == 0
  let none4 := z d && z a && z b && fn == 0
  let x : XdReg := BitVec.ofNat 4 d.toNat
  let xOk := decide (d.toNat < 16)
  let g : SgReg := BitVec.ofNat 6 fn
  match maj with
  | 0x00 => decodeInt 0 fn d a b
  | 0x01 => decodeInt 1 fn d a b
  | 0x08 => .ok (.addi d a imm)
  | 0x09 => .ok (.andi d a imm)
  | 0x0A => .ok (.ori d a imm)
  | 0x0B => .ok (.xori d a imm)
  | 0x0C => chk true (fld w 6 5 == 0) (.shli d a (BitVec.ofNat 6 fn))
  | 0x0D => chk true (fld w 6 5 == 0) (.shri d a (BitVec.ofNat 6 fn))
  | 0x0E => chk true (fld w 6 5 == 0) (.srai d a (BitVec.ofNat 6 fn))
  | 0x0F => .ok (.slti d a imm)
  | 0x10 => .ok (.lis d 0 imm16)
  | 0x11 => .ok (.lis d 1 imm16)
  | 0x12 => .ok (.lis d 2 imm16)
  | 0x13 => .ok (.lis d 3 imm16)
  | 0x18 => .ok (.beq d a imm)
  | 0x19 => .ok (.bne d a imm)
  | 0x1A => .ok (.blt d a imm)
  | 0x1B => .ok (.bge d a imm)
  | 0x1C => .ok (.bltu d a imm)
  | 0x1D => .ok (.bgeu d a imm)
  | 0x1E => chk true (z a) (.loop d imm)
  | 0x20 => .ok (.jmp off21)
  | 0x21 => .ok (.call off21)
  | 0x22 => .ok (.jal d imm16)
  | 0x23 => .ok (.jalr d a imm)
  | 0x24 => chk true none4 .ret
  | 0x25 => .ok (.mcall g d a b)
  | 0x26 => chk true (z d) (.idle imm16)
  | 0x27 => chk true none4 .halt
  | 0x28 => .ok (.ldB d a imm)
  | 0x29 => .ok (.ldBu d a imm)
  | 0x2A => .ok (.ldH d a imm)
  | 0x2B => .ok (.ldHu d a imm)
  | 0x2C => .ok (.ldW d a imm)
  | 0x2D => .ok (.ldWu d a imm)
  | 0x2E => .ok (.ldD d a imm)
  | 0x30 => .ok (.stB d a imm)
  | 0x31 => .ok (.stH d a imm)
  | 0x32 => .ok (.stW d a imm)
  | 0x33 => .ok (.stD d a imm)
  | 0x34 => match LoadSize.ofCode (fld w 0 3) with
            | none => .error .illegalFn
            | some sz => chk true (fld w 5 1 == 0) (.ldx sz (BitVec.ofNat 2 (fld w 3 2)) d a b)
  | 0x35 => match StoreSize.ofCode (fld w 0 3) with
            | none => .error .illegalFn
            | some sz => chk true (fld w 5 1 == 0) (.stx sz (BitVec.ofNat 2 (fld w 3 2)) d a b)
  | 0x36 => chk (decide (d.toNat < 4)) true (.pref (BitVec.ofNat 2 d.toNat) a imm)
  | 0x37 => match fn with
            | 0 => chk true (z b) (.aptoPkg d a)
            | 1 => chk true (z b) (.aptoOwn d a)
            | _ => match Window.ofCode (fn - 8) with
                   | none => .error .illegalFn
                   | some win => chk (decide (8 ≤ fn)) (z b) (.apis win d a)
  | 0x38 => .ok (.ldaW d a imm)
  | 0x39 => .ok (.ldaD d a imm)
  | 0x3A => .ok (.stlW d a imm)
  | 0x3B => .ok (.stlD d a imm)
  | 0x40 => match AtomOp.ofCode (fld w 0 4) with
            | none => .error .illegalFn
            | some op => .ok (.atomW op (MemOrder.ofCode (fld w 4 2)) d a b)
  | 0x41 => match AtomOp.ofCode (fld w 0 4) with
            | none => .error .illegalFn
            | some op => .ok (.atomD op (MemOrder.ofCode (fld w 4 2)) d a b)
  | 0x42 => chk (fld w 2 2 != 2) (fld w 4 2 == 0)
              (.casW (MemOrder.ofCode (fld w 0 2)) (MemOrder.ofCode (fld w 2 2)) d a b)
  | 0x43 => chk (fld w 2 2 != 2) (fld w 4 2 == 0)
              (.casD (MemOrder.ofCode (fld w 0 2)) (MemOrder.ofCode (fld w 2 2)) d a b)
  | 0x44 => match AtomOp.ofCode (fld w 0 4) with
            | none => .error .illegalFn
            | some op => chk true (fld w 4 2 == 0) (.fatomW op d a b)
  | 0x45 => match AtomOp.ofCode (fld w 0 4) with
            | none => .error .illegalFn
            | some op => chk true (fld w 4 2 == 0) (.fatomD op d a b)
  | 0x46 => match FenceKind.ofCode (fld w 2 2) with
            | none => .error .illegalFn
            | some k => chk true (z d && z a && fld w 4 7 == 0) (.fence k (Scope.ofCode (fld w 0 2)))
  | 0x47 => chk true none4 .vfence
  | 0x48 => chk true (z d && z b) (.sigadd g a)
  | 0x49 => chk true (z d && z b) (.sigwait g a)
  | 0x4A => chk true (z d && z b) (.sigexpect g a)
  | 0x4B => chk true (z a && z b) (.sigread d g)
  | 0x4C => decodeRing fn d a b
  | 0x4E => chk true (fld w 0 6 == 0) (.own (BitVec.ofNat 8 (fld w 8 8)) d (Owner.ofCode (fld w 6 2)))
  | 0x4F => chk true (fld w 0 6 == 0) (.ownwait (BitVec.ofNat 8 (fld w 8 8)) d (Owner.ofCode (fld w 6 2)))
  | 0x50 => chk true (none4 && syn) .sync
  | 0x51 => chk true (z d && z b && fn == 0 && syn) (.tickwait a)
  | 0x52 => chk true none4 .lampsend
  | 0x53 => chk true (z a && z b && fn == 0) (.lamptest d)
  | 0x54 => chk true (z d && fn == 0) (.collrdy a b)
  | 0x55 => chk true (fn == 0) (.rprobe d a b)
  | 0x56 => chk true (z d && fn == 0) (.rput a b)
  | 0x57 => chk true (z d && z b && fn == 0) (.rdrop a)
  | 0x58 => chk true (z a && fld w 4 7 == 0) (.lvread d (BitVec.ofNat 4 (fld w 0 4)))
  | 0x59 => chk true (z d && fld w 4 7 == 0) (.lvwrite (BitVec.ofNat 4 (fld w 0 4)) a)
  | 0x5A => match MfSrc.ofCode (fld w 0 2) with
            | none => .error .reservedField
            | some m => chk true (z d && z a && fld w 2 2 == 0 && fld w 8 3 == 0) (.mfsel m (BitVec.ofNat 4 (fld w 4 4)))
  | 0x5C => chk true (z d) (.acqp imm16)
  | 0x5D => chk true (z d) (.relp imm16)
  | 0x5E => chk true (z d && z a && fld w 9 2 == 0) (.setdiv (Engine.ofCode (fld w 0 2)) (BitVec.ofNat 7 (fld w 2 7)))
  | 0x5F => chk (fld w 0 2 == 0) (z d && z a && fld w 2 9 == 0) .wake
  | 0x60 => chk true (z d && z b && fn == 0) (.phint a)
  | 0x61 => chk true (z d) (.trap imm16)
  | 0x62 => chk true none4 .eret
  | 0x63 => chk true (z a) (.sysr d imm)
  | 0x64 => chk true (z d) (.sysw imm a)
  | 0x65 => chk true (z d && z a && fld w 6 5 == 0) (.l2conv (fld w 5 1 == 1) (BitVec.ofNat 5 (fld w 0 5)))
  | 0x66 => chk true (z d && z b && fn == 0) (.event a)
  | 0x67 => chk true xOk (.xdset x a imm)
  | 0x68 => match fn with
            | 0 => chk true xOk (.xdsetD1 x a b)
            | 1 => chk true xOk (.xdsetD2 x a b)
            | 2 => chk true (xOk && z b) (.xdsetWin x a 0)
            | 3 => chk true (xOk && z b) (.xdsetLen x a 0)
            | _ => .error .illegalFn
  | _ => if 0x70 ≤ maj && maj ≤ 0x79 then decodeTurn maj fn d a b else .error .illegalOp

/-! ### V lane (04 R109-R111) -/

/-- The unary group, opcode 0x0C (04 R110). -/
def decodeUnary (b : Nat) (d a : VReg) (p : PReg) : Except DecErr Instr :=
  let ok := isVec d
  match b with
  | 0 => chk true ok (.vabs d a p) | 1 => chk true ok (.vneg d a p) | 2 => chk true ok (.vrcp d a p)
  | 3 => chk true ok (.vrsqrt d a p) | 4 => chk true ok (.vsqrt d a p) | 5 => chk true ok (.vexp2 d a p)
  | 6 => chk true ok (.vlog2 d a p) | 7 => chk true ok (.vsinpi d a p) | 8 => chk true ok (.vcospi d a p)
  | 9 => chk true ok (.vsig d a p) | _ => .error .illegalFn

/-- A V-lane word. -/
def decodeV (w : Nat) : Except DecErr Instr :=
  let dn := fld w 16 6
  let an := fld w 10 6
  let bn := fld w 4 6
  let d : VReg := BitVec.ofNat 6 dn
  let a : VReg := BitVec.ofNat 6 an
  let b : VReg := BitVec.ofNat 6 bn
  let p : PReg := BitVec.ofNat 4 (fld w 0 4)
  let pz := fld w 0 4 == 0
  let dv := isVec d
  let sd : SReg := BitVec.ofNat 5 dn
  let sa : SReg := BitVec.ofNat 5 an
  let sb : SReg := BitVec.ofNat 5 bn
  let dS := decide (dn < 32)
  let aS := decide (an < 32)
  let bS := decide (bn < 32)
  let d4 : BitVec 4 := BitVec.ofNat 4 dn
  let a4 : BitVec 4 := BitVec.ofNat 4 an
  let b4 : BitVec 4 := BitVec.ofNat 4 bn
  let d16 := decide (dn < 16)
  let a16 := decide (an < 16)
  let b16 := decide (bn < 16)
  let dt : TReg := BitVec.ofNat 3 dn
  let at_ : TReg := BitVec.ofNat 3 an
  let bt : TReg := BitVec.ofNat 3 bn
  let d8 := decide (dn < 8)
  let a8 := decide (an < 8)
  let b8 := decide (bn < 8)
  let off12 : BitVec 12 := BitVec.ofNat 12 (fld w 4 12)
  match fld w 22 6 with
  | 0x00 => chk true (fld w 0 22 == 0) .vnop
  | 0x01 =>
    let vl := fld w 13 9
    let rz := fld w 10 3 == 0 && fld w 4 6 == 0
    match EType.ofCode (fld w 0 4) with
    | none => .error .shapeIllegal
    | some ty =>
      if !rz then .error .reservedField
      else if !shapeOk ty vl then .error .shapeIllegal
      else .ok (.vsetshape ty (BitVec.ofNat 9 vl))
  | 0x02 => chk true dv (.vadd d a b p)
  | 0x03 => chk true dv (.vsub d a b p)
  | 0x04 => chk true dv (.vmul d a b p)
  | 0x05 => chk true dv (.vdiv d a b p)
  | 0x06 => chk true dv (.vmin d a b p)
  | 0x07 => chk true dv (.vmax d a b p)
  | 0x08 => chk true dv (.vfma d a b p)
  | 0x09 => chk true dv (.vfms d a b p)
  | 0x0A => chk true dv (.vfnma d a b p)
  | 0x0B => chk true dv (.vcmul d a b p)
  | 0x0C => decodeUnary bn d a p
  | 0x0D => chk true dv (.viadd d a b p)
  | 0x0E => chk true dv (.visub d a b p)
  | 0x0F => chk true dv (.vimul d a b p)
  | 0x10 => chk true dv (.vand d a b p)
  | 0x11 => chk true dv (.vor d a b p)
  | 0x12 => chk true dv (.vxor d a b p)
  | 0x13 => chk true dv (.vshl d a b p)
  | 0x14 => chk true dv (.vshr d a b p)
  | 0x15 => chk true dv (.vsra d a b p)
  | 0x16 => .ok (.vcmp (Cmp.ofCode (fld w 20 2)) (BitVec.ofNat 4 (fld w 16 4)) a b p)
  | 0x17 => match CmpU.ofCode (fld w 20 2) with
            | none => .error .illegalFn
            | some c => .ok (.vcmpU c (BitVec.ofNat 4 (fld w 16 4)) a b p)
  | 0x18 => chk true (d16 && a16 && b16 && pz) (.pand d4 a4 b4)
  | 0x19 => chk true (d16 && a16 && b16 && pz) (.por d4 a4 b4)
  | 0x1A => chk true (d16 && a16 && b16 && pz) (.pxor d4 a4 b4)
  | 0x1B => chk true d16 (.eform d4 a b p)
  | 0x1C => chk true (dS && a16 && bn == 0 && pz) (.pcount sd a4)
  | 0x1D => chk true (dv && decide (bn < 4)) (.vql4dec d a (BitVec.ofNat 2 bn) p)
  | 0x1E => chk true (dv && !(decide (57 ≤ an) && decide (an ≤ 59)) && bn == 0) (.vql4enc d a p)
  | 0x1F => match bn with
            | 0 => chk true dv (.vredsum d a p)
            | 1 => chk true dv (.vredmax d a p)
            | 2 => chk true dv (.vredmin d a p)
            | 3 => chk true dv (.vscan d a p)
            | _ => .error .illegalFn
  | 0x20 => match EType.ofCode (fld w 6 4) with
            | none => .error .illegalFn
            | some ty => chk (ty != .c64) dv (.vcvt d a ty (Rm.ofCode (fld w 4 2)) p)
  | 0x21 => match EType.ofCode (fld w 6 4) with
            | none => .error .illegalFn
            | some ty => chk (ty != .c64) dv (.vcvtS d a ty (Rm.ofCode (fld w 4 2)) p)
  | 0x22 => match bn with
            | 0 => chk true (d16 && an == 0 && pz) (.eclr d4)
            | 1 => chk true (d16 && a16 && pz) (.eshift d4 a4)
            | 2 => chk true (d16 && a16 && pz) (.econv d4 a4)
            | 3 => chk true (d16 && a16 && pz) (.elshift d4 a4)
            | 4 => chk true (d16 && a16 && pz) (.eadd d4 a4)
            | 5 => chk true (dn == 0 && decide (1 ≤ an) && decide (an ≤ 31) && pz) (.eord (BitVec.ofNat 5 an))
            | _ => .error .illegalFn
  | 0x23 => chk true dv (.vperm d a b p)
  | 0x24 => chk true dv (.vslide d a b p)
  | 0x25 => chk true (dv && aS && bn == 0) (.vbcast d sa p)
  | 0x26 => chk true (dv && bn == 0) (.vcompress d a p)
  | 0x27 => chk true dv (.vbucket d a b p)
  | 0x28 => chk true (dv && a16 && bn == 0) (.vld d a4 p)
  | 0x29 => chk true (a16 && bn == 0) (.vst d a4 p)
  | 0x2A => chk true (dv && aS && bS) (.vlds d sa sb p)
  | 0x2B => chk true (aS && bS) (.vsts d sa sb p)
  | 0x2C => chk true (dv && aS) (.vgather d sa b p)
  | 0x2D => chk true aS (.vscatter d sa b p)
  | 0x2E => chk true (decide (60 ≤ dn) && a16 && bn == 0 && pz) (.qld (BitVec.ofNat 2 (dn - 60)) a4)
  | 0x2F => chk true dS (.vmovs sd a b p)
  | 0x30 => chk true dv (.vguide d a b p)
  | 0x31 => chk true dv (.vstep d a b p)
  | 0x32 => chk true (dv && bn == 0) (.vtemb d a p)
  | 0x33 => chk true (fld w 0 10 != 0) (.vloop (BitVec.ofNat 12 (fld w 10 12)) (BitVec.ofNat 10 (fld w 0 10)))
  | 0x34 => match BrCond.ofCode (fld w 20 2) with
            | none => .error .illegalFn
            | some c => chk true (fld w 16 4 == 0) (.vbr c off12 p)
  | 0x35 => chk true (d8 && decide (1 ≤ an) && decide (an ≤ 16) && decide (1 ≤ bn) && decide (bn ≤ 16) && pz)
              (.tcfg dt (BitVec.ofNat 4 (an - 1)) (BitVec.ofNat 4 (bn - 1)))
  | 0x36 => chk true (d8 && a16 && b16 && pz) (.tldrow dt a4 b4)
  | 0x37 => chk true (d8 && a16 && b16 && pz) (.tstrow dt a4 b4)
  | 0x38 => chk true (dv && a8 && b16 && pz) (.tmovr d at_ b4)
  | 0x39 => chk true (dv && a8 && b16 && pz) (.tmovc d at_ b4)
  | 0x3A => chk true (d8 && an == 0 && bn == 0 && pz) (.tzero dt)
  | 0x3B => chk true (d8 && a8 && b8 && pz) (.tfma dt at_ bt)
  | 0x3C => chk true (dv && b16) (.eeval d a b4 p)
  | 0x3D => chk true (dv && bn != 59) (.ep2p d a b p)
  | 0x3E => chk true (d16 && a16 && b16 && pz) (.eadmit d4 a4 b4)
  | _ => match bn with
         | 0 => chk true (d16 && a16 && pz) (.eld d4 a4)
         | 1 => chk true (d16 && a16 && pz) (.est d4 a4)
         | _ => .error .illegalFn

/-! ### M lane (04 R112-R113) -/

/-- An M command from its word 0 and word 1. -/
def decodeM (w0 w1 : Nat) : Except DecErr Instr :=
  let tail := fld w1 1 7 == 0 && (fld w1 0 1 == 0 || fld w1 8 24 == 0)
  let ab : AbReg := BitVec.ofNat 5 (fld w0 23 5)
  let k1 : BitVec 8 := BitVec.ofNat 8 (fld w0 15 8)
  let mf : MfReg := BitVec.ofNat 4 (fld w0 11 4)
  let cnt : BitVec 6 := BitVec.ofNat 6 (fld w0 17 6)
  let cOk := countOk (fld w0 17 6)
  let xd : XdReg := BitVec.ofNat 4 (fld w0 13 4)
  match fld w0 28 4 with
  | 0x1 => chk true (tail && fld w0 0 5 == 0) (.mma ab k1 mf (fld w0 10 1 == 1) (BitVec.ofNat 5 (fld w0 5 5)))
  | 0x2 => chk true (tail && fld w0 0 5 == 0) (.mmasp ab k1 mf (fld w0 10 1 == 1) (BitVec.ofNat 5 (fld w0 5 5)))
  | 0x3 => chk true (tail && fld w0 0 8 == 0) (.mmv ab k1 mf (BitVec.ofNat 3 (fld w0 8 3)))
  | 0x4 => chk true (tail && cOk && fld w0 0 17 == 0) (.mzero ab cnt)
  | 0x5 => chk true (tail && cOk && fld w0 0 17 == 0) (.malloc ab cnt)
  | 0x6 => chk true (tail && cOk && fld w0 0 17 == 0) (.mfree ab cnt)
  | 0x7 => chk true (tail && cOk && fld w0 0 6 == 0) (.mhand ab cnt (BitVec.ofNat 11 (fld w0 6 11)))
  | 0x8 => chk true (tail && cOk && fld w0 0 6 == 0)
             (.mdrain ab cnt xd (BitVec.ofNat 6 (fld w0 7 6)) (fld w0 6 1 == 1))
  | 0x9 => chk true (tail && cOk && fld w0 0 13 == 0) (.mload ab cnt xd)
  | 0xA => chk true (tail && fld w0 0 20 == 0) (.mfmt (BitVec.ofNat 4 (fld w0 24 4)) (BitVec.ofNat 4 (fld w0 20 4)))
  | 0xB => chk true (tail && fld w0 0 28 == 0) .mwait
  | 0xC => chk true (tail && fld w0 16 12 != 0 && fld w0 0 16 % 2 == 0)
             (.mloop (BitVec.ofNat 12 (fld w0 16 12)) (BitVec.ofNat 16 (fld w0 0 16)))
  | 0xD => chk true (tail && fld w0 0 28 == 0) .mstop
  | _ => .error .illegalOp

/-! ### X lane (04 R114-R115) -/

/-- An X-lane word. -/
def decodeX (w : Nat) : Except DecErr Instr :=
  let a : XdReg := BitVec.ofNat 4 (fld w 19 4)
  let b : XdReg := BitVec.ofNat 4 (fld w 15 4)
  let sg : SgReg := BitVec.ofNat 6 (fld w 9 6)
  let se := fld w 8 1 == 1
  let aux := fld w 0 8
  match fld w 23 5 with
  | 0x00 => chk true (fld w 0 23 == 0) .xnop
  | 0x01 => chk true (aux == 0) (.xcopy a b sg se)
  | 0x02 => chk true (fld w 8 11 == 0) (.xfeeda a (BitVec.ofNat 8 aux))
  | 0x03 => chk true (fld w 8 11 == 0) (.xfeedb a (BitVec.ofNat 8 aux))
  | 0x04 => chk true (fld w 19 4 == 0 && fld w 6 2 == 0) (.xmcast (BitVec.ofNat 6 aux) b sg se)
  | 0x05 => chk true (fld w 4 4 == 0) (.xgather a b (BitVec.ofNat 4 aux) sg se)
  | 0x06 => match ZcWidth.ofCode (fld w 0 2) with
            | none => .error .illegalFn
            | some z => chk true (fld w 2 6 == 0) (.xzce z a b sg se)
  | 0x07 => match ZcWidth.ofCode (fld w 0 2) with
            | none => .error .illegalFn
            | some z => chk true (fld w 2 6 == 0) (.xzcd z a b sg se)
  | 0x08 => match EType.ofCode (fld w 0 4) with
            | none => .error .illegalFn
            | some ty => chk (ty != .c64) (fld w 4 4 == 0) (.xdelta ty a b sg se)
  | 0x09 => chk true (aux == 0) (.xhalo a b sg se)
  | 0x0A => chk true (se && fld w 15 8 == 0) (.xsig sg (BitVec.ofNat 8 aux))
  | 0x0B => chk true (fld w 13 10 != 0) (.xloop (BitVec.ofNat 10 (fld w 13 10)) (BitVec.ofNat 13 (fld w 0 13)))
  | 0x0C => chk true (fld w 0 23 == 0) .xwait
  | _ => .error .illegalOp

/-! ### Signal Box words (04 R116) -/

/-- How many words a Signal Box head takes with its extension words; 1 for a reserved operation. -/
def boxLength (head : Nat) : Nat :=
  match fld head 27 5 with
  | 0x01 => 3 | 0x02 => 4 | 0x08 => 3 | _ => 1

/-- A Signal Box word from its head and its extension words. -/
def decodeBox (w e1 e2 e3 : Nat) : Except DecErr Instr :=
  match fld w 27 5 with
  | 0x01 => chk true (fld w 0 21 != 0)
              (.sburst (BitVec.ofNat 6 (fld w 21 6)) (BitVec.ofNat 21 (fld w 0 21)) (BitVec.ofNat 64 (e1 + e2 * 2 ^ 32)))
  | 0x02 => chk true (fld w 0 27 == 0) (.swrite (BitVec.ofNat 64 (e1 + e2 * 2 ^ 32)) (BitVec.ofNat 32 e3))
  | 0x03 => chk true (fld w 16 11 != 0) (.sloop (BitVec.ofNat 11 (fld w 16 11)) (BitVec.ofNat 16 (fld w 0 16)))
  | 0x04 => .ok (.swait (BitVec.ofNat 11 (fld w 16 11)) (BitVec.ofNat 6 (fld w 10 6)) (BitVec.ofNat 10 (fld w 0 10)))
  | 0x05 => .ok (.ssig (BitVec.ofNat 11 (fld w 16 11)) (BitVec.ofNat 6 (fld w 10 6)) (BitVec.ofNat 10 (fld w 0 10)))
  | 0x06 => chk true (fld w 0 9 == 0) (.sexpert (BitVec.ofNat 12 (fld w 15 12)) (BitVec.ofNat 6 (fld w 9 6)))
  | 0x07 => chk true (fld w 0 5 == 0)
              (.sfetch (BitVec.ofNat 12 (fld w 15 12)) (fld w 14 1 == 1) (BitVec.ofNat 9 (fld w 5 9)))
  | 0x08 => chk true (fld w 0 2 == 0 && fld w 2 13 != 0 && decide (fld w 15 12 + fld w 2 13 ≤ 4096))
              (.scount (BitVec.ofNat 12 (fld w 15 12)) (BitVec.ofNat 13 (fld w 2 13)) (BitVec.ofNat 64 (e1 + e2 * 2 ^ 32)))
  | 0x09 => .ok (.sjump (BitVec.ofNat 27 (fld w 0 27)))
  | 0x0A => chk true (fld w 0 27 == 0) .shalt
  | 0x0B => chk true (fld w 0 27 == 0) .spark
  | _ => .error .illegalOp

/-! ### The decoder -/

/-- Word `n` of a list of words, 0 beyond its end. -/
def wordAt (ws : List Code) (n : Nat) : Nat := (ws.getD n 0).toNat

/-- The framing of an S, V or X word (04 R98). -/
def frameOf (w : Nat) : Framing := { idle := BitVec.ofNat 3 (fld w 29 3), syn := fld w 28 1 == 1, stamp := 0 }

/-- The framing of an M command, in its word 1 (04 R112). -/
def frameOfM (w1 : Nat) : Framing := { idle := 0, syn := fld w1 0 1 == 1, stamp := BitVec.ofNat 24 (fld w1 8 24) }

/-- A Signal Box word has no framing (04 R98). -/
def noFrame : Framing := { idle := 0, syn := false, stamp := 0 }

/-- The framing bits of the words at the head of a list. -/
def framing (src : Source) (ws : List Code) : Framing :=
  match src with
  | .lane .m => frameOfM (wordAt ws 1)
  | .lane _ => frameOf (wordAt ws 0)
  | .box => noFrame

/-- Decodes the instruction at the head of a list of words; total on any words. -/
def decode (src : Source) (ws : List Code) : Except DecErr Instr :=
  match src with
  | .lane .s => decodeS (wordAt ws 0)
  | .lane .v => decodeV (wordAt ws 0)
  | .lane .m => decodeM (wordAt ws 0) (wordAt ws 1)
  | .lane .x => decodeX (wordAt ws 0)
  | .box => decodeBox (wordAt ws 0) (wordAt ws 1) (wordAt ws 2) (wordAt ws 3)

/-- The first source in the order S, V, X, Signal Box that has the 32-bit word as an instruction; the 64-bit pairs are
M commands. (One word of 32 bits can be an instruction of several lanes; the table does not say which lane it means.) -/
def tableSource (nbits w : Nat) : Option Source :=
  let w0 := w % 2 ^ 32
  let ws : List Code := [BitVec.ofNat 32 w, BitVec.ofNat 32 (w / 2 ^ 32), BitVec.ofNat 32 (w / 2 ^ 64), BitVec.ofNat 32 (w / 2 ^ 96)]
  let ok (e : Except DecErr Instr) : Bool := match e with | .ok _ => true | .error _ => false
  if nbits ≤ 32 then
    if ok (decodeS w0) then some (.lane .s)
    else if ok (decodeV w0) then some (.lane .v)
    else if ok (decodeX w0) then some (.lane .x)
    else if ok (decode .box ws) then some .box
    else none
  else if nbits ≤ 64 then if ok (decode (.lane .m) ws) then some (.lane .m) else none
  else if ok (decode .box ws) then some .box
  else none

/-- The words of an opcode-table pattern: the first word is its low 32 bits. -/
def tableWords (w : Nat) : List Code :=
  [BitVec.ofNat 32 w, BitVec.ofNat 32 (w / 2 ^ 32), BitVec.ofNat 32 (w / 2 ^ 64), BitVec.ofNat 32 (w / 2 ^ 96)]

/-- The instruction the decoder reads from the bits `w`, numbered as spec/opcode_table.json numbers them. -/
def decodeTableWord (nbits w : Nat) : Option Instr :=
  match tableSource nbits w with
  | none => none
  | some src => match decode src (tableWords w) with
                | .ok i => some i
                | .error _ => none

/-! ### The encoder -/

def boolNat (b : Bool) : Nat := if b then 1 else 0

/-- Framing bits (04 R98). -/
def Framing.bits (f : Framing) : Nat := f.idle.toNat * 2 ^ 29 + boolNat f.syn * 2 ^ 28

/-- Form SA (04 R100). -/
def wSA (f : Framing) (maj d a b fn : Nat) : List Code :=
  [BitVec.ofNat 32 (f.bits + maj * 2 ^ 21 + d * 2 ^ 16 + a * 2 ^ 11 + b * 2 ^ 6 + fn)]
/-- Forms SI and SB (04 R100). -/
def wSI (f : Framing) (maj d a imm : Nat) : List Code :=
  [BitVec.ofNat 32 (f.bits + maj * 2 ^ 21 + d * 2 ^ 16 + a * 2 ^ 11 + imm)]
/-- Form SU (04 R100). -/
def wSU (f : Framing) (maj d imm : Nat) : List Code := [BitVec.ofNat 32 (f.bits + maj * 2 ^ 21 + d * 2 ^ 16 + imm)]
/-- Form SJ (04 R100). -/
def wSJ (f : Framing) (maj off : Nat) : List Code := [BitVec.ofNat 32 (f.bits + maj * 2 ^ 21 + off)]
/-- A V-lane word (04 R109). -/
def wV (f : Framing) (op d a b p : Nat) : List Code :=
  [BitVec.ofNat 32 (f.bits + op * 2 ^ 22 + d * 2 ^ 16 + a * 2 ^ 10 + b * 2 ^ 4 + p)]
/-- An M command pair (04 R112). -/
def wM (f : Framing) (op rest : Nat) : List Code :=
  [BitVec.ofNat 32 (op * 2 ^ 28 + rest), BitVec.ofNat 32 (f.stamp.toNat * 2 ^ 8 + boolNat f.syn)]
/-- An X-lane word (04 R114). -/
def wX (f : Framing) (op a b sg se aux : Nat) : List Code :=
  [BitVec.ofNat 32 (f.bits + op * 2 ^ 23 + a * 2 ^ 19 + b * 2 ^ 15 + sg * 2 ^ 9 + se * 2 ^ 8 + aux)]
/-- A Signal Box head (04 R116). -/
def wB (op rest : Nat) : Code := BitVec.ofNat 32 (op * 2 ^ 27 + rest)
/-- The two extension words of an address. -/
def wAddr (a : Word) : List Code := [BitVec.ofNat 32 a.toNat, BitVec.ofNat 32 (a.toNat / 2 ^ 32)]

/-- The framing that the words of a source can carry: no stamp on an S, V or X word (04 R98), no idle count on an M
command, stamp 0 on a sync command (02 R40), nothing on a Signal Box word. -/
def Framing.fits (f : Framing) : Source → Bool
  | .lane .m => f.idle == 0 && (!f.syn || f.stamp == 0)
  | .lane _ => f.stamp == 0
  | .box => f == noFrame

/-- The source whose words an instruction has; `none` for the events, which have no encoding. -/
def Instr.source : Instr → Option Source
  | .add _ _ _ => some (.lane .s)
  | .sub _ _ _ => some (.lane .s)
  | .and_ _ _ _ => some (.lane .s)
  | .or_ _ _ _ => some (.lane .s)
  | .xor_ _ _ _ => some (.lane .s)
  | .andn _ _ _ => some (.lane .s)
  | .shl _ _ _ => some (.lane .s)
  | .shr _ _ _ => some (.lane .s)
  | .sra _ _ _ => some (.lane .s)
  | .slt _ _ _ => some (.lane .s)
  | .sltu _ _ _ => some (.lane .s)
  | .min_ _ _ _ => some (.lane .s)
  | .max_ _ _ _ => some (.lane .s)
  | .minu _ _ _ => some (.lane .s)
  | .maxu _ _ _ => some (.lane .s)
  | .sel _ _ _ => some (.lane .s)
  | .mul _ _ _ => some (.lane .s)
  | .mulh _ _ _ => some (.lane .s)
  | .mulhu _ _ _ => some (.lane .s)
  | .div _ _ _ => some (.lane .s)
  | .divu _ _ _ => some (.lane .s)
  | .rem _ _ _ => some (.lane .s)
  | .remu _ _ _ => some (.lane .s)
  | .clz _ _ => some (.lane .s)
  | .ctz _ _ => some (.lane .s)
  | .popc _ _ => some (.lane .s)
  | .addi _ _ _ => some (.lane .s)
  | .andi _ _ _ => some (.lane .s)
  | .ori _ _ _ => some (.lane .s)
  | .xori _ _ _ => some (.lane .s)
  | .shli _ _ _ => some (.lane .s)
  | .shri _ _ _ => some (.lane .s)
  | .srai _ _ _ => some (.lane .s)
  | .slti _ _ _ => some (.lane .s)
  | .lis _ _ _ => some (.lane .s)
  | .beq _ _ _ => some (.lane .s)
  | .bne _ _ _ => some (.lane .s)
  | .blt _ _ _ => some (.lane .s)
  | .bge _ _ _ => some (.lane .s)
  | .bltu _ _ _ => some (.lane .s)
  | .bgeu _ _ _ => some (.lane .s)
  | .loop _ _ => some (.lane .s)
  | .jmp _ => some (.lane .s)
  | .call _ => some (.lane .s)
  | .jal _ _ => some (.lane .s)
  | .jalr _ _ _ => some (.lane .s)
  | .ret => some (.lane .s)
  | .mcall _ _ _ _ => some (.lane .s)
  | .idle _ => some (.lane .s)
  | .halt => some (.lane .s)
  | .ldB _ _ _ => some (.lane .s)
  | .ldBu _ _ _ => some (.lane .s)
  | .ldH _ _ _ => some (.lane .s)
  | .ldHu _ _ _ => some (.lane .s)
  | .ldW _ _ _ => some (.lane .s)
  | .ldWu _ _ _ => some (.lane .s)
  | .ldD _ _ _ => some (.lane .s)
  | .stB _ _ _ => some (.lane .s)
  | .stH _ _ _ => some (.lane .s)
  | .stW _ _ _ => some (.lane .s)
  | .stD _ _ _ => some (.lane .s)
  | .ldx _ _ _ _ _ => some (.lane .s)
  | .stx _ _ _ _ _ => some (.lane .s)
  | .pref _ _ _ => some (.lane .s)
  | .aptoPkg _ _ => some (.lane .s)
  | .aptoOwn _ _ => some (.lane .s)
  | .apis _ _ _ => some (.lane .s)
  | .ldaW _ _ _ => some (.lane .s)
  | .ldaD _ _ _ => some (.lane .s)
  | .stlW _ _ _ => some (.lane .s)
  | .stlD _ _ _ => some (.lane .s)
  | .atomW _ _ _ _ _ => some (.lane .s)
  | .atomD _ _ _ _ _ => some (.lane .s)
  | .casW _ _ _ _ _ => some (.lane .s)
  | .casD _ _ _ _ _ => some (.lane .s)
  | .fatomW _ _ _ _ => some (.lane .s)
  | .fatomD _ _ _ _ => some (.lane .s)
  | .fence _ _ => some (.lane .s)
  | .vfence => some (.lane .s)
  | .sigadd _ _ => some (.lane .s)
  | .sigwait _ _ => some (.lane .s)
  | .sigexpect _ _ => some (.lane .s)
  | .sigread _ _ => some (.lane .s)
  | .ringclaim _ _ _ => some (.lane .s)
  | .ringcommit _ _ => some (.lane .s)
  | .ringwaitf _ _ => some (.lane .s)
  | .ringwaite _ _ => some (.lane .s)
  | .ringtake _ _ => some (.lane .s)
  | .ringdone _ _ => some (.lane .s)
  | .own _ _ _ => some (.lane .s)
  | .ownwait _ _ _ => some (.lane .s)
  | .sync => some (.lane .s)
  | .tickwait _ => some (.lane .s)
  | .lampsend => some (.lane .s)
  | .lamptest _ => some (.lane .s)
  | .collrdy _ _ => some (.lane .s)
  | .rprobe _ _ _ => some (.lane .s)
  | .rput _ _ => some (.lane .s)
  | .rdrop _ => some (.lane .s)
  | .lvread _ _ => some (.lane .s)
  | .lvwrite _ _ => some (.lane .s)
  | .mfsel _ _ => some (.lane .s)
  | .acqp _ => some (.lane .s)
  | .relp _ => some (.lane .s)
  | .setdiv _ _ => some (.lane .s)
  | .wake => some (.lane .s)
  | .phint _ => some (.lane .s)
  | .trap _ => some (.lane .s)
  | .eret => some (.lane .s)
  | .sysr _ _ => some (.lane .s)
  | .sysw _ _ => some (.lane .s)
  | .l2conv _ _ => some (.lane .s)
  | .event _ => some (.lane .s)
  | .xdset _ _ _ => some (.lane .s)
  | .xdsetD1 _ _ _ => some (.lane .s)
  | .xdsetD2 _ _ _ => some (.lane .s)
  | .xdsetWin _ _ _ => some (.lane .s)
  | .xdsetLen _ _ _ => some (.lane .s)
  | .tbind _ => some (.lane .s)
  | .tmap _ _ => some (.lane .s)
  | .tgld _ _ _ => some (.lane .s)
  | .tgate _ _ _ => some (.lane .s)
  | .tcgate _ _ _ _ => some (.lane .s)
  | .tdiag _ _ _ => some (.lane .s)
  | .tswap _ => some (.lane .s)
  | .tprob _ _ => some (.lane .s)
  | .tnorm _ _ => some (.lane .s)
  | .twait => some (.lane .s)
  | .vnop => some (.lane .v)
  | .vsetshape _ _ => some (.lane .v)
  | .vadd _ _ _ _ => some (.lane .v)
  | .vsub _ _ _ _ => some (.lane .v)
  | .vmul _ _ _ _ => some (.lane .v)
  | .vdiv _ _ _ _ => some (.lane .v)
  | .vmin _ _ _ _ => some (.lane .v)
  | .vmax _ _ _ _ => some (.lane .v)
  | .vfma _ _ _ _ => some (.lane .v)
  | .vfms _ _ _ _ => some (.lane .v)
  | .vfnma _ _ _ _ => some (.lane .v)
  | .vcmul _ _ _ _ => some (.lane .v)
  | .vabs _ _ _ => some (.lane .v)
  | .vneg _ _ _ => some (.lane .v)
  | .vrcp _ _ _ => some (.lane .v)
  | .vrsqrt _ _ _ => some (.lane .v)
  | .vsqrt _ _ _ => some (.lane .v)
  | .vexp2 _ _ _ => some (.lane .v)
  | .vlog2 _ _ _ => some (.lane .v)
  | .vsinpi _ _ _ => some (.lane .v)
  | .vcospi _ _ _ => some (.lane .v)
  | .vsig _ _ _ => some (.lane .v)
  | .viadd _ _ _ _ => some (.lane .v)
  | .visub _ _ _ _ => some (.lane .v)
  | .vimul _ _ _ _ => some (.lane .v)
  | .vand _ _ _ _ => some (.lane .v)
  | .vor _ _ _ _ => some (.lane .v)
  | .vxor _ _ _ _ => some (.lane .v)
  | .vshl _ _ _ _ => some (.lane .v)
  | .vshr _ _ _ _ => some (.lane .v)
  | .vsra _ _ _ _ => some (.lane .v)
  | .vcmp _ _ _ _ _ => some (.lane .v)
  | .vcmpU _ _ _ _ _ => some (.lane .v)
  | .pand _ _ _ => some (.lane .v)
  | .por _ _ _ => some (.lane .v)
  | .pxor _ _ _ => some (.lane .v)
  | .eform _ _ _ _ => some (.lane .v)
  | .pcount _ _ => some (.lane .v)
  | .vql4dec _ _ _ _ => some (.lane .v)
  | .vql4enc _ _ _ => some (.lane .v)
  | .vredsum _ _ _ => some (.lane .v)
  | .vredmax _ _ _ => some (.lane .v)
  | .vredmin _ _ _ => some (.lane .v)
  | .vscan _ _ _ => some (.lane .v)
  | .vcvt _ _ _ _ _ => some (.lane .v)
  | .vcvtS _ _ _ _ _ => some (.lane .v)
  | .eclr _ => some (.lane .v)
  | .eshift _ _ => some (.lane .v)
  | .econv _ _ => some (.lane .v)
  | .elshift _ _ => some (.lane .v)
  | .eadd _ _ => some (.lane .v)
  | .eord _ => some (.lane .v)
  | .vperm _ _ _ _ => some (.lane .v)
  | .vslide _ _ _ _ => some (.lane .v)
  | .vbcast _ _ _ => some (.lane .v)
  | .vcompress _ _ _ => some (.lane .v)
  | .vbucket _ _ _ _ => some (.lane .v)
  | .vld _ _ _ => some (.lane .v)
  | .vst _ _ _ => some (.lane .v)
  | .vlds _ _ _ _ => some (.lane .v)
  | .vsts _ _ _ _ => some (.lane .v)
  | .vgather _ _ _ _ => some (.lane .v)
  | .vscatter _ _ _ _ => some (.lane .v)
  | .qld _ _ => some (.lane .v)
  | .vmovs _ _ _ _ => some (.lane .v)
  | .vguide _ _ _ _ => some (.lane .v)
  | .vstep _ _ _ _ => some (.lane .v)
  | .vtemb _ _ _ => some (.lane .v)
  | .vloop _ _ => some (.lane .v)
  | .vbr _ _ _ => some (.lane .v)
  | .tcfg _ _ _ => some (.lane .v)
  | .tldrow _ _ _ => some (.lane .v)
  | .tstrow _ _ _ => some (.lane .v)
  | .tmovr _ _ _ => some (.lane .v)
  | .tmovc _ _ _ => some (.lane .v)
  | .tzero _ => some (.lane .v)
  | .tfma _ _ _ => some (.lane .v)
  | .eeval _ _ _ _ => some (.lane .v)
  | .ep2p _ _ _ _ => some (.lane .v)
  | .eadmit _ _ _ => some (.lane .v)
  | .eld _ _ => some (.lane .v)
  | .est _ _ => some (.lane .v)
  | .mma _ _ _ _ _ => some (.lane .m)
  | .mmasp _ _ _ _ _ => some (.lane .m)
  | .mmv _ _ _ _ => some (.lane .m)
  | .mzero _ _ => some (.lane .m)
  | .malloc _ _ => some (.lane .m)
  | .mfree _ _ => some (.lane .m)
  | .mhand _ _ _ => some (.lane .m)
  | .mdrain _ _ _ _ _ => some (.lane .m)
  | .mload _ _ _ => some (.lane .m)
  | .mfmt _ _ => some (.lane .m)
  | .mwait => some (.lane .m)
  | .mloop _ _ => some (.lane .m)
  | .mstop => some (.lane .m)
  | .xnop => some (.lane .x)
  | .xcopy _ _ _ _ => some (.lane .x)
  | .xfeeda _ _ => some (.lane .x)
  | .xfeedb _ _ => some (.lane .x)
  | .xmcast _ _ _ _ => some (.lane .x)
  | .xgather _ _ _ _ _ => some (.lane .x)
  | .xzce _ _ _ _ _ => some (.lane .x)
  | .xzcd _ _ _ _ _ => some (.lane .x)
  | .xdelta _ _ _ _ _ => some (.lane .x)
  | .xhalo _ _ _ _ => some (.lane .x)
  | .xsig _ _ => some (.lane .x)
  | .xloop _ _ => some (.lane .x)
  | .xwait => some (.lane .x)
  | .sburst _ _ _ => some .box
  | .swrite _ _ => some .box
  | .sloop _ _ => some .box
  | .swait _ _ _ => some .box
  | .ssig _ _ _ => some .box
  | .sexpert _ _ => some .box
  | .sfetch _ _ _ => some .box
  | .scount _ _ _ => some .box
  | .sjump _ => some .box
  | .shalt => some .box
  | .spark => some .box
  | .syncGroup => none
  | .codeFetch => none
  | .evRead => none
  | .evWrite => none
  | .evFetch => none
  | .evEvict => none
  | .evDrain => none
  | .evWb => none
  | .evMark => none
  | .evExcl => none
  | .evFar => none
  | .evVert => none
  | .evHorz => none
  | .evEng => none
  | .evDone => none
  | .evSig => none
  | .qldFill => none
  | .feedEntryPush => none
  | .manifestResolve => none
  | .mCommandCommit => none
  | .tileRestore => none
  | .turntableCommand => none
  | .setdivRampEnd => none
  | .ringLink => none
  | .lampArrive => none
  | .contextSave => none
  | .preemptRequest => none
  | .preemptWithdraw => none
  | .debug => none
  | .resume => none
  | .end_ => none
  | .save => none
  | .retry => none
  | .abandon => none
  | .macroStoreWrite => none
  | .ringConfigWrite => none
  | .bindRecordWrite => none
  | .dispatch => none
  | .launch => none
  | .stepStart => none
  | .walkerExpand => none
  | .eventCoalesceTimeout => none
  | .evheadWrite => none
  | .lqpost => none
  | .functionLevelReset => none
  | .sbStart => none
  | .sbStop => none
  | .sbctlResume => none
  | .burstMemberDone => none
  | .fetchEnd => none
  | .expertEntryWrite => none
  | .pageOutPacked => none
  | .pageOutRaw => none
  | .pagesIn => none
  | .badcmd => none
  | .migrationComplete => none
  | .tlbInvalidate => none
  | .invalidationComplete => none
  | .l2WayGate => none
  | .l2WayUngate => none
  | .vaultScrub => none
  | .linkCrc => none
  | .refreshWindow => none
  | .hbmRetrain => none
  | .retrain => none
  | .healthClear => none
  | .flitReplay => none
  | .portRetrain => none
  | .portClear => none
  | .fabricCountersClear => none
  | .remoteTimeout => none
  | .ptpMessage => none
  | .collSendDone => none
  | .collArrival => none
  | .parkedArrivalApply => none
  | .powerGrant => none
  | .drawWindowEnd => none
  | .throttleInterval => none
  | .matrixGate => none
  | .matrixWakeDone => none
  | .pwrcfgWrite => none
  | .reuseCountersClear => none
  | .freeze => none
  | .frzN => none
  | .packageReset => none
  | .configurationImage => none
  | .getVersion => none
  | .getCapabilities => none
  | .negotiateAlgorithms => none
  | .getDigests => none
  | .getCertificate => none
  | .challenge => none
  | .getMeasurements => none
  | .registerWrite => none
  | .uncorrectableError => none

/-- The words of a well-formed instruction under a framing (04 R98-R116); no words for an event. -/
def encode (f : Framing) : Instr → List Code
  | .add d a b => wSA f 0x00 d.toNat a.toNat b.toNat 0
  | .sub d a b => wSA f 0x00 d.toNat a.toNat b.toNat 1
  | .and_ d a b => wSA f 0x00 d.toNat a.toNat b.toNat 2
  | .or_ d a b => wSA f 0x00 d.toNat a.toNat b.toNat 3
  | .xor_ d a b => wSA f 0x00 d.toNat a.toNat b.toNat 4
  | .andn d a b => wSA f 0x00 d.toNat a.toNat b.toNat 5
  | .shl d a b => wSA f 0x00 d.toNat a.toNat b.toNat 6
  | .shr d a b => wSA f 0x00 d.toNat a.toNat b.toNat 7
  | .sra d a b => wSA f 0x00 d.toNat a.toNat b.toNat 8
  | .slt d a b => wSA f 0x00 d.toNat a.toNat b.toNat 9
  | .sltu d a b => wSA f 0x00 d.toNat a.toNat b.toNat 10
  | .min_ d a b => wSA f 0x00 d.toNat a.toNat b.toNat 11
  | .max_ d a b => wSA f 0x00 d.toNat a.toNat b.toNat 12
  | .minu d a b => wSA f 0x00 d.toNat a.toNat b.toNat 13
  | .maxu d a b => wSA f 0x00 d.toNat a.toNat b.toNat 14
  | .sel d a b => wSA f 0x00 d.toNat a.toNat b.toNat 15
  | .mul d a b => wSA f 0x01 d.toNat a.toNat b.toNat 0
  | .mulh d a b => wSA f 0x01 d.toNat a.toNat b.toNat 1
  | .mulhu d a b => wSA f 0x01 d.toNat a.toNat b.toNat 2
  | .div d a b => wSA f 0x01 d.toNat a.toNat b.toNat 3
  | .divu d a b => wSA f 0x01 d.toNat a.toNat b.toNat 4
  | .rem d a b => wSA f 0x01 d.toNat a.toNat b.toNat 5
  | .remu d a b => wSA f 0x01 d.toNat a.toNat b.toNat 6
  | .clz d a => wSA f 0x01 d.toNat a.toNat 0 8
  | .ctz d a => wSA f 0x01 d.toNat a.toNat 0 9
  | .popc d a => wSA f 0x01 d.toNat a.toNat 0 10
  | .addi d a imm => wSI f 0x8 d.toNat a.toNat imm.toNat
  | .andi d a imm => wSI f 0x9 d.toNat a.toNat imm.toNat
  | .ori d a imm => wSI f 0xa d.toNat a.toNat imm.toNat
  | .xori d a imm => wSI f 0xb d.toNat a.toNat imm.toNat
  | .shli d a sh => wSI f 0xc d.toNat a.toNat sh.toNat
  | .shri d a sh => wSI f 0xd d.toNat a.toNat sh.toNat
  | .srai d a sh => wSI f 0xe d.toNat a.toNat sh.toNat
  | .slti d a imm => wSI f 0xf d.toNat a.toNat imm.toNat
  | .lis d k imm => wSU f (0x10 + k.toNat) d.toNat imm.toNat
  | .beq a b off => wSI f 0x18 a.toNat b.toNat off.toNat
  | .bne a b off => wSI f 0x19 a.toNat b.toNat off.toNat
  | .blt a b off => wSI f 0x1a a.toNat b.toNat off.toNat
  | .bge a b off => wSI f 0x1b a.toNat b.toNat off.toNat
  | .bltu a b off => wSI f 0x1c a.toNat b.toNat off.toNat
  | .bgeu a b off => wSI f 0x1d a.toNat b.toNat off.toNat
  | .loop a off => wSI f 0x1E a.toNat 0 off.toNat
  | .jmp off => wSJ f 0x20 off.toNat
  | .call off => wSJ f 0x21 off.toNat
  | .jal d off => wSU f 0x22 d.toNat off.toNat
  | .jalr d a imm => wSI f 0x23 d.toNat a.toNat imm.toNat
  | .ret => wSA f 0x24 0 0 0 0
  | .mcall n d a b => wSA f 0x25 d.toNat a.toNat b.toNat n.toNat
  | .idle n => wSU f 0x26 0 n.toNat
  | .halt => wSA f 0x27 0 0 0 0
  | .ldB d a imm => wSI f 0x28 d.toNat a.toNat imm.toNat
  | .ldBu d a imm => wSI f 0x29 d.toNat a.toNat imm.toNat
  | .ldH d a imm => wSI f 0x2a d.toNat a.toNat imm.toNat
  | .ldHu d a imm => wSI f 0x2b d.toNat a.toNat imm.toNat
  | .ldW d a imm => wSI f 0x2c d.toNat a.toNat imm.toNat
  | .ldWu d a imm => wSI f 0x2d d.toNat a.toNat imm.toNat
  | .ldD d a imm => wSI f 0x2e d.toNat a.toNat imm.toNat
  | .stB a b off => wSI f 0x30 a.toNat b.toNat off.toNat
  | .stH a b off => wSI f 0x31 a.toNat b.toNat off.toNat
  | .stW a b off => wSI f 0x32 a.toNat b.toNat off.toNat
  | .stD a b off => wSI f 0x33 a.toNat b.toNat off.toNat
  | .ldx sz scale d a b => wSA f 0x34 d.toNat a.toNat b.toNat (scale.toNat * 8 + sz.code)
  | .stx sz scale d a b => wSA f 0x35 d.toNat a.toNat b.toNat (scale.toNat * 8 + sz.code)
  | .pref hint a imm => wSI f 0x36 hint.toNat a.toNat imm.toNat
  | .aptoPkg d a => wSA f 0x37 d.toNat a.toNat 0 0
  | .aptoOwn d a => wSA f 0x37 d.toNat a.toNat 0 1
  | .apis w d a => wSA f 0x37 d.toNat a.toNat 0 (8 + w.code)
  | .ldaW d a imm => wSI f 0x38 d.toNat a.toNat imm.toNat
  | .ldaD d a imm => wSI f 0x39 d.toNat a.toNat imm.toNat
  | .stlW a b off => wSI f 0x3A a.toNat b.toNat off.toNat
  | .stlD a b off => wSI f 0x3B a.toNat b.toNat off.toNat
  | .atomW op ord d a b => wSA f 0x40 d.toNat a.toNat b.toNat (ord.code * 16 + op.code)
  | .atomD op ord d a b => wSA f 0x41 d.toNat a.toNat b.toNat (ord.code * 16 + op.code)
  | .casW succ fail d a b => wSA f 0x42 d.toNat a.toNat b.toNat (fail.code * 4 + succ.code)
  | .casD succ fail d a b => wSA f 0x43 d.toNat a.toNat b.toNat (fail.code * 4 + succ.code)
  | .fatomW op d a b => wSA f 0x44 d.toNat a.toNat b.toNat op.code
  | .fatomD op d a b => wSA f 0x45 d.toNat a.toNat b.toNat op.code
  | .fence kind scope => wSI f 0x46 0 0 (kind.code * 4 + scope.code)
  | .vfence => wSA f 0x47 0 0 0 0
  | .sigadd g a => wSA f 0x48 0 a.toNat 0 g.toNat
  | .sigwait g a => wSA f 0x49 0 a.toNat 0 g.toNat
  | .sigexpect g a => wSA f 0x4a 0 a.toNat 0 g.toNat
  | .sigread d g => wSA f 0x4B d.toNat 0 0 g.toNat
  | .ringclaim d r a => wSA f 0x4C d.toNat a.toNat r.toNat 0
  | .ringcommit r a => wSA f 0x4C 0 a.toNat r.toNat 1
  | .ringwaitf r a => wSA f 0x4C 0 a.toNat r.toNat 2
  | .ringwaite r a => wSA f 0x4C 0 a.toNat r.toNat 3
  | .ringtake d r => wSA f 0x4C d.toNat 0 r.toNat 4
  | .ringdone r a => wSA f 0x4C 0 a.toNat r.toNat 5
  | .own first count1 o => wSU f 0x4e count1.toNat (first.toNat * 256 + o.code * 64)
  | .ownwait first count1 o => wSU f 0x4f count1.toNat (first.toNat * 256 + o.code * 64)
  | .sync => wSA f 0x50 0 0 0 0
  | .tickwait a => wSA f 0x51 0 a.toNat 0 0
  | .lampsend => wSA f 0x52 0 0 0 0
  | .lamptest d => wSA f 0x53 d.toNat 0 0 0
  | .collrdy a b => wSA f 0x54 0 a.toNat b.toNat 0
  | .rprobe d a b => wSA f 0x55 d.toNat a.toNat b.toNat 0
  | .rput a b => wSA f 0x56 0 a.toNat b.toNat 0
  | .rdrop a => wSA f 0x57 0 a.toNat 0 0
  | .lvread d n => wSI f 0x58 d.toNat 0 n.toNat
  | .lvwrite n a => wSI f 0x59 0 a.toNat n.toNat
  | .mfsel src base => wSI f 0x5A 0 0 (base.toNat * 16 + src.code)
  | .acqp n => wSU f 0x5C 0 n.toNat
  | .relp n => wSU f 0x5D 0 n.toNat
  | .setdiv eng dv => wSI f 0x5E 0 0 (dv.toNat * 4 + eng.code)
  | .wake => wSI f 0x5F 0 0 0
  | .phint a => wSA f 0x60 0 a.toNat 0 0
  | .trap n => wSU f 0x61 0 n.toNat
  | .eret => wSA f 0x62 0 0 0 0
  | .sysr d n => wSI f 0x63 d.toNat 0 n.toNat
  | .sysw n a => wSI f 0x64 0 a.toNat n.toNat
  | .l2conv back ways => wSI f 0x65 0 0 (boolNat back * 32 + ways.toNat)
  | .event a => wSA f 0x66 0 a.toNat 0 0
  | .xdset x a n => wSI f 0x67 x.toNat a.toNat n.toNat
  | .xdsetD1 x a b => wSA f 0x68 x.toNat a.toNat b.toNat 0
  | .xdsetD2 x a b => wSA f 0x68 x.toNat a.toNat b.toNat 1
  | .xdsetWin x a b => wSA f 0x68 x.toNat a.toNat b.toNat 2
  | .xdsetLen x a b => wSA f 0x68 x.toNat a.toNat b.toNat 3
  | .tbind a => wSA f 0x70 0 a.toNat 0 0
  | .tmap n a => wSA f 0x71 0 a.toNat 0 n.toNat
  | .tgld real a g => wSA f 0x72 0 a.toNat g.toNat (boolNat real)
  | .tgate m a g => wSA f 0x73 0 a.toNat g.toNat m.code
  | .tcgate m d a g => wSA f 0x74 d.toNat a.toNat g.toNat m.code
  | .tdiag m a g => wSA f 0x75 0 a.toNat g.toNat m.code
  | .tswap a => wSA f 0x76 0 a.toNat 0 0
  | .tprob d a => wSA f 0x77 d.toNat a.toNat 0 0
  | .tnorm m d => wSA f 0x78 d.toNat 0 0 m.code
  | .twait => wSA f 0x79 0 0 0 0
  | .vnop => wV f 0 0 0 0 0
  | .vsetshape ty vl => wSJ f 0x02 (vl.toNat * 2 ^ 13 + ty.code)
  | .vadd d a b p => wV f 0x2 d.toNat a.toNat b.toNat p.toNat
  | .vsub d a b p => wV f 0x3 d.toNat a.toNat b.toNat p.toNat
  | .vmul d a b p => wV f 0x4 d.toNat a.toNat b.toNat p.toNat
  | .vdiv d a b p => wV f 0x5 d.toNat a.toNat b.toNat p.toNat
  | .vmin d a b p => wV f 0x6 d.toNat a.toNat b.toNat p.toNat
  | .vmax d a b p => wV f 0x7 d.toNat a.toNat b.toNat p.toNat
  | .vfma d a b p => wV f 0x8 d.toNat a.toNat b.toNat p.toNat
  | .vfms d a b p => wV f 0x9 d.toNat a.toNat b.toNat p.toNat
  | .vfnma d a b p => wV f 0xa d.toNat a.toNat b.toNat p.toNat
  | .vcmul d a b p => wV f 0xb d.toNat a.toNat b.toNat p.toNat
  | .vabs d a p => wV f 0x0C d.toNat a.toNat 0 p.toNat
  | .vneg d a p => wV f 0x0C d.toNat a.toNat 1 p.toNat
  | .vrcp d a p => wV f 0x0C d.toNat a.toNat 2 p.toNat
  | .vrsqrt d a p => wV f 0x0C d.toNat a.toNat 3 p.toNat
  | .vsqrt d a p => wV f 0x0C d.toNat a.toNat 4 p.toNat
  | .vexp2 d a p => wV f 0x0C d.toNat a.toNat 5 p.toNat
  | .vlog2 d a p => wV f 0x0C d.toNat a.toNat 6 p.toNat
  | .vsinpi d a p => wV f 0x0C d.toNat a.toNat 7 p.toNat
  | .vcospi d a p => wV f 0x0C d.toNat a.toNat 8 p.toNat
  | .vsig d a p => wV f 0x0C d.toNat a.toNat 9 p.toNat
  | .viadd d a b p => wV f 0xd d.toNat a.toNat b.toNat p.toNat
  | .visub d a b p => wV f 0xe d.toNat a.toNat b.toNat p.toNat
  | .vimul d a b p => wV f 0xf d.toNat a.toNat b.toNat p.toNat
  | .vand d a b p => wV f 0x10 d.toNat a.toNat b.toNat p.toNat
  | .vor d a b p => wV f 0x11 d.toNat a.toNat b.toNat p.toNat
  | .vxor d a b p => wV f 0x12 d.toNat a.toNat b.toNat p.toNat
  | .vshl d a b p => wV f 0x13 d.toNat a.toNat b.toNat p.toNat
  | .vshr d a b p => wV f 0x14 d.toNat a.toNat b.toNat p.toNat
  | .vsra d a b p => wV f 0x15 d.toNat a.toNat b.toNat p.toNat
  | .vcmp c d a b p => wV f 0x16 (c.code * 16 + d.toNat) a.toNat b.toNat p.toNat
  | .vcmpU c d a b p => wV f 0x17 (c.code * 16 + d.toNat) a.toNat b.toNat p.toNat
  | .pand d a b => wV f 0x18 d.toNat a.toNat b.toNat 0
  | .por d a b => wV f 0x19 d.toNat a.toNat b.toNat 0
  | .pxor d a b => wV f 0x1a d.toNat a.toNat b.toNat 0
  | .eform d a b p => wV f 0x1B d.toNat a.toNat b.toNat p.toNat
  | .pcount d a => wV f 0x1C d.toNat a.toNat 0 0
  | .vql4dec d a blk p => wV f 0x1D d.toNat a.toNat blk.toNat p.toNat
  | .vql4enc d a p => wV f 0x1E d.toNat a.toNat 0 p.toNat
  | .vredsum d a p => wV f 0x1F d.toNat a.toNat 0 p.toNat
  | .vredmax d a p => wV f 0x1F d.toNat a.toNat 1 p.toNat
  | .vredmin d a p => wV f 0x1F d.toNat a.toNat 2 p.toNat
  | .vscan d a p => wV f 0x1F d.toNat a.toNat 3 p.toNat
  | .vcvt d a ty rm p => wV f 0x20 d.toNat a.toNat (ty.code * 4 + rm.code) p.toNat
  | .vcvtS d a ty rm p => wV f 0x21 d.toNat a.toNat (ty.code * 4 + rm.code) p.toNat
  | .eclr d => wV f 0x22 d.toNat 0 0 0
  | .eshift d a => wV f 0x22 d.toNat a.toNat 1 0
  | .econv d a => wV f 0x22 d.toNat a.toNat 2 0
  | .elshift d a => wV f 0x22 d.toNat a.toNat 3 0
  | .eadd d a => wV f 0x22 d.toNat a.toNat 4 0
  | .eord n => wV f 0x22 0 n.toNat 5 0
  | .vperm d a b p => wV f 0x23 d.toNat a.toNat b.toNat p.toNat
  | .vslide d a n p => wV f 0x24 d.toNat a.toNat n.toNat p.toNat
  | .vbcast d a p => wV f 0x25 d.toNat a.toNat 0 p.toNat
  | .vcompress d a p => wV f 0x26 d.toNat a.toNat 0 p.toNat
  | .vbucket d a b p => wV f 0x27 d.toNat a.toNat b.toNat p.toNat
  | .vld d x p => wV f 0x28 d.toNat x.toNat 0 p.toNat
  | .vst d x p => wV f 0x29 d.toNat x.toNat 0 p.toNat
  | .vlds d a b p => wV f 0x2A d.toNat a.toNat b.toNat p.toNat
  | .vsts d a b p => wV f 0x2B d.toNat a.toNat b.toNat p.toNat
  | .vgather d a b p => wV f 0x2C d.toNat a.toNat b.toNat p.toNat
  | .vscatter d a b p => wV f 0x2D d.toNat a.toNat b.toNat p.toNat
  | .qld q x => wV f 0x2E (60 + q.toNat) x.toNat 0 0
  | .vmovs d a n p => wV f 0x2F d.toNat a.toNat n.toNat p.toNat
  | .vguide d a b p => wV f 0x30 d.toNat a.toNat b.toNat p.toNat
  | .vstep d a b p => wV f 0x31 d.toNat a.toNat b.toNat p.toNat
  | .vtemb d a p => wV f 0x32 d.toNat a.toNat 0 p.toNat
  | .vloop off n => [BitVec.ofNat 32 (f.bits + 0x33 * 2 ^ 22 + off.toNat * 2 ^ 10 + n.toNat)]
  | .vbr c off p => [BitVec.ofNat 32 (f.bits + 0x34 * 2 ^ 22 + c.code * 2 ^ 20 + off.toNat * 2 ^ 4 + p.toNat)]
  | .tcfg t rows1 cols1 => wV f 0x35 t.toNat (rows1.toNat + 1) (cols1.toNat + 1) 0
  | .tldrow t x row => wV f 0x36 t.toNat x.toNat row.toNat 0
  | .tstrow t x row => wV f 0x37 t.toNat x.toNat row.toNat 0
  | .tmovr d t row => wV f 0x38 d.toNat t.toNat row.toNat 0
  | .tmovc d t col => wV f 0x39 d.toNat t.toNat col.toNat 0
  | .tzero t => wV f 0x3A t.toNat 0 0 0
  | .tfma d a b => wV f 0x3B d.toNat a.toNat b.toNat 0
  | .eeval d a b p => wV f 0x3C d.toNat a.toNat b.toNat p.toNat
  | .ep2p d a b p => wV f 0x3D d.toNat a.toNat b.toNat p.toNat
  | .eadmit d a b => wV f 0x3E d.toNat a.toNat b.toNat 0
  | .eld d x => wV f 0x3F d.toNat x.toNat 0 0
  | .est d x => wV f 0x3F d.toNat x.toNat 1 0
  | .mma ab k1 mf rh ncol1 => wM f 1 (ab.toNat * 2 ^ 23 + k1.toNat * 2 ^ 15 + mf.toNat * 2 ^ 11 + boolNat rh * 2 ^ 10 + ncol1.toNat * 2 ^ 5)
  | .mmasp ab k1 mf rh ncol1 => wM f 2 (ab.toNat * 2 ^ 23 + k1.toNat * 2 ^ 15 + mf.toNat * 2 ^ 11 + boolNat rh * 2 ^ 10 + ncol1.toNat * 2 ^ 5)
  | .mmv ab k1 mf nv1 => wM f 3 (ab.toNat * 2 ^ 23 + k1.toNat * 2 ^ 15 + mf.toNat * 2 ^ 11 + nv1.toNat * 2 ^ 8)
  | .mzero ab count => wM f 4 (ab.toNat * 2 ^ 23 + count.toNat * 2 ^ 17)
  | .malloc ab count => wM f 5 (ab.toNat * 2 ^ 23 + count.toNat * 2 ^ 17)
  | .mfree ab count => wM f 6 (ab.toNat * 2 ^ 23 + count.toNat * 2 ^ 17)
  | .mhand ab count core => wM f 7 (ab.toNat * 2 ^ 23 + count.toNat * 2 ^ 17 + core.toNat * 2 ^ 6)
  | .mdrain ab count x sg se => wM f 8 (ab.toNat * 2 ^ 23 + count.toNat * 2 ^ 17 + x.toNat * 2 ^ 13 + sg.toNat * 2 ^ 7 + boolNat se * 2 ^ 6)
  | .mload ab count x => wM f 9 (ab.toNat * 2 ^ 23 + count.toNat * 2 ^ 17 + x.toNat * 2 ^ 13)
  | .mfmt mf x => wM f 0xA (mf.toNat * 2 ^ 24 + x.toNat * 2 ^ 20)
  | .mwait => wM f 0xB 0
  | .mloop n off => wM f 0xC (n.toNat * 2 ^ 16 + off.toNat)
  | .mstop => wM f 0xD 0
  | .xnop => wX f 0 0 0 0 0 0
  | .xcopy a b sg se => wX f 1 a.toNat b.toNat sg.toNat (boolNat se) 0
  | .xfeeda a n1 => wX f 2 a.toNat 0 0 0 n1.toNat
  | .xfeedb a n1 => wX f 3 a.toNat 0 0 0 n1.toNat
  | .xmcast mc b sg se => wX f 4 0 b.toNat sg.toNat (boolNat se) mc.toNat
  | .xgather a b c sg se => wX f 5 a.toNat b.toNat sg.toNat (boolNat se) c.toNat
  | .xzce w a b sg se => wX f 6 a.toNat b.toNat sg.toNat (boolNat se) w.code
  | .xzcd w a b sg se => wX f 7 a.toNat b.toNat sg.toNat (boolNat se) w.code
  | .xdelta ty a b sg se => wX f 8 a.toNat b.toNat sg.toNat (boolNat se) ty.code
  | .xhalo a b sg se => wX f 9 a.toNat b.toNat sg.toNat (boolNat se) 0
  | .xsig sg n => wX f 0xA 0 0 sg.toNat 1 n.toNat
  | .xloop n off => [BitVec.ofNat 32 (f.bits + 0xB * 2 ^ 23 + n.toNat * 2 ^ 13 + off.toNat)]
  | .xwait => wX f 0xC 0 0 0 0 0
  | .sburst mc units src => wB 1 (mc.toNat * 2 ^ 21 + units.toNat) :: wAddr src
  | .swrite addr v => wB 2 0 :: (wAddr addr ++ [v])
  | .sloop n off => [wB 3 (n.toNat * 2 ^ 16 + off.toNat)]
  | .swait core sg t => [wB 4 (core.toNat * 2 ^ 16 + sg.toNat * 2 ^ 10 + t.toNat)]
  | .ssig core sg n => [wB 5 (core.toNat * 2 ^ 16 + sg.toNat * 2 ^ 10 + n.toNat)]
  | .sexpert e mc => [wB 6 (e.toNat * 2 ^ 15 + mc.toNat * 2 ^ 9)]
  | .sfetch e peer pkg => [wB 7 (e.toNat * 2 ^ 15 + boolNat peer * 2 ^ 14 + pkg.toNat * 2 ^ 5)]
  | .scount first n table => wB 8 (first.toNat * 2 ^ 15 + n.toNat * 2 ^ 2) :: wAddr table
  | .sjump off => [wB 9 off.toNat]
  | .shalt => [wB 0xA 0]
  | .spark => [wB 0xB 0]
  | .syncGroup => []
  | .codeFetch => []
  | .evRead => []
  | .evWrite => []
  | .evFetch => []
  | .evEvict => []
  | .evDrain => []
  | .evWb => []
  | .evMark => []
  | .evExcl => []
  | .evFar => []
  | .evVert => []
  | .evHorz => []
  | .evEng => []
  | .evDone => []
  | .evSig => []
  | .qldFill => []
  | .feedEntryPush => []
  | .manifestResolve => []
  | .mCommandCommit => []
  | .tileRestore => []
  | .turntableCommand => []
  | .setdivRampEnd => []
  | .ringLink => []
  | .lampArrive => []
  | .contextSave => []
  | .preemptRequest => []
  | .preemptWithdraw => []
  | .debug => []
  | .resume => []
  | .end_ => []
  | .save => []
  | .retry => []
  | .abandon => []
  | .macroStoreWrite => []
  | .ringConfigWrite => []
  | .bindRecordWrite => []
  | .dispatch => []
  | .launch => []
  | .stepStart => []
  | .walkerExpand => []
  | .eventCoalesceTimeout => []
  | .evheadWrite => []
  | .lqpost => []
  | .functionLevelReset => []
  | .sbStart => []
  | .sbStop => []
  | .sbctlResume => []
  | .burstMemberDone => []
  | .fetchEnd => []
  | .expertEntryWrite => []
  | .pageOutPacked => []
  | .pageOutRaw => []
  | .pagesIn => []
  | .badcmd => []
  | .migrationComplete => []
  | .tlbInvalidate => []
  | .invalidationComplete => []
  | .l2WayGate => []
  | .l2WayUngate => []
  | .vaultScrub => []
  | .linkCrc => []
  | .refreshWindow => []
  | .hbmRetrain => []
  | .retrain => []
  | .healthClear => []
  | .flitReplay => []
  | .portRetrain => []
  | .portClear => []
  | .fabricCountersClear => []
  | .remoteTimeout => []
  | .ptpMessage => []
  | .collSendDone => []
  | .collArrival => []
  | .parkedArrivalApply => []
  | .powerGrant => []
  | .drawWindowEnd => []
  | .throttleInterval => []
  | .matrixGate => []
  | .matrixWakeDone => []
  | .pwrcfgWrite => []
  | .reuseCountersClear => []
  | .freeze => []
  | .frzN => []
  | .packageReset => []
  | .configurationImage => []
  | .getVersion => []
  | .getCapabilities => []
  | .negotiateAlgorithms => []
  | .getDigests => []
  | .getCertificate => []
  | .challenge => []
  | .getMeasurements => []
  | .registerWrite => []
  | .uncorrectableError => []

end Sys2Proof
end

