-- ==== Sys2Proof/Machine/State.lean ====
section
/-! DEFINITION. The state of the package as plain data, the reasons a step can stop, and the state after reset.
Repeated registers are tables (`Tab`); memory is one sorted list of bytes. INVENTORY.md lists every field with its rule. -/

namespace Sys2Proof.Machine

open Sys2Proof

/-! ### Stops -/

/-- The model defines no fault of its own: every fault of the manual is a trap, a fault record or a stopped program, and
each of these is a next state. -/
inductive Fault where
  /-- Raised by a step of the agenda that names a lane word as an event: a lane word reaches the machine only by being
  fetched (02 R35). Safe: the hardware has no such move. -/
  | notAnEvent
deriving DecidableEq, Repr

/-- Why the model has no meaning for a step. -/
inductive Refusal where
  /-- Raised by an arm of `exec` that has no meaning yet. Safe. -/
  | notModelled (mnemonic : String)
deriving DecidableEq, Repr

/-- The cause codes (19 R398); `xlate n` is the translation cause of size class `n`, 0 4 KiB to 6 16 GiB. -/
inductive Cause where
  | illegalOp | illegalFn | reservedField | privilege | tileUncfg | shapeIllegal | tileRange | vloopDepth | codeUe
  | aperture | misalign | permission | ownerViolation | mmRace | spillLimit | descEnd | descShape | descMode
  | xlate (n : Nat)
  | schedMiss | fifoUnderflow | accUnalloc | accBand | accRange | accRealloc | manifest | sparseMeta | feedFormat
  | xferFault | zcOverrun | zcShort | fpExc | mxFp
  | ringUncfg | ringOrder | tickLate | collTable | sigMode | sboxLoop | depStall | depUnder | badgraph | fuseRange | bindBad
  | powerOverdraw | divIllegal | preempt | trapSw | l2convRange | debug | phintRec | ctxBad
  | migAbsent | migCorrupt | migMemerr
  | fabricErr | collEntry | turnBind | turnMode | turnBits | turnMap | turnMismatch | turnGate | turnBusy
  | expKind | expCentre | poison
deriving DecidableEq, Repr

/-! ### Registers of a core -/

/-- Transfer descriptor (02 R58). -/
structure Desc where
  base : Word := 0
  len : BitVec 32 := 0
  cnt1 : BitVec 16 := 0
  cnt2 : BitVec 16 := 0
  str1 : BitVec 32 := 0
  str2 : BitVec 32 := 0
  win : BitVec 32 := 0
  cur : BitVec 32 := 0
deriving DecidableEq, Repr

/-- Signal (02 R54). -/
structure Signal where
  value : BitVec 32 := 0
  expect : BitVec 32 := 0
  byteMode : Bool := false
  armed : Bool := false
  ovr : Bool := false
  overcnt : BitVec 16 := 0
deriving DecidableEq, Repr

/-- An addition on its way to signal `sg`: its amount, the core that made it (2048: no core), the reference tick of its arrival
(06 R157, 13 R313 SIG). -/
structure SigAdd where
  sg : Nat
  amount : Nat
  src : Nat
  tick : Nat
deriving DecidableEq, Repr

/-- Expansion register (02 R51): coefficients and centre are C64 patterns. -/
structure Expn where
  c : Tab (BitVec 64) := .fill 0
  centre : BitVec 64 := 0
  radius : BitVec 32 := 0
  isLocal : Bool := false
deriving DecidableEq, Repr

/-- Gate register (02 R52): element (row, col) at index 16 x row + col. At task entry [0][0] = 1 + 0i. -/
structure Gate where
  k : BitVec 3 := 0
  real : Bool := false
  el : Tab (BitVec 64) := { dflt := 0, rows := [(0, 0x3F800000)] }
deriving DecidableEq, Repr

/-- State of an accumulator bank (02 R55); its 12 KiB of contents are in memory. -/
structure Bank where
  alloc : Bool := false
  i96 : Bool := false
  holder : CoreId := 0
deriving DecidableEq, Repr

/-- Tile register (02 R50): element (row, col) at index 16 x row + col; `image`: where the bytes of a lazily saved tile
stand, an address of the task's virtual function (19 R412). -/
structure Tile where
  el : Tab (BitVec 32) := .fill 0
  cfg : Bool := false
  dirty : Bool := false
  resid : Bool := true
  rows : BitVec 5 := 0
  cols : BitVec 5 := 0
  image : Word := 0
deriving DecidableEq, Repr

/-- The registers that a word of a cycle reads as they stood before the cycle (02 R37, 06 R180, R183). -/
structure Regs where
  s : Tab Word := .fill 0
  xd : Tab Desc := .fill {}
  lv : Tab (BitVec 32) := .fill 0
  fpctl : BitVec 9 := 0
  ety : EType := .f32
  vl : BitVec 9 := 64
  rbv : BitVec 6 := 0
  rbp : BitVec 3 := 0
  mfsrc : BitVec 2 := 0
  mfbase : BitVec 4 := 0
  eord : BitVec 5 := 16
  eta : BitVec 32 := 0x3F000000
  /-- pulse at which each result is readable; `none`: its access has not been performed. Keys: `Ops.lean` -/
  ready : Tab (Option Nat) := .fill (some 0)
deriving DecidableEq, Repr

/-- The other system registers (02 R61). -/
structure Ctl where
  fpflags : BitVec 5 := 0
  mxnan : BitVec 32 := 0
  mxovf : BitVec 32 := 0
  mspbad : BitVec 32 := 0
  causeLane : BitVec 2 := 0
  causeCode : BitVec 7 := 0
  epc : Tab Word := .fill 0
  tval : Word := 0
  tvec : Word := 0
  pe : Bool := false
  timed : Bool := false
  ppl : Bool := true
  pl : Bool := true
  cbase : Tab Word := .fill 0
  clen : Tab (BitVec 32) := .fill 0
  pbReg : Nat := 0x10000
  pbSpad : Nat := 0xC0000
  pbL1 : Nat := 0xC0000
  spillBase : Word := 0
  spillLim : Word := 0
  spillTop : Word := 0
  pwrdecl : Nat := 0
  vfid : Nat := 0
  /-- added to the cluster's pulse count to give `CYC`: only `TICKWAIT` changes it (02 R41, 06 R167) -/
  cycOff : Word := 0
  cycorg : Word := 0
deriving DecidableEq, Repr

/-- An operand FIFO entry with its tag, bytes and the pulse from which it may be popped (08 R215, R216). -/
structure FifoEntry where
  tag : BitVec 5
  data : List Byte
  /-- bytes whose data was lost (19 R418) -/
  lost : List Nat
  ready : Nat
deriving DecidableEq, Repr

/-- How far a word that has issued and not completed has come (02 R37, 19 R401). -/
inductive Prog where
  | none
  /-- a release waits for its marker (13 R316); `hold` is the issue pulse of a word that also acquires -/
  | marker (id : Nat) (hold : Option Nat)
  /-- the word completes at this pulse -/
  | timer (pulse : Nat)
  /-- `ACQP` waits for its grant (06 R175) -/
  | acqp
  /-- the grant of an `ACQP` has come: its units -/
  | granted (units : Nat)
  /-- a release that issued at this pulse waits for the accesses issued before it (13 R316) -/
  | older (pulse : Nat) (hold : Option Nat)
  /-- `VFENCE`, issued at this pulse, waits for the vault paths (06 R154) -/
  | vfence (pulse : Nat)
  /-- a word with an acquire role, issued at this pulse, waits: later accesses stay in their queues (13 R317) -/
  | acquiring (pulse : Nat)
  /-- `RET` waits for its frame: it transfers control, so that its lane does not park (01 R24) -/
  | returning
  /-- `ATOM` or `CAS` waits, and needs this line exclusively (13 R313 EXCL) -/
  | owning (line : Option Nat) (hold : Option Nat)
  /-- `EVENT` has copied its record and waits for room in the queue (06 R182) -/
  | posting (rec_ : BitVec 256)
  /-- a `TICKWAIT` whose group could form but for the time (06 R167) -/
  | ticking
  /-- `SETDIV` waits for its ramp (06 R176), which has begun, or is held behind another -/
  | setdiv (begun : Bool)
  /-- `RPUT` has released, and waits for a way (15 R366) -/
  | choosing
  /-- the ramp of a `SETDIV` has ended -/
  | ramped
  /-- `TPROB`, `TNORM` wait for the Turntable command of this number (09 R248) -/
  | turn (num : Nat)
  /-- the result of `TPROB` or `TNORM` -/
  | result (v : Word)
  /-- entries that an M command has popped (08 R218) -/
  | popped (a b : List FifoEntry)
  /-- a `FATOM` waits for FAR, or has its old value (13 R313) -/
  | far
deriving DecidableEq, Repr

/-- One lane. -/
structure LaneSt where
  pc : BitVec 32 := 0
  /-- target of a transfer that the current word makes -/
  npc : Option (BitVec 32) := none
  /-- first pulse on which the lane's spacing lets the next word issue -/
  due : Nat := 0
  parked : Bool := true
  /-- the lane's word has issued and not completed (02 R36, R37) -/
  waiting : Bool := false
  /-- the lane's word did not issue when it last could, for want of something it needs (02 R36, 05 R126) -/
  stalled : Bool := false
  /-- cycles from its issue until the current word completes, set by the word -/
  extra : Nat := 0
  /-- framing of the word the lane holds -/
  frame : Framing := { idle := 0, syn := false, stamp := 0 }
  prog : Prog := .none
  /-- the scalars as a word that waits read them when it issued (02 R37) -/
  kept : Option (Tab Word) := none
  /-- the words present in the front end: the instruction buffer, and words fetched on demand (05 R127) -/
  buf : Tab (Option Code) := .fill none
  /-- stamp of the last M command of the timed region (02 R40) -/
  lastStamp : Option Nat := none
deriving DecidableEq, Repr

/-- An entry of an operand queue (02 R49): reserved at issue of its `QLD`, `left` of its 8-byte words not yet read. -/
structure QEntry where
  id : Nat
  data : BitVec 2048
  left : Nat
  /-- its words that were uncorrectable (19 R418) -/
  bad : List Nat
  filled : Bool
  /-- a part of it comes from where the manual bounds no time: its fill is an event -/
  unbounded : Bool
  /-- pulse from which a filled entry may be popped -/
  ready : Nat
deriving DecidableEq, Repr

/-! ### Memory accesses in flight -/

/-- Where a lane access is performed (11 R281, 13 R313). -/
inductive Place where
  /-- global, cached: through the L1 -/
  | cached
  /-- global, uncached, or a cluster scratchpad: at the home or the L2 -/
  | uncached
  | scratch
  | peer (k : CoreId)
  | vert
  | horz (t : CoreId)
  /-- a register block behind a device page -/
  | device (b : RegBlock) (off : Nat)
deriving DecidableEq, Repr

/-- Where a load's value goes. -/
inductive Dest where
  | none
  | sreg (n : SReg) (signed : Bool)
  /-- bytes of a vector register but those, of the access, that later results have written -/
  | vec (phys off : Nat) (skip : List Nat)
  | tile (t el : Nat)
  | exp (e off : Nat)
  /-- word of an operand-queue entry -/
  | que (q id word : Nat)
deriving DecidableEq, Repr

/-- An issued access that has not been performed (13 R310). `key` is the model's memory key of its first byte. -/
structure Acc where
  isWrite : Bool
  place : Place
  key : Nat
  n : Nat
  data : List Byte
  dest : Dest
  /-- what a read returns where the data is uncorrectable (19 R418) -/
  repl : List Byte
  /-- pulse on which its word issued -/
  at_ : Nat
  /-- cycles until a read's value is readable, where the manual bounds them (05 R125, 07 R210) -/
  fig : Option Nat
deriving DecidableEq, Repr

/-- A copy of a 128-byte line in an L1 (13 R310): versions of the four granules, the dirty bytes. -/
structure L1Line where
  ex : Bool
  data : List Byte
  dirty : List Bool
  ver : List Nat
deriving DecidableEq, Repr

/-- A copy of a line in an L2, in a way of its set (11 R282). -/
structure L2Line where
  way : Nat
  data : List Byte
  dirty : List Bool
  ver : List Nat
deriving DecidableEq, Repr

/-- An item of the dirty-line FIFO (13 R310). -/
inductive FifoItem where
  | line (n : Nat)
  | mark (id : Nat) (scope : Scope)
deriving DecidableEq, Repr

/-- An open registration of a core on a granule (13 R326); `clusterClosed`: a release of cluster scope has closed it
towards the own cluster. -/
structure Registration where
  gran : Nat
  core : Nat
  r : Bool
  w : Bool
  clusterClosed : Bool
deriving DecidableEq, Repr

/-- A TLB entry (11 R303): a page of a virtual function. -/
structure TlbEntry where
  vf : Nat
  va : Nat
  pa : Nat
  size : Nat
  cls : Nat
  sys : Bool
  mt : Nat
  x : Bool
  w : Bool
deriving DecidableEq, Repr

/-! ### Engines of a core -/

/-- A counted-loop record (07 R206, 08 R225). -/
structure LoopRec where
  addr : BitVec 32
  rem : Nat
deriving DecidableEq, Repr

/-- The operation of an item of the X engine: the transfers (08 R226-R233), an `XSIG` that waits (R234), and the drains and
loads of the M lane (R223, R224). -/
inductive XKind where
  | copy
  /-- a copy from window 0x04 (08 R228) -/
  | band
  /-- whether it reads window 0x04; the core whose signal is added, if any; whether it travels the Crossover (08 R229, 17 R391) -/
  | halo (band : Bool) (dst : Option CoreId) (crossover : Bool)
  /-- the member cores by position, the destination slot and the signal of the set (08 R230) -/
  | mcast (members : List Nat) (slot sig : Nat)
  | gather
  | zce (w : Nat)
  | zcd (w : Nat)
  | delta (ty : EType)
  | sig (n : Nat)
  /-- first bank, LMF -/
  | drain (bank : Nat) (man : BitVec 128)
  | load (bank : Nat)
  | fmt (mf : Nat)
deriving DecidableEq, Repr

/-- How a transfer, feed or engine command stands (08 R234). -/
inductive XState where
  | active
  /-- waits for the answer to its fault record -/
  | faulted (token : Nat)
  /-- ends once its fault record, that a full ring holds back, has entered it (19 R406) -/
  | ending (token : Nat)
deriving DecidableEq, Repr

/-- A unit of a transfer, or the next entry of a feed, under way (13 R313 ENG): what its accesses so far have read, the places among
it whose data is lost, and, once all is read, what it writes and how many accesses have written it. -/
structure Part where
  unit : Nat := 0
  reads : Nat := 0
  bs : List Byte := []
  lost : List Nat := []
  out : Option (List Byte) := none
  writes : Nat := 0
deriving DecidableEq, Repr

/-- An item of the X engine's queue (08 R226). `left` are the units not yet performed, `parts` those of them that have begun. -/
structure Transfer where
  id : Nat
  kind : XKind
  a : Desc := {}
  b : Desc := {}
  c : Desc := {}
  da : BitVec 4 := 0
  db : BitVec 4 := 0
  sg : Option SgReg := none
  pc : BitVec 32 := 0
  left : List Nat := []
  parts : List Part := []
  /-- place in the ZC stream -/
  pos : Nat := 0
  wrote : Nat := 0
  /-- what it counts for `MXOVF` -/
  cnt : Nat := 0
  st : XState := .active
  /-- first pulse on which it may be performed at once -/
  at_ : Nat := 0
  /-- an earlier item ended without completing: an `XSIG` adds nothing (08 R234) -/
  dead : Bool := false
  /-- token of the report of a skipped member (08 R230) -/
  skip : Option Nat := none
  /-- it issued at system level -/
  sys : Bool := false
  /-- pulse on which its word issued -/
  iss : Nat := 0
deriving DecidableEq, Repr

/-- The format of a feed, settled by the pending manifest (08 R216, R444). -/
structure FeedFmt where
  code : BitVec 4
  sparse : Bool
  qside : Word
deriving DecidableEq, Repr

/-- A feed (08 R216). `d` is the latched descriptor, its CUR at the next entry; entry `n` after pulse `start` comes `n`
intervals later. -/
structure Feed where
  id : Nat
  fifoB : Bool
  xd : BitVec 4
  d : Desc
  left : Nat
  fmt : Option FeedFmt
  start : Nat
  n : Nat
  st : XState := .active
  /-- it issued at system level -/
  sys : Bool := false
  /-- the next entry, as far as it has been read -/
  part : Part := {}
deriving DecidableEq, Repr

inductive MatKind where
  | mma | mmasp | mmv
deriving DecidableEq, Repr

/-- What an M command that traps late puts back. -/
structure MUndo where
  lmf : Option (BitVec 128)
  moff : BitVec 24
  loop : Option LoopRec
  mlc : Nat
deriving DecidableEq, Repr

/-- A matrix computation that has issued and not committed (08 R218-R221). -/
structure MatRun where
  kind : MatKind
  pc : BitVec 32
  /-- the manifest entry it resolved -/
  man : BitVec 128
  bank : Nat
  k : Nat
  rows : Nat
  cols : Nat
  /-- pulse on which its engine cycle `base` begins -/
  at_ : Nat
  base : Nat := 0
  /-- the next step -/
  step : Nat
  /-- entries popped, in order -/
  a : List FifoEntry
  b : List FifoEntry
  timed : Bool
  /-- `CYC` - `CYCORG` of its issue -/
  cyc : Word
  /-- pulse of its completion, once every step is made -/
  done : Option Nat
  undo : MUndo
deriving DecidableEq, Repr

/-- What a bank command leaves on its completion cycle (08 R214, R222, 12 R307): the state of the banks, and the banks that
`MZERO` clears, a first and a count. -/
structure BankNext where
  at_ : Nat
  banks : Tab Bank
  zero : Option (Nat × Nat)
deriving DecidableEq, Repr

/-- A cause of the M lane that is raised once the lanes run (08 R219, 03 R89). -/
structure MTrap where
  pc : BitVec 32
  cause : Cause
  tval : Word
  undo : Option MUndo
deriving DecidableEq, Repr

/-- Macro store entry (05 R138). -/
structure MacroEntry where
  valid : Bool := false
  last : Bool := false
  selb : BitVec 2 := 0
  sela : BitVec 2 := 0
  seld : BitVec 2 := 0
  word : Code := 0
deriving DecidableEq, Repr

/-- Ring (06 R162, 15 R359). `open_` are claimed entries not committed, `taken` taken entries not done. -/
structure Ring where
  nseg : BitVec 5 := 0
  valid : Bool := false
  pend : BitVec 8 := 0
  pv : Bool := false
  org : BitVec 32 := 0
  head : BitVec 32 := 0
  take : BitVec 32 := 0
  tail : BitVec 32 := 0
  claim : BitVec 32 := 0
  slots : Tab (BitVec 8) := .fill 0
  committed : List (BitVec 32) := []
  done : List (BitVec 32) := []
  /-- cores whose `RINGCLAIM` waits, in the order of their arrival, and the pulse of the last grant (06 R163) -/
  claims : List Nat := []
  granted : Option Nat := none
  /-- a word waits on the full ring: the Yard Controller has been told (15 R360) -/
  asked : Bool := false
deriving DecidableEq, Repr

/-- Lamp state (06 R168). -/
structure Lamp where
  hold : Bool := false
  black : Bool := false
  init : Bool := false
  lb : Bool := false
  ls : BitVec 32 := 0
  sentRecv : BitVec 32 := 0
deriving DecidableEq, Repr

/-- How a core stands. -/
inductive CoreMode where
  /-- no task: after reset or after `HALT` -/
  | idle
  | running
  /-- stopped with a report to the Yard Controller (19 R403) -/
  | stopped
  /-- the save procedure runs (19 R410) -/
  | saving
  /-- a resumed task waits for its energy grant (19 R414) -/
  | granting
deriving DecidableEq, Repr

/-- What task entry gives the core beside its registers (15 R355-R356): the task entry, its region, and the OPB fields
that the reuse instructions use. -/
structure Task where
  die : Bool := false
  entry : Nat := 0
  first : Nat := 0
  shape : Nat := 3
  tag : BitVec 8 := 0
  wbase : Nat := 0
  rways : Nat := 0
  maxage : Nat := 0
  maxchain : Nat := 0
  thsrc : Bool := false
  theta : BitVec 32 := 0
  rin : Nat := 0
  rout : Nat := 0
  rdata : Word := 0
  eqPoints : List (BitVec 32) := []
  lamp : List CoreId := []
  /-- number of its Lamp (15 R361) -/
  lampOf : Nat := 0
  cookie : Word := 0
  step : Nat := 0
  /-- an uncorrectable error has struck its entry, which is free again (15 R370) -/
  lost : Bool := false
deriving DecidableEq, Repr

/-- A forwarded Lamp on its way to a participant (15 R361): which Lamp, its participants, LB and LS. -/
structure LampMsg where
  id : Nat
  to_ : List CoreId
  lb : Bool
  ls : BitVec 32
deriving DecidableEq, Repr

/-- The Lamp of a task that has halted (15 R361). -/
structure LampPast where
  id : Nat
  to_ : List CoreId
  lamp : Lamp
deriving DecidableEq, Repr

/-- The snapshot at the last equivalence point (19 R415). -/
structure EqSnap where
  j : Nat := 0xFF
  fpflags : BitVec 5 := 0
  mxnan : BitVec 32 := 0
  mxovf : BitVec 32 := 0
  mspbad : BitVec 32 := 0
deriving DecidableEq, Repr

/-- The matrix engine's gating state (21 R435). -/
inductive MatGate where
  | awake
  | gated
  | waking (pulse : Nat)
deriving DecidableEq, Repr

/-- A `FATOM` waiting at the home (13 R313 FAR). -/
structure FarReq where
  op : AtomOp
  wide : Bool
  d : SReg
  x : Word
  key : Nat
  va : Word
  /-- a line of memory; a device page and the place on it -/
  global : Bool
  dev : Option (RegBlock × Nat)
deriving DecidableEq, Repr

/-- A write through the core-control path to a core that runs a task: it takes effect at the next task entry (15 R358). -/
inductive PathWrite where
  | store (n : Nat) (e : MacroEntry)
  | ring (n : Nat) (cfg : Word) (slots : List Byte)
  | sysReg (n : Nat) (v : Word)
deriving DecidableEq, Repr

/-- One core. -/
structure Core where
  mode : CoreMode := .idle
  /-- the S lane runs the trap handler and the other lanes issue nothing (19 R403) -/
  inHandler : Bool := false
  task : Task := {}
  r : Regs := {}
  ctl : Ctl := {}
  lanes : Tab LaneSt := .fill {}
  v : Tab (BitVec 2048) := .fill 0
  /-- 8-byte words of vector registers struck by an uncorrectable error (19 R420) -/
  vUe : List (Nat × Nat) := []
  p : Tab (BitVec 256) := { dflt := 0, rows := [(0, BitVec.allOnes 256)] }
  q : Tab (List QEntry) := .fill []
  tiles : Tab Tile := .fill {}
  exps : Tab Expn := .fill {}
  gates : Tab Gate := .fill {}
  sigs : Tab Signal := .fill {}
  /-- additions on their way to the core's signals, oldest first (13 R313 SIG) -/
  pendSig : List SigAdd := []
  banks : Tab Bank := .fill {}
  bankNext : Option BankNext := none
  mf : Tab (BitVec 128) := .fill 0
  slots : Tab Owner := .fill .lanes
  vloop : List LoopRec := []
  lmf : Option (BitVec 128) := none
  /-- number of the entry that LMF was resolved from, where it is known -/
  lmfNo : Option (BitVec 4) := none
  moff : BitVec 24 := 0
  mloop : Option LoopRec := none
  mlc : Nat := 0
  fifoA : List FifoEntry := []
  fifoB : List FifoEntry := []
  /-- pulse until which the matrix engine is or was last busy, and up to which its busy cycles are charged -/
  mBusy : Nat := 0
  mPaid : Nat := 0
  mrun : Option MatRun := none
  mTraps : List MTrap := []
  /-- pc, loop record and MLC of the M lane before the words of a cycle -/
  mview : Option (BitVec 32 × Option LoopRec × Nat) := none
  matGate : MatGate := .awake
  xloop : Option LoopRec := none
  xfers : List Transfer := []
  feeds : List Feed := []
  /-- fault records of ended transfers and feeds not yet reported by `XWAIT` or `MWAIT` (08 R234) -/
  xfaults : List Nat := []
  /-- a transfer or feed of the task has ended without completing -/
  xLost : Bool := false
  rings : Tab Ring := .fill {}
  lamp : Lamp := {}
  /-- Lamps on their way to this core, and those of the tasks that have halted on it -/
  lampIn : List LampMsg := []
  lampPast : List LampPast := []
  macros : Tab MacroEntry := .fill {}
  /-- registers as they stood at the start of the cycle, while several words issue on it (02 R37) -/
  latch : Option Regs := none
  /-- a sync group has formed and its words have not issued (02 R36) -/
  released : Bool := false
  /-- descriptors that an `XDSET` of this cycle has written (06 R183) -/
  xdWrote : List Nat := []
  /-- the group of this cycle opens a timed region with this `CYC` (02 R38, 06 R167) -/
  opens : Option Word := none
  /-- traps raised on the cycle (19 R400) -/
  traps : List (Lane × Cause × Word) := []
  /-- ordering machine -/
  lq : Tab (List Acc) := .fill []
  l1 : Tab (Option L1Line) := .fill none
  fifo : List FifoItem := []
  /-- lines that have left the FIFO since the last marker of package scope -/
  drained : List Nat := []
  /-- release markers whose MARK has been made -/
  marked : List Nat := []
  /-- writes on the vertical path: key, bytes, the pulse by which it is performed (13 R313, R315) -/
  vpath : List (Nat × List Byte × Nat) := []
  hpath : Tab (List (Nat × List Byte)) := .fill []
  far : Option FarReq := none
  /-- granules registered in the current region: granule, read, write -/
  region : List (Nat × Bool × Bool) := []
  tlb : List TlbEntry := []
  /-- remote lines whose next access fails, and whose write-back failed (17 R380) -/
  remoteFail : List Nat := []
  wbFail : Option Nat := none
  pin : Option Nat := none
  preempt : Option Word := none
  debug : Bool := false
  /-- context address under which the save procedure runs -/
  saveAt : Word := 0
  /-- liveness record of the save: vectors, tiles, expansions, ranges -/
  live : BitVec 384 := 0
  eqj : EqSnap := {}
  /-- local context buffer: the last image, by context address (19 R410) -/
  buffer : Option (Word × List Byte) := none
  uedata : Nat := 0
  /-- charge of the current window in units of 1/12,800 nJ, and the overdraw flag (21 R432, R433) -/
  charge : Nat := 0
  overdraw : Bool := false
  /-- a trap that waits for the ramp of the S lane's `SETDIV` to end (19 R401) -/
  trapHeld : Option (Lane × Cause × Word) := none
  /-- a report waits for the engines to drain (19 R402) -/
  report : Option (Cause × Word) := none
  /-- virtual function of the last task entered (11 R275) -/
  lastVf : Option Nat := none
  late : List PathWrite := []
deriving DecidableEq, Repr

/-! ### Clusters -/

/-- A bound Turntable state (09 R236). -/
structure Binding where
  base : Nat
  v : Nat
  c : Nat
  g : Nat
  p : Nat
  ety : Nat
  pkg0 : Nat
deriving DecidableEq, Repr

/-- The queued Turntable commands (09 R240). -/
inductive TurnOp where
  | bind (b : Binding)
  | map (n : Nat)
  | gate (diag controlled : Bool) (m : TurnMode) (g : Gate)
  | swap
  | prob
  | norm (m : TurnMode)
  | wait
deriving DecidableEq, Repr

/-- What a member of another package sends of its command of a number (09 R243): its package index, the command's operands, and the
elements that its cluster of the same index holds, by the low 29 bits of their physical index. -/
structure TurnPeer where
  pkg : Nat
  nb : Nat
  op : TurnOp
  sa : Word
  sd : Word
  data : List (Nat × Nat)
deriving DecidableEq, Repr

structure TurnCmd where
  num : Nat
  /-- its number within its binding (09 R243) -/
  nb : Nat
  /-- pulse of its entry, and the cycles that the manual does not bound (09 R249) -/
  at_ : Nat
  lat : Nat
  core : CoreId
  op : TurnOp
  sa : Word
  sd : Word
  /-- the binding under which the command will be performed (09 R242) -/
  under : Option Binding
deriving DecidableEq, Repr

/-- The Turntable of a cluster (09 R236-R248). -/
structure Turntable where
  bound : Option Binding := none
  /-- binding of the last queued `TBIND` -/
  queued : Option Binding := none
  failed : Option (Cause × Word) := none
  queue : List TurnCmd := []
  seq : Nat := 0
  /-- number of the next command within its binding (09 R243) -/
  inBinding : Nat := 0
  /-- performed and discarded commands of a binding of several clusters -/
  past : List TurnCmd := []
  /-- what the members of other packages have sent -/
  peers : List TurnPeer := []
  /-- pulse on which the last command completed -/
  free : Nat := 0
  /-- recorded causes that a core's next `TWAIT`, `TPROB` or `TNORM` raises -/
  blame : Tab (Option (Cause × Word)) := .fill none
  /-- results of `TPROB` and `TNORM`, by command number -/
  results : List (Nat × Word) := []
  map : Tab (BitVec 6) := { dflt := 0x3F, rows := (List.range 40).map fun i => (i, BitVec.ofNat 6 i) }
deriving DecidableEq, Repr

/-- Clock of a cluster (02 R41, R42, R66): divisors of the four engine classes in reference ticks; `pulses` control-path
pulses stood at tick `baseTick`, the `raw`-th pulse position of the swallowing pattern. -/
structure Clock where
  ctl : Nat := 4
  mat : Nat := 4
  vec : Nat := 4
  copy : Nat := 4
  pulses : Nat := 0
  baseTick : Nat := 0
  raw : Nat := 0
  /-- tick at which the running divisor ramp ends -/
  ramp : Option Nat := none
  /-- pulse at which it began -/
  rampAt : Nat := 0
  /-- pulses that `CYC` has not counted, of the ramps that have ended (02 R42) -/
  frozen : Nat := 0
  /-- divisor that the ramp puts into effect -/
  target : Option (Engine × Nat) := none
  /-- requests that arrived while the ramp was running, with their cores, oldest first -/
  held : List (Nat × Engine × Nat) := []
deriving DecidableEq, Repr

structure Cluster where
  l2 : Tab (Option L2Line) := .fill none
  conv : Nat := 0
  gated : List Nat := []
  clk : Clock := {}
  share : BitVec 16 := 122
  /-- waiting `ACQP` requests in arrival order (21 R429, R430) -/
  pend : List (Nat × Nat) := []
  turn : Turntable := {}
  tlb : List TlbEntry := []
deriving DecidableEq, Repr

/-! ### Dies -/

/-- A launch record (15 R343) as 32 bytes. -/
abbrev Launch := BitVec 256

/-- State word of an OPB (15 R353); `next` is the tile index the walker expands next. -/
structure OpbSt where
  dep : BitVec 16 := 0
  left : Nat := 0
  next : Nat := 0
  tiles : Nat := 0
  ready : Bool := false
  done : Bool := false
  dropped : Bool := false
  checked : Bool := false
deriving DecidableEq, Repr

/-- A running graph of a virtual function on a die (15 R342-R354). -/
structure Graph where
  vf : Nat
  hdr : Nat
  nopb : Nat
  rways : Nat
  wbase : Nat
  total : Nat
  opbs : Word
  steps : Word
  k0 : Nat
  nstep : Nat
  tag : BitVec 8
  dies : BitVec 2
  cookie : Word
  step : Nat
  /-- the step has begun -/
  inStep : Bool
  /-- earliest `PTIME` of the next step of a two-die launch (15 R349) -/
  notBefore : Nat
  lv : Tab (BitVec 32)
  opb : Tab OpbSt
  lost : Nat
  /-- the graph has faulted; its running tasks still complete -/
  failed : Bool
deriving DecidableEq, Repr

inductive TaskState where
  | free | expanded | bound | running
  /-- its task has completed, or been dropped: the entry becomes free on the same move (15 R353) -/
  | done | dropped
deriving DecidableEq, Repr

/-- A task entry (15 R353). -/
structure TaskEntry where
  st : TaskState := .free
  vf : Nat := 0
  opb : Nat := 0
  tile : Nat := 0
  idx : List Nat := []
  /-- context address of a pre-empted task (19 R410) -/
  ctx : Word := 0
  /-- a core of the region has saved its context -/
  saved : Bool := false
  /-- cause code with which a core of the region has ended the task -/
  fault : Option Nat := none
  /-- number of its Lamp from its first entry on a core, 0 before -/
  lamp : Nat := 0
deriving DecidableEq, Repr

/-- A reuse tag entry (15 R364). -/
structure TagEntry where
  valid : Bool := false
  tag : BitVec 44 := 0
  s0 : BitVec 32 := 0
  chain : BitVec 4 := 0
  stamp : Nat := 0
deriving DecidableEq, Repr

/-- An engine fault record (19 R406) with what RETRY and ABANDON need. -/
structure FaultRec where
  stamp : Nat
  src : Nat
  cause : Cause
  core : Nat
  ctx : Nat
  desc : Nat
  resolvable : Bool
  addr : Word
  offset : Nat
  token : Nat
deriving DecidableEq, Repr

/-- One die: its Timetable, tag store and Yard Controller memory. -/
structure Die where
  lq : Tab (List Launch) := .fill []
  graphs : Tab (Option Graph) := .fill none
  /-- graphs of two-die launches that wait for the end of this die's current graph (15 R344) -/
  joint : Tab (Option Graph) := .fill none
  tasks : Tab TaskEntry := .fill {}
  slots : Tab (List (BitVec 128)) := .fill []
  tags : Tab TagEntry := .fill {}
  stampCtr : Nat := 0
  counters : Tab Nat := .fill 0
  /-- the ring of 256 engine fault records, oldest first, and the records that it holds back -/
  records : List FaultRec := []
  heldRecords : List FaultRec := []
  nextToken : Nat := 0
  uedata : Nat := 0
deriving DecidableEq, Repr

/-! ### Virtual functions, the Signal Box and the package -/

/-- A virtual function: its event ring (15 R363), launch registers (21 R436) and translation root (11 R299). -/
structure Vf where
  evbase : Word := 0
  evsize : BitVec 5 := 0
  evtail : BitVec 32 := 0
  evhead : BitVec 32 := 0
  evcnt : BitVec 16 := 1
  evns : BitVec 32 := 0
  /-- a message may be sent; cleared by a message, set by a write of `EVHEAD` -/
  armed : Bool := true
  /-- `PTIME` at which each pending entry was written, oldest first -/
  since : List Nat := []
  msgs : Nat := 0
  /-- completion records not yet written to the ring -/
  held : List (BitVec 256) := []
  lqrec : BitVec 256 := 0
  refused : Bool := false
  /-- the root register as accesses use it, and what has been written to it since (11 R299) -/
  root : BitVec 40 := 0
  en : Bool := false
  rootNext : Option (BitVec 40 × Bool) := none
deriving DecidableEq, Repr

/-- A posted invalidation of [lo, hi] of a virtual function, with the root that takes effect behind it (11 R299, R304). -/
structure Inval where
  vf : Nat
  lo : Nat
  hi : Nat
  root : Option (BitVec 40 × Bool)
deriving DecidableEq, Repr

inductive BoxState where
  | idle | run | wait | parked | stopped | fault
deriving DecidableEq, Repr

/-- A burst in flight of a Signal Box context (10 R263, R265): source bytes to the members not yet served. -/
structure Burst where
  set : BitVec 1280
  bytes : List Byte
  members : List Nat
deriving DecidableEq, Repr

/-- A Signal Box context (10 R260-R268). -/
structure BoxCtx where
  pbase : Word := 0
  pc : BitVec 32 := 0
  st : BoxState := .idle
  fword : BitVec 32 := 0
  fvalid : Bool := false
  fcode : BitVec 7 := 0
  loops : List LoopRec := []
  mc : Tab (BitVec 1280) := .fill 0
  bursts : List Burst := []
  /-- experts whose `SFETCH` by this context has not ended -/
  fetches : List Nat := []
  /-- STOP has come while a word waits, or the context is parked: it stops behind that word (10 R261) -/
  stopping : Bool := false
deriving DecidableEq, Repr

/-- An expert entry (10 R270); STATE 0 ABSENT, 1 FETCHING, 2 RESIDENT, 3 PEER. -/
structure Expert where
  use : BitVec 48 := 0
  peer : BitVec 9 := 0
  st : BitVec 2 := 0
  len : BitVec 32 := 0
  wring : Word := 0
  capaddr : Word := 0
  base : Word := 0
  /-- the state before a fetch, its source package if any, and the context that started it -/
  prev : BitVec 2 := 0
  src : Option (BitVec 9) := none
  by_ : Nat := 0
deriving DecidableEq, Repr

/-- Health record of an HBM channel (11 R290). -/
structure Health where
  crc : BitVec 32 := 0
  replayFail : BitVec 32 := 0
  ce : BitVec 32 := 0
  ue : BitVec 32 := 0
  trained : Bool := false
  retrain : Bool := false
  removed : Bool := false
deriving DecidableEq, Repr

/-- Status of a Wingafy Link port (17 R377); STATE 0 DOWN, 1 TRAINING, 2 UP on four lanes, 3 UP on two. -/
structure Port where
  downs : BitVec 16 := 0
  replay : BitVec 32 := 0
  en : Bool := false
  st : BitVec 3 := 0
  /-- consecutive CRC failures of the flit being replayed -/
  fails : Nat := 0
deriving DecidableEq, Repr

/-- An arrival parked in a stack (17 R389); `told`: a fault record names its staging page. -/
structure Parked where
  vf : Nat
  src : Nat
  dst : Word
  bytes : List Byte
  told : Bool := false
deriving DecidableEq, Repr

/-- A posted collective slot at its result package (17 R387-R389): `flags` is the memory key of its entry's FLAGS, `cur` the arrival
that is being applied and the next of its chunks. -/
structure CollSlot where
  vf : Nat
  dst : Word
  flags : Nat
  peers : BitVec 512
  applied : List Nat
  len : Nat
  op : Nat
  bf16 : Bool
  dcore : BitVec 16
  dsig : Nat
  cur : Option (Parked × Nat) := none
deriving DecidableEq, Repr

/-- A contribution on its way to another package (17 R387). -/
structure CollSend where
  vf : Nat
  flags : Nat
  src : Word
  len : Nat
deriving DecidableEq, Repr

/-- The migration command in progress (11 R293). -/
structure Mig where
  rec_ : BitVec 256
  page : Nat := 0
  units : Nat := 0
  hbm : Nat := 0
  cap : Nat := 0
  status : Nat := 0
  ended : Bool := false
deriving DecidableEq, Repr

/-- What the last SPDM request returned (21 R442). -/
inductive SpdmReply where
  | none
  | versions (l : List Nat)
  | capabilities
  | algorithms (p521 sha512 : Bool)
  | digests (d : List Byte)
  | certificate (off : Nat) (bs : List Byte)
  | challenge (sig : List Byte)
  | measurement (index : Nat) (bs : List Byte)
  | error
deriving DecidableEq, Repr

/-- The package: fabric, power, clocks, management and security. -/
structure Package where
  /-- reference ticks since reset (00 R4) -/
  ticks : Nat := 0
  /-- boundaries of `PTIME` that have been served: microseconds for grants and draw windows, intervals of 10 µs for the throttle -/
  usGrant : Nat := 0
  usWindow : Nat := 0
  usThrottle : Nat := 0
  /-- `PTIME` stood at `ptBase` ns and `ptFrac` / (26 x 10^9) ns at tick `ptTick` (02 R43, 17 R382) -/
  ptBase : Nat := 0
  ptFrac : Nat := 0
  ptTick : Nat := 0
  ratePpb : Int := 0
  firstLock : Bool := false
  offs : BitVec 32 := 0
  hops : BitVec 5 := 0
  gm : Bool := false
  lock : Bool := false
  pkgid : BitVec 9 := 0
  ports : Tab Port := .fill {}
  routes : Tab (BitVec 24) := .fill 0
  masks : Tab (BitVec 512) := .fill 0
  enc : Tab Bool := .fill false
  /-- DOWNGRADE, AUTH_FAIL, PARK_HOLD, COLL_PEER, FAB_TIMEOUT, WB_FAIL, HALO_FAIL -/
  fab : Tab Nat := .fill 0
  midle : BitVec 16 := 16
  mode : BitVec 2 := 0
  budget : BitVec 16 := 17600
  throttleUs : Nat := 0
  k : Nat := 0
  health : Tab Health := .fill {}
  /-- bytes of the device on each expansion port (11 R292) -/
  capSize : Tab Nat := .fill 0
  shunter : List (BitVec 256) := []
  /-- record being written to the migration engine's ring -/
  shStage : BitVec 256 := 0
  mig : Option Mig := none
  invals : List Inval := []
  /-- single-bit errors corrected outside HBM (11 R278; log 60) -/
  corrected : Nat := 0
  collSlots : List CollSlot := []
  collSends : List CollSend := []
  parked : List Parked := []
  /-- the configuration image in effect, and the one that the next package reset verifies (21 R441, R443) -/
  img : Option ConfigImage := none
  flash : Option ConfigImage := none
  /-- anti-rollback counter of the configuration image (21 R440) -/
  minVersion : Nat := 0
  frozen : Bool := false
  spdm : SpdmReply := .none
  spdmVersion : Bool := false
  spdmCaps : Bool := false
  spdmAlgs : Bool := false
deriving DecidableEq, Repr

/-! ### What moves next -/

/-- What comes from outside the package, or from its host, without a row in the opcode table. -/
inductive Input where
  /-- the Yard Controller has taken the `n` oldest engine fault records from the ring of a die (19 R406) -/
  | recordsRead (die1 : Bool) (n : Nat)
  /-- a member of another package has reached its Turntable command (09 R243) -/
  | turnPeer (cl : Nat) (p : TurnPeer)
  /-- a write from another package reaches a line of this package's HBM: a granule of its Crossover, a line it writes back (17 R392) -/
  | farWrite (pa : Nat) (bs : List Byte)
  /-- a Crossover transfer from another package has completed: its signal at a core, its bytes (17 R392) -/
  | farHalo (c : CoreId) (sg n : Nat)
  /-- the answer to a core's remote request fails authentication: of a line, or of the write-back of one (17 R380) -/
  | authFail (c : CoreId) (line : Nat) (writeBack : Bool)
  /-- an arriving flow fails authentication (17 R390) -/
  | badFlow
  /-- a remote access of an item of a core's X engine gets no answer (17 R380) -/
  | engineTimeout (c : CoreId) (id : Nat)
  /-- a memory device of so many bytes is attached to an expansion port, or, with 0, none is (11 R292) -/
  | capDevice (port bytes : Nat)
  /-- a read has met a single wrong bit in an 8-byte word, and corrected it (11 R278, R289) -/
  | corrected (key : Nat)
deriving DecidableEq, Repr

/-- One turn of the agenda. -/
inductive Turn where
  /-- the core's lanes due on the next cycle issue -/
  | core (c : CoreId)
  /-- a Signal Box context starts its next word -/
  | box (n : Nat)
  /-- an event of the machine, its engines or its host -/
  | event (i : Instr) (arg : EventArg)
  /-- an input from outside -/
  | input (x : Input)
  /-- the reference clock advances -/
  | tick (n : Nat)
  /-- from here on, moves of the ordering machine and of the engines are made at once (`true`) or by agenda events -/
  | eager (b : Bool)
  /-- the latencies of the next unbounded accesses, in pulses -/
  | latencies (ls : List Nat)
deriving DecidableEq, Repr

/-- The package's memories as one list of (key, byte), keys strictly rising, no byte 0 listed: an unlisted key reads 0.
Keys: `Ops.lean`. -/
abbrev Memory := List Host.Cell

/-- The state of the package. -/
structure State where
  cores : Tab Core
  clusters : Tab Cluster
  dies : Tab Die
  vfs : Tab Vf
  boxes : Tab BoxCtx
  experts : Tab Expert
  pkg : Package
  mem : Memory
  /-- keys of uncorrectable 8-byte words (11 R278) -/
  ue : List Nat
  /-- keys of words whose flits fail for the reads of this turn, and of the next (11 R289) -/
  ueOnce : List Nat
  ueNext : List Nat
  /-- version of each granule of a line's home (13 R310), and the L1 that holds a line EX -/
  homeVer : Tab Nat
  owner : Tab (Option Nat)
  /-- source of fresh versions, identifiers and markers -/
  fresh : Nat
  regs : List Registration
  /-- the core, or Signal Box context, whose word a step runs -/
  focus : CoreId
  boxFocus : Nat
  agenda : List Turn
  /-- operands of the event that a step runs -/
  arg : EventArg
  eager : Bool
  openLats : List Nat
deriving DecidableEq, Repr

/-- Why a word does not simply complete. -/
inductive Halt where
  /-- a precise trap: no effect of the word stands (01 R34) -/
  | trap (c : Cause) (tval : Word)
  /-- a precise trap that leaves the changes of a state: an uncorrectable word is counted all the same (19 R419) -/
  | trapIn (c : Cause) (tval : Word) (s : State)
  /-- the word cannot issue yet (02 R36, 05 R126) -/
  | hold
  /-- the word cannot issue yet, and what it has started stands -/
  | holdIn (s : State)
  /-- the word has issued and has not completed (02 R37) -/
  | wait (s : State)
  /-- FABRIC_ERR: the request for this remote line has had no answer; the next access asks anew (17 R380) -/
  | unreached (line : Nat) (a : Word)
deriving DecidableEq, Repr

/-- The package right after a package reset, before a configuration image is applied (21 R441, R443). -/
def State.reset : State where
  cores := .fill {}
  clusters := .fill {}
  dies := .fill {}
  vfs := .fill {}
  boxes := .fill {}
  experts := .fill {}
  pkg := {}
  mem := []
  ue := []
  ueOnce := []
  ueNext := []
  homeVer := .fill 0
  owner := .fill none
  fresh := 0
  regs := []
  focus := 0
  boxFocus := 0
  agenda := []
  arg := {}
  eager := true
  openLats := []

end Sys2Proof.Machine
end

