-- ==== Sys2Proof/Machine/Ops.lean ====
section
/-! DEFINITION. The named operations over the state: memory, cores, time, registers, signals, fault records; how a word
issues, completes, waits or traps; taking a trap and returning from one. -/

namespace Sys2Proof.Machine

open Sys2Proof

/-- What a word does to the state, or why it does not complete. -/
abbrev Eff := State → Except Halt State

/-- Outcome of a step of this machine. -/
abbrev Out := Host.Outcome State Fault Refusal

/-! ### Memory

Keys: local HBM and every other physical address stands under itself (11 R286); then the capacity tier, and the pools,
vaults and accumulator memories of the cores, and the host's memory, beyond the physical addresses. -/

def hbmSize : Nat := 0x6000000000
def keyCap (o : Nat) : Nat := 2 ^ 52 + o
def keyPool (c : CoreId) (o : Nat) : Nat := 2 ^ 53 + c.toNat * 2 ^ 20 + o
def keyVault (c : CoreId) (o : Nat) : Nat := 2 ^ 54 + c.toNat * 2 ^ 22 + o
/-- Byte `o` of bank `b` (02 R55). -/
def keyAcc (c : CoreId) (b o : Nat) : Nat := 2 ^ 55 + c.toNat * 2 ^ 19 + b * 12288 + o
def keyHost (a : Nat) : Nat := 2 ^ 65 + a

/-- What an unlisted byte reads as: the SRAMs are zeroed at bring-up (21 R443); HBM and capacity tier by choice (log 3). -/
def unlisted : Byte := 0

/-- The byte at a key. -/
def memGet : Memory → Nat → Byte
  | [], _ => unlisted
  | (k, b) :: t, a => if k = a then b else memGet t a

/-- Bytes `a`, `a + 1`, ... of a list of cells. -/
def cellsRead (m : Memory) (a : Nat) : Nat → List Byte
  | 0 => []
  | n + 1 => memGet m a :: cellsRead m (a + 1) n

/-- Bytes `a`, `a + 1`, ... -/
def memRead (m : Memory) (a n : Nat) : List Byte :=
  cellsRead (m.filter fun c => decide (a ≤ c.1) && decide (c.1 < a + n)) a n

/-- The cells that list bytes from `a` upward. -/
def cellsOf (a : Nat) : List Byte → Memory
  | [] => []
  | b :: t => if b = unlisted then cellsOf (a + 1) t else (a, b) :: cellsOf (a + 1) t

/-- Writes bytes from `a` upward, in the canonical form: keys strictly rising, no byte that an unlisted key reads as. -/
def memWrite (m : Memory) (a : Nat) (bs : List Byte) : Memory :=
  (m.filter fun c => decide (c.1 < a)) ++ cellsOf a bs ++ m.filter fun c => decide (a + bs.length ≤ c.1)

/-- Bytes in [a, a + n) become 0. -/
def memClear (m : Memory) (a n : Nat) : Memory := m.filter fun c => decide (c.1 < a ∨ a + n ≤ c.1)

/-- Every key of the list is above `lo`, rising strictly, and no byte is the unlisted one. -/
def memOk : Option Nat → Memory → Bool
  | _, [] => true
  | lo, (k, b) :: t => (match lo with | none => true | some l => decide (l < k)) && b != unlisted && memOk (some k) t

/-- The canonical form of a memory. -/
def Memory.wf (m : Memory) : Bool := memOk none m

/-- Bytes of a memory become 0, and correctable. -/
def State.zero (s : State) (key n : Nat) : State :=
  { s with mem := memClear s.mem key n, ue := s.ue.filter fun k => !(decide (key ≤ k) && decide (k < key + n)) }

/-- `n` bytes from a key. -/
def State.bytes (s : State) (a n : Nat) : List Byte := memRead s.mem a n

/-- Writes bytes; a whole 8-byte word written anew is correctable again (11 R278). -/
def State.poke (s : State) (a : Nat) (bs : List Byte) : State :=
  { s with mem := memWrite s.mem a bs,
           ue := if s.ue.isEmpty then [] else s.ue.filter fun k => !(decide (a ≤ k) && decide (k + 8 ≤ a + bs.length)) }

/-- The little-endian value of `n` bytes. -/
def State.peekN (s : State) (a n : Nat) : Nat := leBytes (s.bytes a n)

/-- The uncorrectable 8-byte words that `n` bytes from a key touch (11 R278, R289). -/
def State.ueIn (s : State) (a n : Nat) : List Nat :=
  (if s.ueOnce.isEmpty then s.ue else s.ue ++ s.ueOnce.filter fun k => !s.ue.contains k).filter fun k => decide (k < a + n) && decide (a < k + 8)

/-! ### Cores and clusters -/

/-- `valid_core` (02 R68). -/
def coreOk (c : CoreId) : Bool := decide ((bits c 3 5).toNat < 18)
/-- Package cluster index (09 R236). -/
def clusterOf (c : CoreId) : Nat := (bits c 10 1).toNat * 72 + (bits c 8 2).toNat * 18 + (bits c 3 5).toNat
/-- Die of a core. -/
def dieOf (c : CoreId) : Nat := (bits c 10 1).toNat
/-- Position in the cluster. -/
def posOf (c : CoreId) : Nat := (bits c 0 3).toNat
/-- Dense core index (02 R59). -/
def denseOf (c : CoreId) : Nat := dieOf c * 576 + (bits c 8 2).toNat * 144 + (bits c 3 5).toNat * 8 + posOf c
/-- The core with a dense index. -/
def coreOfDense (n : Nat) : CoreId :=
  BitVec.ofNat 11 (n / 576 * 1024 + n % 576 / 144 * 256 + n % 144 / 8 * 8 + n % 8)
/-- Core `k` of the cluster of `c`. -/
def peerOf (c : CoreId) (k : Nat) : CoreId := BitVec.ofNat 11 (c.toNat / 8 * 8 + k % 8)

def State.core (s : State) (c : CoreId) : Core := s.cores.get c.toNat
def State.setCore (s : State) (c : CoreId) (x : Core) : State := { s with cores := s.cores.set c.toNat x }
def State.updCore (s : State) (c : CoreId) (f : Core → Core) : State := s.setCore c (f (s.core c))
/-- The core whose word or event runs. -/
def State.me (s : State) : Core := s.core s.focus
def State.updMe (s : State) (f : Core → Core) : State := s.updCore s.focus f
def State.updCtl (s : State) (f : Ctl → Ctl) : State := s.updMe fun c => { c with ctl := f c.ctl }
def State.updR (s : State) (f : Regs → Regs) : State := s.updMe fun c => { c with r := f c.r }
def State.cluster (s : State) (n : Nat) : Cluster := s.clusters.get n
def State.updCluster (s : State) (n : Nat) (f : Cluster → Cluster) : State := { s with clusters := s.clusters.upd n f }
/-- The cluster of the core in focus. -/
def State.myCluster (s : State) : Cluster := s.cluster (clusterOf s.focus)
def State.updMyCluster (s : State) (f : Cluster → Cluster) : State := s.updCluster (clusterOf s.focus) f
def State.die (s : State) (d : Nat) : Die := s.dies.get d
def State.updDie (s : State) (d : Nat) (f : Die → Die) : State := { s with dies := s.dies.upd d f }
def State.updPkg (s : State) (f : Package → Package) : State := { s with pkg := f s.pkg }
/-- A fresh number. -/
def State.take (s : State) : Nat × State := (s.fresh, { s with fresh := s.fresh + 1 })

def Core.task0 (c : Core) : Bool := !c.ctl.pl

/-! ### Time (00 R4, 02 R41-R43) -/

/-- Pulses that are not swallowed among the first `x` positions of the pattern: `k` of every 8 are swallowed (21 R434). -/
def unswallowed (k x : Nat) : Nat := x / 8 * (8 - k) + (x % 8 - k)

/-- Position of the swallowing pattern reached at tick `t`. -/
def Clock.rawAt (c : Clock) (t : Nat) : Nat := c.raw + (t - c.baseTick) / c.ctl

/-- Control-path pulses of a cluster at tick `t`. -/
def Clock.pulsesAt (c : Clock) (k t : Nat) : Nat := c.pulses + (unswallowed k (c.rawAt t) - unswallowed k c.raw)

/-- First tick on which the cluster has made `p` pulses. -/
def Clock.tickOf (c : Clock) (k t p : Nat) : Nat :=
  if p ≤ c.pulsesAt k t then t else
    let n := unswallowed k c.raw + (p - c.pulses)
    let per := 8 - k
    c.baseTick + ((n - 1) / per * 8 + k + (n - 1) % per + 1 - c.raw) * c.ctl

/-- The pulse that `CYC` stands at when `p` pulses have passed: it is frozen while a divisor ramps (02 R42). -/
def Clock.thawed (c : Clock) (p : Nat) : Nat := if c.ramp.isSome then c.rampAt else p

/-- The clock counted anew from tick `t`. -/
def Clock.rebase (c : Clock) (k t : Nat) : Clock :=
  { c with pulses := c.pulsesAt k t, raw := c.rawAt t, baseTick := c.baseTick + (t - c.baseTick) / c.ctl * c.ctl }

/-- Pulses of a cluster now. -/
def State.pulses (s : State) (cl : Nat) : Nat := (s.cluster cl).clk.pulsesAt s.pkg.k s.pkg.ticks
/-- Pulses of the cluster of the core in focus. -/
def State.now (s : State) : Nat := s.pulses (clusterOf s.focus)
/-- A divisor of the focused core's cluster ramps: `CYC` is frozen and no timed word issues (02 R42). -/
def State.ramping (s : State) : Bool := s.myCluster.clk.ramp.isSome
/-- Pulses that `CYC` has counted (02 R41, R42). -/
def State.counted (s : State) : Nat := s.myCluster.clk.thawed s.now - s.myCluster.clk.frozen
/-- `CYC` (02 R41). -/
def State.cyc (s : State) : Word := BitVec.ofNat 64 s.counted + s.me.ctl.cycOff
/-- The pulse that the spacing of the next word counts from: in a timed region the one at which `CYC` stands (02 R39, R42). -/
def State.spacedFrom (s : State) : Nat := if s.me.ctl.timed then s.myCluster.clk.thawed s.now else s.now
/-- Cycles since the region opened (19 R398, SCHED_MISS). -/
def State.cycIn (s : State) : Word := s.cyc - s.me.ctl.cycorg
/-- `PTIME` in nanoseconds: a tick of 5/26 ns, times the discipline's rate (02 R43, 17 R382). -/
def State.ptime (s : State) : Nat :=
  s.pkg.ptBase + ((s.pkg.ticks - s.pkg.ptTick) * 5 * (1000000000 + s.pkg.ratePpb).toNat + s.pkg.ptFrac) / 26000000000
/-- The pulse by which `n` cycles of an engine with divisor `div` have passed, counted from its first own cycle at or after pulse `p`
(02 R41). An engine's own cycles count from pulse 0 of its cluster (log 43). -/
def Clock.engPulse (k : Clock) (div p n : Nat) : Nat :=
  (((p * k.ctl + div - 1) / div + n) * div + k.ctl - 1) / k.ctl
/-- Control-path pulses from now until `n` cycles of an engine have passed. -/
def State.engCycles (s : State) (div : Clock → Nat) (n : Nat) : Nat :=
  let k := s.myCluster.clk
  k.engPulse (div k) s.now n - s.now
/-- The pulse by which `n` matrix cycles have passed from pulse `p` on. -/
def State.matPulse (s : State) (p n : Nat) : Nat := let k := s.myCluster.clk; k.engPulse k.mat p n
/-- The latency of an access that the manual does not bound: the next of the state's list (05 R125, log 4). -/
def State.openLat (s : State) : Nat × State :=
  match s.openLats with
  | [] => (1, s)
  | n :: t => (n, { s with openLats := t })

/-! ### Registers of the core in focus -/

/-- The registers as the words of this cycle read them (02 R37). -/
def Core.src (c : Core) : Regs := match c.latch with | some r => r | none => c.r

/-- Keys of `Regs.ready`. -/
def kS (n : SReg) : Nat := n.toNat
def kV (phys : Nat) : Nat := 64 + phys
def kP (phys : Nat) : Nat := 128 + phys
def kT (t : TReg) : Nat := 160 + t.toNat
def kE (e : EReg) : Nat := 176 + e.toNat
def kG (g : GReg) : Nat := 200 + g.toNat
def kDiv : Nat := 300
/-- The tile unit, the expansion unit. -/
def kTile : Nat := 301
def kExp : Nat := 302
/-- `VSHAPE`, as `VSETSHAPE` makes it (07 R210). -/
def kShape : Nat := 303
/-- A scalar that a V word has written, as the S lane sees it (07 R204). -/
def kSv (n : Nat) : Nat := 400 + n
/-- When the results of key `k` that have come are readable, while loads into the same register stand in a queue. -/
def kLate (k : Nat) : Nat := 700 + k

/-- Marks a result readable `lat` pulses from now. -/
def State.setReady (s : State) (k lat : Nat) : State := s.updR fun r => { r with ready := r.ready.set k (some (s.now + lat)) }

/-- The pulse of a key, 0 where its access has not been performed. -/
def Regs.readyAt (r : Regs) (k : Nat) : Nat := (r.ready.get k).getD 0

/-- A result of key `k`, readable at pulse `p`, joins others: of loads that still stand in a queue (`pending`), or of what an earlier
word wrote and this one leaves (`part`). -/
def Regs.join (r : Regs) (k p : Nat) (pending part : Bool) : Regs :=
  if pending then { r with ready := (r.ready.set k none).set (kLate k) (some (max p (r.readyAt (kLate k)))) }
  else { r with ready := r.ready.set k (some (if part then max p (r.readyAt k) else p)) }

/-- Scalar write, readable after `lat` cycles; a write to `s0` is discarded (02 R45, 05 R125). -/
def State.wrS (s : State) (n : SReg) (v : Word) (lat : Nat) : State :=
  if n = 0 then s else s.updR fun r => { r with s := r.s.set n.toNat v, ready := r.ready.set (kS n) (some (s.now + lat)) }

/-- The result of key `k` can be read now. -/
def State.isReady (s : State) (k : Nat) : Bool :=
  match s.me.src.ready.get k with
  | some p => decide (p ≤ s.now)
  | none => false

def State.timed (s : State) : Bool := s.me.ctl.timed

/-- A word lacks something it needs to issue: SCHED_MISS in a timed region, else the lane waits (02 R39, 05 R126). -/
def State.notReady (s : State) : Halt := if s.timed then .trap .schedMiss s.cycIn else .hold

/-- Every one of the results can be read, or the word cannot issue. -/
def needKeys (ks : List Nat) (s : State) : Except Halt Unit :=
  if ks.all fun k => s.isReady k then .ok () else .error s.notReady

/-- `cond` holds, or the word cannot issue. -/
def needThat (cond : Bool) (s : State) : Except Halt Unit := if cond then .ok () else .error s.notReady

/-- Raises a cause unless `cond` holds. -/
def check (cond : Bool) (c : Cause) (tval : Word) : Except Halt Unit := if cond then .ok () else .error (.trap c tval)

/-! ### Lanes -/

def laneIdx : Lane → Nat
  | .s => 0 | .v => 1 | .m => 2 | .x => 3
def lanesAll : List Lane := [.s, .v, .m, .x]
/-- Words of an instruction of the lane (02 R35). -/
def laneStep : Lane → BitVec 32
  | .m => 2 | _ => 1

def Core.lane (c : Core) (l : Lane) : LaneSt := c.lanes.get (laneIdx l)
def Core.updLane (c : Core) (l : Lane) (f : LaneSt → LaneSt) : Core := { c with lanes := c.lanes.upd (laneIdx l) f }
def State.lane (s : State) (l : Lane) : LaneSt := s.me.lane l
def State.updLane (s : State) (l : Lane) (f : LaneSt → LaneSt) : State := s.updMe fun c => c.updLane l f
/-- Section length of a lane in words (02 R61). -/
def Core.clen (c : Core) (l : Lane) : Nat := (c.ctl.clen.get (laneIdx l)).toNat
/-- Scalar read by a word of the S lane (02 R45): a word that waits reads as it did when it issued (02 R37). -/
def State.rdS (s : State) (n : SReg) : Word :=
  if n = 0 then 0 else match (s.lane .s).kept with | some t => t.get n.toNat | none => s.me.src.s.get n.toNat
/-- Scalar read by a word of another lane. -/
def State.rdSv (s : State) (n : SReg) : Word := if n = 0 then 0 else s.me.src.s.get n.toNat
/-- The progress of the word that the lane is in. -/
def State.prog (s : State) (l : Lane) : Prog := (s.lane l).prog
def State.setProg (s : State) (l : Lane) (p : Prog) : State := s.updLane l fun x => { x with prog := p }

/-- The word takes `n` cycles to complete. -/
def State.delay (s : State) (l : Lane) (n : Nat) : State := s.updLane l fun x => { x with extra := n }

/-- The word of the lane completes, after the cycles it has set: the pc moves, the next word may issue IDLE + 1 cycles
later (02 R39), and the lane parks behind its last word (01 R24). -/
def State.retire (s : State) (l : Lane) : State :=
  let at_ := s.spacedFrom
  s.updMe fun c => c.updLane l fun x =>
    let pc := match x.npc with | some t => t | none => x.pc + laneStep l
    { x with pc := pc, npc := none, due := at_ + x.extra + x.frame.idle.toNat + 1, extra := 0, waiting := false, stalled := false,
             prog := .none, kept := none, parked := decide (c.clen l ≤ pc.toNat) }

/-- The word cannot issue on this cycle; the lane looks again on the next. -/
def State.holdLane (s : State) (l : Lane) : State :=
  let at_ := s.now
  s.updLane l fun x => { x with stalled := true, due := at_ + 1 }

/-- The word has issued and waits, with the scalars that it read; a lane parks when its last word issues, also when that word
blocks, unless it transfers control (01 R24). -/
def State.waitLane (s : State) (l : Lane) : State :=
  let at_ := s.now
  s.updMe fun c => c.updLane l fun x =>
    { x with waiting := true, stalled := false, due := at_ + 1, kept := if x.waiting then x.kept else some c.src.s,
             parked := x.prog != .returning && decide (c.clen l ≤ (x.pc + laneStep l).toNat) }

/-- A transfer of control to word `t` of the lane's section (05 R128). -/
def jumpTo (l : Lane) (t : BitVec 32) : Eff := fun s =>
  if t.toNat < s.me.clen l then .ok (s.updLane l fun x => { x with npc := some t })
  else .error (.trap .illegalOp (zextW t))

/-! ### Lane queues (13 R313-R317, R321, 11 R281, R282, R284) -/

/-- The accesses of a `VFENCE` or of a word with an acquire role that waits hold back every access issued after this pulse (13 R317,
R321). -/
def Core.barrier (c : Core) : Option Nat :=
  if (c.lane .s).waiting then match (c.lane .s).prog with
    | .vfence p | .acquiring p | .marker _ (some p) | .older _ (some p) | .owning _ (some p) => some p
    | _ => none
  else none

/-- A `VFENCE` that waits: transfers and additions issued after this pulse are not performed (06 R154). -/
def Core.vfencing (c : Core) : Option Nat :=
  if (c.lane .s).waiting then match (c.lane .s).prog with
    | .vfence p => some p
    | _ => none
  else none

/-- What issued on pulse `p` is not held back by the pulse of a barrier. -/
def passes (barrier : Option Nat) (p : Nat) : Bool := match barrier with | some b => decide (p ≤ b) | none => true

/-- The path whose accesses by all lanes of the core are performed in issue order: the vertical path, the path to a vault, and the
cluster scratchpad at the L2 (11 R281, R284). -/
def Acc.path (a : Acc) : Option Nat :=
  match a.place with
  | .vert => some 0
  | .horz t => some (t.toNat + 2)
  | .uncached => if 2 ^ 51 ≤ a.key then some 1 else none
  | _ => none

/-- The access is performed in the program order of its lane (11 R282). -/
def Acc.inOrder (a : Acc) : Bool := match a.place with | .uncached | .device _ _ => true | _ => false

/-- Two accesses share bytes. -/
def Acc.meets (a b : Acc) : Bool := decide (b.key < a.key + a.n) && decide (a.key < b.key + b.n)

/-- Access `a`, at place `i` of the queue of lane `l`, may leave it (13 R314): reads and writes leave in program order each, a write
never passes an older read of its bytes, and no older access of a path, or of one lane to uncached memory, is passed. -/
def Core.mayLeave (c : Core) (l : Lane) (i : Nat) (a : Acc) : Bool :=
  let onPath (b : Acc) : Bool := a.path.isSome && a.path == b.path
  passes c.barrier a.at_
  && ((c.lq.get (laneIdx l)).take i).all (fun b => b.isWrite != a.isWrite && !(a.isWrite && a.meets b) && !(a.inOrder && b.inOrder) && !onPath b)
  && lanesAll.all fun k => k == l || (c.lq.get (laneIdx k)).all fun b => !(onPath b && decide (b.at_ < a.at_))

/-- The pulse by which an access is performed: the figure of 05 R125 for a load of its window and the bound of 11 R305, for the own
scratchpad and vault (13 R315), for a load from a peer, and for a load that hits in the L1. -/
def Acc.limit (a : Acc) : Option Nat :=
  match a.place with
  | .scratch => some (a.at_ + 3 + 1)
  | .vert => some (a.at_ + 8 + 24)
  | .peer _ => if a.isWrite then none else some (a.at_ + 9 + 7)
  | .cached => if a.isWrite then none else a.fig.map fun n => a.at_ + n
  | _ => none

/-! ### Taking a trap (19 R399-R403) and returning from one -/

/-- Cause codes (19 R398). -/
def Cause.code : Cause → Nat
  | .illegalOp => 0x01 | .illegalFn => 0x02 | .reservedField => 0x03 | .privilege => 0x04 | .tileUncfg => 0x05
  | .shapeIllegal => 0x06 | .tileRange => 0x07 | .vloopDepth => 0x08 | .codeUe => 0x09 | .aperture => 0x10
  | .misalign => 0x11 | .permission => 0x12 | .ownerViolation => 0x13 | .mmRace => 0x14 | .spillLimit => 0x15
  | .descEnd => 0x16 | .descShape => 0x17 | .descMode => 0x18 | .xlate n => 0x19 + n % 7
  | .schedMiss => 0x20 | .fifoUnderflow => 0x21 | .accUnalloc => 0x22 | .accBand => 0x23 | .accRange => 0x24
  | .accRealloc => 0x25 | .manifest => 0x26 | .sparseMeta => 0x27 | .feedFormat => 0x28 | .xferFault => 0x29
  | .zcOverrun => 0x2A | .zcShort => 0x2B | .fpExc => 0x2C | .mxFp => 0x2D
  | .ringUncfg => 0x30 | .ringOrder => 0x31 | .tickLate => 0x32 | .collTable => 0x33 | .sigMode => 0x34
  | .sboxLoop => 0x35 | .depStall => 0x36 | .depUnder => 0x37 | .badgraph => 0x38 | .fuseRange => 0x39 | .bindBad => 0x3A
  | .powerOverdraw => 0x40 | .divIllegal => 0x41 | .preempt => 0x42 | .trapSw => 0x43 | .l2convRange => 0x44
  | .debug => 0x45 | .phintRec => 0x46 | .ctxBad => 0x47 | .migAbsent => 0x48 | .migCorrupt => 0x49 | .migMemerr => 0x4A
  | .fabricErr => 0x50 | .collEntry => 0x51 | .turnBind => 0x52 | .turnMode => 0x53 | .turnBits => 0x54
  | .turnMap => 0x55 | .turnMismatch => 0x56 | .turnGate => 0x57 | .turnBusy => 0x58 | .expKind => 0x59
  | .expCentre => 0x5A | .poison => 0x5B

/-- Where the lane goes on after the trap: its oldest word that has not completed, but the word after a `SETDIV` whose
ramp has begun (19 R399, R401). -/
def LaneSt.epc (x : LaneSt) (l : Lane) : Word :=
  match x.prog with
  | .setdiv true | .ramped => zextW (x.pc + laneStep l)
  | _ => zextW x.pc

/-- The ramp of the lane's `SETDIV` runs: the word completes before a trap is reported (19 R401). -/
def LaneSt.ramps (x : LaneSt) : Bool := x.waiting && x.prog == .setdiv true

/-- The units that an `ACQP` which has not completed has been granted. -/
def LaneSt.units (x : LaneSt) : Nat := match x.prog with | .granted n => n | _ => 0

/-- The lane is stopped: an unfinished blocking word is abandoned (19 R401). -/
def LaneSt.stop (x : LaneSt) : LaneSt := { x with prog := .none, npc := none, extra := 0, waiting := false, stalled := false, kept := none }

/-- PREEMPT and DEBUG never go to `TVEC` (19 R405). -/
def Cause.toYard : Cause → Bool
  | .preempt | .debug => true | _ => false

/-- A trap of lane `l` of the core is taken: the four EPCs, `CAUSE` and `TVAL` are written, the timed region closes, and
the core enters its handler when PL = 0 and `TVEC` is not 0, else it stops with a report (19 R399-R403); PREEMPT starts the
save procedure (R405, R410). -/
def Core.takeTrap (c : Core) (l : Lane) (cause : Cause) (tval : Word) (now : Nat) : Core :=
  let epc := lanesAll.foldl (fun t l => t.set (laneIdx l) ((c.lane l).epc l)) c.ctl.epc
  let c := { c with lanes := c.lanes.all LaneSt.stop, released := false, far := none, trapHeld := none,
                    ctl := { c.ctl with pwrdecl := c.ctl.pwrdecl - (c.lane .s).units, epc := epc, causeLane := BitVec.ofNat 2 (laneIdx l), causeCode := BitVec.ofNat 7 cause.code,
                                        tval := tval, timed := false } }
  if !c.ctl.pl && c.ctl.tvec != (0 : Word) && !cause.toYard then
    let c := { c with inHandler := true, ctl := { c.ctl with ppl := c.ctl.pl, pl := true } }
    c.updLane .s fun x => { x with pc := c.ctl.tvec.setWidth 32, due := now + 1, parked := decide (c.clen .s ≤ c.ctl.tvec.toNat % 2 ^ 32) }
  else if cause = .preempt then { c with mode := .saving, report := none }
  else { c with mode := .stopped, report := some (cause, tval) }

/-- The commands of a binding behind one that has left move up in its numbering (09 R243), up to the next `TBIND`; whether there is
none. -/
def lowerNumbers : List TurnCmd → List TurnCmd × Bool
  | [] => ([], true)
  | q :: t => match q.op with
    | .bind _ => (q :: t, false)
    | _ => let r := lowerNumbers t; ({ q with nb := q.nb - 1 } :: r.1, r.2)

/-- A queued command whose word is abandoned leaves the queue (19 R401). -/
def Turntable.withdraw (t : Turntable) (n : Nat) : Turntable :=
  match t.queue.find? fun q => q.num == n with
  | none => t
  | some c =>
    let before := t.queue.takeWhile fun q => q.num != n
    let after := (t.queue.dropWhile fun q => q.num != n).drop 1
    if c.op == .wait then { t with queue := before ++ after } else
      let r := lowerNumbers after
      { t with queue := before ++ r.1, inBinding := if r.2 then t.inBinding - 1 else t.inBinding }

/-- A core no longer waits for a ring entry. -/
def Core.dropClaims (x : Core) (c : Nat) : Core :=
  { x with rings := { x.rings with rows := x.rings.rows.map fun r => (r.1, { r.2 with claims := r.2.claims.filter (· != c) }) } }

/-- The waiting `RINGCLAIM` of a core is withdrawn (19 R401). -/
def State.dropClaims (s : State) (c : CoreId) : State :=
  { s with cores := { s.cores with rows := s.cores.rows.map fun r => (r.1, r.2.dropClaims c.toNat) } }

/-- Takes a trap; a request for energy units of an abandoned `ACQP` is withdrawn, the command of an abandoned `TPROB` or
`TNORM`, an abandoned `RINGCLAIM`, and the request of a `SETDIV` that is held behind a ramp (19 R401). Where a `SETDIV` whose ramp
has begun is to complete first, the trap waits. -/
def State.takeTrap (s : State) (l : Lane) (cause : Cause) (tval : Word) : State :=
  if (s.me.lane .s).ramps then s.updMe fun c => if c.trapHeld.isSome then c else { c with trapHeld := some (l, cause, tval) }
  else
  let now := s.now
  let me := s.focus.toNat
  let s := match (s.me.lane .s).prog with
    | .turn n => s.updMyCluster fun k => { k with turn := k.turn.withdraw n }
    | .acquiring _ => s.dropClaims s.focus
    | .setdiv _ => s.updMyCluster fun k => { k with clk := { k.clk with held := k.clk.held.filter fun h => h.1 != me } }
    | _ => s
  (s.updMe fun c => c.takeTrap l cause tval now).updMyCluster fun k => { k with pend := k.pend.filter fun p => p.1 != me }

/-- A word raises a cause: the trap is taken at once, or at the end of the cycle when other lanes issue on it (19 R400). -/
def State.raise (s : State) (l : Lane) (cause : Cause) (tval : Word) : State :=
  match s.me.latch with
  | none => s.takeTrap l cause tval
  | some _ => s.updMe fun c => { c with traps := c.traps ++ [(l, cause, tval)] }

/-- The lanes go on at their EPCs, elastic (06 R179, 19 R404). -/
def Core.resumeLanes (c : Core) (now : Nat) : Core :=
  lanesAll.foldl (fun c l => c.updLane l fun x =>
    let pc := (c.ctl.epc.get (laneIdx l)).setWidth 32
    { x with pc := pc, npc := none, due := now + 1, parked := decide (c.clen l ≤ pc.toNat), waiting := false,
             stalled := false, prog := .none, kept := none, lastStamp := none }) { c with mode := .running, report := none }

/-- Return from a trap: PL = PPL and every lane resumes at its EPC (06 R179). -/
def Core.returnFromTrap (c : Core) (now : Nat) : Core :=
  { c with inHandler := false, ctl := { c.ctl with pl := c.ctl.ppl, timed := false } }.resumeLanes now

/-! ### How a word issues -/

/-- A unit of 125 nJ, as the charge counts it. -/
def chargeUnit : Nat := 1600000
/-- The window's charge in whole units, rounded up (21 R433). -/
def Core.chargeUnits (c : Core) : Nat := (c.charge + chargeUnit - 1) / chargeUnit
/-- Activity of the core is charged (21 R432, R433). -/
def State.spend (s : State) (c : CoreId) (n : Nat) : State := s.updCore c fun x =>
  { x with charge := x.charge + n, overdraw := x.overdraw || decide (chargeUnit * (8 + x.ctl.pwrdecl) < x.charge + n) }

/-- Conditions of issue that are the same for every word: its registers are readable, and no draw beyond the declared
power has been found (05 R126, 21 R433). A word that has issued and waits does not issue again. -/
def mayIssue (l : Lane) (keys : List Nat) (s : State) : Except Halt Unit :=
  if (s.lane l).waiting then .ok () else do
    needKeys (if l == .s then keys ++ (keys.filter (· < 32)).map kSv else keys) s
    if s.me.overdraw then
      .error (.trapIn .powerOverdraw (BitVec.ofNat 64 s.me.chargeUnits) (s.updMe fun c => { c with overdraw := false }))
    else .ok ()

/-- The S lane issues the word at a listed equivalence point: its index and the snapshot are recorded (19 R415). -/
def State.notePoint (s : State) (l : Lane) : State :=
  if l == .s && !(s.lane .s).waiting && !s.me.task.eqPoints.isEmpty then
    match s.me.task.eqPoints.findIdx? (· == (s.lane .s).pc) with
    | some j => s.updMe fun c =>
        { c with eqj := { j := j, fpflags := c.ctl.fpflags, mxnan := c.ctl.mxnan, mxovf := c.ctl.mxovf, mspbad := c.ctl.mspbad } }
    | none => s
  else s

/-- The state in which a word takes effect: its equivalence point is noted, and no transfer of control stands. -/
def State.starts (s : State) (l : Lane) : State := (s.notePoint l).updLane l fun x => { x with npc := none }

/-- A word that a cause stops has not issued: the point that it stands at is not noted. `TRAP` and a taken `PHINT` have executed
(19 R399, R415). -/
def State.keepPoint (t s : State) (c : Cause) : State :=
  match c with
  | .trapSw | .preempt => t
  | _ => t.updMe fun x => { x with eqj := s.me.eqj }

/-- The state that a word's outcome leaves. -/
def answer (l : Lane) (s : State) : Except Halt State → Out
  | .ok t => .next t
  | .error (.trap c v) => .next (s.raise l c v)
  | .error (.trapIn c v t) => .next ((t.keepPoint s c).raise l c v)
  | .error (.unreached n a) => .next ((s.updMe fun c => { c with remoteFail := c.remoteFail.filter (· != n) }).raise l .fabricErr a)
  | .error .hold => .next (s.holdLane l)
  | .error (.holdIn t) => .next (t.holdLane l)
  | .error (.wait t) => .next (t.waitLane l)

/-- A word of lane `l` that reads the results `keys` and does `eff`. -/
def word (l : Lane) (keys : List Nat) (eff : Eff) (s : State) : Out :=
  answer l s (mayIssue l keys s >>= fun _ => (eff (s.starts l)).map fun t => t.retire l)

/-- A word whose results to read depend on the state. -/
def wordK (l : Lane) (keys : State → List Nat) (eff : Eff) (s : State) : Out := word l (keys s) eff s

/-- An event: it changes the state at once. -/
def event (f : State → State) (s : State) : Out := .next (f s)

/-! ### Signals (06 R157) -/

/-- `sig_add`. -/
def Signal.add (g : Signal) (n : Nat) : Signal :=
  if !g.byteMode then { g with value := g.value + BitVec.ofNat 32 n } else
  let v := min (g.value.toNat + n) 0xFFFFFFFF
  if g.armed && decide (g.expect.toNat ≤ v) then
    let r := v - g.expect.toNat
    { g with value := BitVec.ofNat 32 r, armed := false, ovr := g.ovr || r != 0,
             overcnt := if r != 0 then BitVec.ofNat 16 (min (g.overcnt.toNat + 1) 0xFFFF) else g.overcnt }
  else { g with value := BitVec.ofNat 32 v }

/-- An addition by core `src` becomes pending at a core's signal (13 R313 SIG). -/
def State.pendSig (s : State) (src : Nat) (c : CoreId) (g n : Nat) : State :=
  let t := s.pkg.ticks
  s.updCore c fun x => { x with pendSig := x.pendSig ++ [{ sg := g, amount := n, src := src, tick := t }] }

/-- The source of an addition that no core has made. -/
def noCore : Nat := 2048

/-- SIG (13 R313): the oldest addition pending at signal `g` is applied, as one sum with those that arrived on its cycle
(06 R157). -/
def Core.applySig (c : Core) (g : Nat) : Core :=
  match c.pendSig.find? fun p => p.sg == g with
  | none => c
  | some o =>
    let now (p : SigAdd) : Bool := p.sg == g && p.tick == o.tick
    { c with sigs := c.sigs.upd g fun x => x.add ((c.pendSig.filter now).foldl (fun t p => t + p.amount) 0),
             pendSig := c.pendSig.filter fun p => !now p }

/-- Every addition pending at a signal is applied, in order. -/
def Core.applySigAll (c : Core) (g : Nat) : Core := (c.pendSig.map fun _ => g).foldl Core.applySig c

/-- Every addition pending at the core's signals is applied. -/
def Core.applySigs (c : Core) : Core := (c.pendSig.map SigAdd.sg).foldl Core.applySig c

/-- What a completing transfer adds, as the signal stands at its completion: 1 in count mode, its bytes in byte mode (06 R157,
13 R313 DONE). -/
def State.pendDone (s : State) (src : Nat) (c : CoreId) (g n : Nat) : State :=
  let k := if ((s.core c).sigs.get g).byteMode then n else 1
  if s.eager then s.pendSig src c g k else s.updCore c fun x => { x with sigs := x.sigs.upd g fun y => y.add k }

/-! ### Engine fault records (19 R406) -/

/-- Records that are held back enter the ring of 256 in order while it has room (19 R406). -/
def Die.fillRing (d : Die) : Die :=
  let n := 256 - d.records.length
  { d with records := d.records ++ d.heldRecords.take n, heldRecords := d.heldRecords.drop n }

/-- Posts a record to the ring of a die, or holds it back while the ring is full, and gives its token. -/
def State.postRecord (s : State) (die src : Nat) (cause : Cause) (core : Nat) (ctx desc : Nat) (resolvable : Bool)
    (addr : Word) (offset : Nat) : Nat × State :=
  let d := s.die die
  let r : FaultRec := { stamp := s.ptime, src := src, cause := cause, core := core, ctx := ctx, desc := desc,
                        resolvable := resolvable, addr := addr, offset := offset, token := d.nextToken }
  (d.nextToken, s.updDie die fun d => { d with nextToken := d.nextToken + 1, heldRecords := d.heldRecords ++ [r] }.fillRing)

/-- The record with a token stands in the ring, or has stood there: it can be answered. -/
def Die.posted (d : Die) (token : Nat) : Bool := decide (token < d.nextToken) && d.heldRecords.all fun r => r.token != token

/-- The Yard Controller has taken the oldest records of a ring (19 R406; log 53). -/
def State.recordsRead (s : State) (die n : Nat) : State := s.updDie die fun d => { d with records := d.records.drop n }.fillRing

/-- Address of the record with a token, in a ring of 256 (19 R406; the ring's place is a free value, log 5). -/
def recordAddr (die token : Nat) : Word := Config.recordAddress (die == 1) (token % 256)

end Sys2Proof.Machine
end

