-- ==== Sys2Proof/Machine/SysRegs.lean ====
section
/-! DEFINITION. The system registers (02 R61-R66): their values, and writes of them. -/

namespace Sys2Proof.Machine

open Sys2Proof

/-- `VSHAPE` (02 R48). -/
def vshape (r : Regs) : Word := BitVec.ofNat 64 (r.vl.toNat * 2 ^ 8 + r.ety.code)

/-- `TSHAPE` of a tile (02 R50). -/
def tshape (t : Tile) : Word :=
  BitVec.ofNat 64 (t.rows.toNat + t.cols.toNat * 2 ^ 8 + boolNat t.resid * 2 ^ 29 + boolNat t.dirty * 2 ^ 30 + boolNat t.cfg * 2 ^ 31)

/-- `ABSTAT` (02 R61). -/
def abstat (c : Core) : Word := BitVec.ofNat 64 ((List.range 32).foldl (fun n i => n + boolNat (c.banks.get i).alloc * 2 ^ i) 0)

/-- `TBMAP`n (09 R239). -/
def tbmap (t : Turntable) (n : Nat) : Word :=
  BitVec.ofNat 64 ((List.range 10).foldl (fun x j => x + (t.map.get (10 * n + j)).toNat * 2 ^ (6 * j)) 0)

/-- `LSTAT` (02 R65). -/
def lstat (c : Ctl) : Word := BitVec.ofNat 64 (boolNat c.pl + 2 * boolNat c.ppl + 4 * boolNat c.timed + 8 * boolNat c.pe)

/-- `DIVS` (02 R66). -/
def divs (c : Clock) : Word := BitVec.ofNat 64 (c.ctl + c.mat * 2 ^ 8 + c.vec * 2 ^ 16 + c.copy * 2 ^ 24)

/-- A system register's value; `none` for an unassigned number. -/
def sysRead (s : State) (n : Nat) : Option Word :=
  let c := s.me
  let r := c.src
  match n with
  | 0x000 => some s.cyc
  | 0x001 => some c.ctl.cycorg
  | 0x002 => some (BitVec.ofNat 64 s.ptime)
  | 0x008 => some (zextW r.fpctl)
  | 0x009 => some (zextW c.ctl.fpflags)
  | 0x00A => some (vshape r)
  | 0x00B => some (zextW r.rbv)
  | 0x00C => some (zextW r.rbp)
  | 0x00D => some (BitVec.ofNat 64 (r.mfsrc.toNat + r.mfbase.toNat * 2 ^ 4))
  | 0x00E => some (abstat c)
  | 0x010 => some (zextW c.ctl.mxnan)
  | 0x011 => some (zextW c.ctl.mxovf)
  | 0x012 => some (zextW c.ctl.mspbad)
  | 0x020 => some (zextW r.eord)
  | 0x021 => some (zextW r.eta)
  | 0x030 => some (BitVec.ofNat 64 (c.ctl.causeLane.toNat * 2 ^ 8 + c.ctl.causeCode.toNat))
  | 0x035 => some c.ctl.tval
  | 0x036 => some c.ctl.tvec
  | 0x037 => some (lstat c.ctl)
  | 0x040 => some (BitVec.ofNat 64 c.ctl.pbReg)
  | 0x041 => some (BitVec.ofNat 64 c.ctl.pbSpad)
  | 0x042 => some (BitVec.ofNat 64 c.ctl.pbL1)
  | 0x048 => some c.ctl.spillBase
  | 0x049 => some c.ctl.spillLim
  | 0x04A => some c.ctl.spillTop
  | 0x050 => some (BitVec.ofNat 64 c.ctl.pwrdecl)
  | 0x051 => some (divs s.myCluster.clk)
  | 0x058 => some (zextW s.focus)
  | 0x059 => some (BitVec.ofNat 64 c.ctl.vfid)
  | n =>
    if 0x018 ≤ n ∧ n ≤ 0x01F then some (tshape (c.tiles.get (n - 0x018)))
    else if 0x028 ≤ n ∧ n ≤ 0x02B then some (tbmap s.myCluster.turn (n - 0x028))
    else if 0x031 ≤ n ∧ n ≤ 0x034 then some (c.ctl.epc.get (n - 0x031))
    else if 0x038 ≤ n ∧ n ≤ 0x03B then some (c.ctl.cbase.get (n - 0x038))
    else if 0x03C ≤ n ∧ n ≤ 0x03F then some (zextW (c.ctl.clen.get (n - 0x03C)))
    else none

/-- Registers that task level may write (02 R61). -/
def taskWrites (n : Nat) : Bool := n == 0x008 || n == 0x009

/-- The value fits in `w` bits. -/
def fits (v : Word) (w : Nat) : Bool := decide (v.toNat < 2 ^ w)

/-- A write of a system register at a level that may write it (02 R61): the causes RESERVED_FIELD and SHAPE_ILLEGAL, or the
state; `none` in the first place where the register is read-only and the write ignored. Read-only fields keep their value. -/
def sysWrite (s : State) (n : Nat) (v : Word) : Except Cause State :=
  let rsv (ok : Bool) (t : State) : Except Cause State := if ok then .ok t else .error .reservedField
  match n with
  | 0x008 => rsv (fits v 9 && !v.getLsbD 2) (s.updR fun r => { r with fpctl := bits v 0 9 })
  | 0x009 => rsv (fits v 5) (s.updCtl fun c => { c with fpflags := bits v 0 5 })
  | 0x00A =>
    if !(fits v 17) || bits v 4 4 != 0 then .error .reservedField
    else match EType.ofCode (fld v.toNat 0 4) with
      | none => .error .shapeIllegal
      | some t =>
        let vl := fld v.toNat 8 9
        if vl = 0 ∨ t.maxVl < vl then .error .shapeIllegal
        else .ok (s.updR fun r => { r with ety := t, vl := BitVec.ofNat 9 vl })
  | 0x00B => rsv (decide (v.toNat ≤ 43)) (s.updR fun r => { r with rbv := bits v 0 6 })
  | 0x00C => rsv (decide (v.toNat ≤ 7)) (s.updR fun r => { r with rbp := bits v 0 3 })
  | 0x00D => rsv (fits v 8 && bits v 2 2 == 0 && bits v 0 2 != 3) (s.updR fun r => { r with mfsrc := bits v 0 2, mfbase := bits v 4 4 })
  | 0x010 => rsv (fits v 32) (s.updCtl fun c => { c with mxnan := bits v 0 32 })
  | 0x011 => rsv (fits v 32) (s.updCtl fun c => { c with mxovf := bits v 0 32 })
  | 0x012 => rsv (fits v 32) (s.updCtl fun c => { c with mspbad := bits v 0 32 })
  | 0x020 => rsv (decide (1 ≤ v.toNat) && decide (v.toNat ≤ 31)) (s.updR fun r => { r with eord := bits v 0 5 })
  | 0x021 => rsv (fits v 32) (s.updR fun r => { r with eta := bits v 0 32 })
  | 0x030 => rsv (fits v 10 && !v.getLsbD 7) s
  | 0x035 => .ok (s.updCtl fun c => { c with tval := v })
  | 0x036 => .ok (s.updCtl fun c => { c with tvec := v })
  | 0x037 => rsv (fits v 4) (s.updCtl fun c => { c with pe := v.getLsbD 3, ppl := v.getLsbD 1 })
  | 0x048 => .ok (s.updCtl fun c => { c with spillBase := v })
  | 0x049 => .ok (s.updCtl fun c => { c with spillLim := v })
  | 0x04A => .ok (s.updCtl fun c => { c with spillTop := v })
  | n =>
    if 0x028 ≤ n ∧ n ≤ 0x02B then rsv (fits v 60) s
    else if 0x031 ≤ n ∧ n ≤ 0x034 then .ok (s.updCtl fun c => { c with epc := c.epc.set (n - 0x031) v })
    else if 0x038 ≤ n ∧ n ≤ 0x03B then rsv (v.toNat % 4 == 0) (s.updCtl fun c => { c with cbase := c.cbase.set (n - 0x038) v })
    else if 0x03C ≤ n ∧ n ≤ 0x03F then rsv (fits v 32) (s.updCtl fun c => { c with clen := c.clen.set (n - 0x03C) (bits v 0 32) })
    else .ok s

/-- A write of a system register through the core-control path (15 R358): to a core that runs a task it takes effect at the
next task entry, to one that is idle or stopped at once (19 R404). -/
def State.sysPath (s : State) (c : CoreId) (n : Nat) (v : Word) : State :=
  match (s.core c).mode with
  | .idle | .stopped => match sysWrite { s with focus := c } n v with | .ok t => { t with focus := s.focus } | .error _ => s
  | _ => s.updCore c fun x => { x with late := x.late ++ [.sysReg n v] }

end Sys2Proof.Machine
end

