-- ==== Sys2Proof/Machine/Blocks.lean ====
section
/-! DEFINITION. Completion records and event rings (15 R362, R363), and the register blocks of the management and control
windows with their access codes (00 R7). -/

namespace Sys2Proof.Machine

open Sys2Proof

/-! ### Completion records -/

/-- A completion record (15 R362) as a pattern of 32 bytes. -/
def completion (stamp src status cause : Nat) (tag : BitVec 8) (count step : Nat) (cookie : Word) : BitVec 256 :=
  BitVec.ofNat 256 (stamp % 2 ^ 64 + src * 2 ^ 64 + status * 2 ^ 72 + cause * 2 ^ 80 + tag.toNat * 2 ^ 88
    + count % 2 ^ 32 * 2 ^ 96 + step % 2 ^ 32 * 2 ^ 128 + cookie.toNat * 2 ^ 192)

/-- The ring is enabled (15 R363). -/
def Vf.ringOn (v : Vf) : Bool := decide (6 ≤ v.evsize.toNat) && decide (v.evsize.toNat ≤ 16)
def Vf.pending (v : Vf) : Nat := (v.evtail - v.evhead).toNat

/-- The root register as it reads: what was written last (11 R299). -/
def Vf.rootReg (v : Vf) : BitVec 40 × Bool := match v.rootNext with | some r => r | none => (v.root, v.en)

/-- A message is sent when a coalescing condition holds and none has been sent since the last write of `EVHEAD`. -/
def Vf.message (v : Vf) (ptime : Nat) : Vf :=
  let old := match v.since with | [] => false | t :: _ => v.evns != 0 && decide (v.evns.toNat ≤ ptime - t)
  if v.armed && v.pending != 0 && (decide (v.evcnt.toNat ≤ v.pending) || old) then { v with armed := false, msgs := v.msgs + 1 } else v

/-- Held records go to the ring in posting order while it is enabled and has room; `fuel` bounds their number. -/
def flushEvents : Nat → Vf → Memory → Nat → Vf × Memory
  | 0, v, m, _ => (v, m)
  | fuel + 1, v, m, ptime =>
    match v.held with
    | [] => (v, m)
    | r :: t =>
      if v.ringOn && decide (v.pending < 2 ^ v.evsize.toNat) then
        let a := keyHost (v.evbase.toNat + 32 * (v.evtail.toNat % 2 ^ v.evsize.toNat))
        let v := { v with held := t, evtail := v.evtail + 1, since := v.since ++ [ptime] }
        flushEvents fuel (v.message ptime) (memWrite m a (toBytes 32 r.toNat)) ptime
      else (v, m)

def State.flush (s : State) (v : Nat) : State :=
  let f := s.vfs.get v
  let (f, m) := flushEvents f.held.length f s.mem s.ptime
  { s with vfs := s.vfs.set v f, mem := m }

/-- A record is posted for a virtual function. -/
def State.complete (s : State) (v src status cause : Nat) (tag : BitVec 8) (count step : Nat) (cookie : Word) : State :=
  let r := completion s.ptime src status cause tag count step cookie
  { s with vfs := s.vfs.upd v fun f => { f with held := f.held ++ [r] } }.flush v

/-! ### Writes that act -/

/-- A write of `EVHEAD` consumes entries and arms the message again (15 R363). -/
def State.writeEvhead (s : State) (v : Nat) (h : BitVec 32) : State :=
  let now := s.ptime
  { s with vfs := s.vfs.upd v fun f =>
      { f with evhead := h, armed := true, since := f.since.drop (f.since.length - (f.evtail - h).toNat) }.message now }.flush v

/-- `LQPOST` (21 R437): the record goes to the launch queue of a die, or is refused when that holds 64. -/
def State.lqPost (s : State) (v d : Nat) : State :=
  if ((s.die d).lq.get v).length < 64 then s.updDie d fun x => { x with lq := x.lq.upd v fun q => q ++ [(s.vfs.get v).lqrec] }
  else { s with vfs := s.vfs.upd v fun f => { f with refused := true } }

/-- START, STOP and RESUME of `SBCTL` (10 R261): a word that waits, and `SPARK`, end before the context stops. -/
def BoxCtx.start (c : BoxCtx) : BoxCtx := if c.st = .idle then { c with pc := 0, loops := [], st := .run, stopping := false } else c
def BoxCtx.stop (c : BoxCtx) : BoxCtx :=
  if c.st = .run then { c with st := .stopped } else if c.st = .wait ∨ c.st = .parked then { c with stopping := true } else c
def BoxCtx.resume (c : BoxCtx) : BoxCtx := if c.st = .stopped ∨ c.st = .fault then { c with st := .run } else c
def BoxState.code : BoxState → Nat
  | .idle => 0 | .run => 1 | .wait => 2 | .parked => 3 | .stopped => 4 | .fault => 5

/-- Pulses that `n` matrix cycles take in the cluster of a core. -/
def State.matCycles (s : State) (c : CoreId) (n : Nat) : Nat :=
  let k := (s.cluster (clusterOf c)).clk
  (n * k.mat + k.ctl - 1) / k.ctl

/-- Outside NORMAL mode a matrix engine that has been idle for MIDLE x 64 matrix cycles gates (21 R435). -/
def State.gateIdle (s : State) (c : CoreId) : State :=
  let x := s.core c
  let idle := x.mrun.isNone && x.xfers.all fun t => match t.kind with | .load _ | .fmt _ => false | _ => true
  if s.pkg.mode != 1 && x.matGate == .awake && idle
      && decide (x.mBusy + s.matCycles c (s.pkg.midle.toNat * 64) ≤ s.pulses (clusterOf c)) then
    s.updCore c fun x => { x with matGate := .gated }
  else s

/-- A gated matrix engine of a core starts to wake: ready after 256 matrix cycles, from which its idle time counts. -/
def State.wakeEngine (s : State) (c : CoreId) : State :=
  let p := s.pulses (clusterOf c) + s.matCycles c 256
  s.updCore c fun x => if x.matGate = .gated then { x with matGate := .waking p, mBusy := p, mPaid := p } else x

/-- A write of `PWRCFG` (21 R428, R435): MODE 3 is ignored, MIDLE lies in 1-65,535, MODE 1 wakes every gated engine. -/
def State.writePwrcfg (s : State) (v : Word) : State :=
  let md := bits v 0 2
  let mi := bits v 8 16
  let ids := s.cores.rows.map fun r => (BitVec.ofNat 11 r.1 : CoreId)
  let s := ids.foldl State.gateIdle s
  let s := s.updPkg fun p => { p with midle := if mi = 0 then p.midle else mi, mode := if md = 3 then p.mode else md }
  if md = 1 then ids.foldl State.wakeEngine s else s

def Health.clear (h : Health) : Health := { h with crc := 0, replayFail := 0, ce := 0, ue := 0 }
def Port.clear (p : Port) : Port := { p with downs := 0, replay := 0 }
def State.clearFabric (s : State) : State := s.updPkg fun p => { p with fab := .fill 0 }
def State.clearReuse (s : State) (d : Nat) : State := s.updDie d fun x => { x with counters := .fill 0 }

/-- The layout of an expert entry (10 R270). -/
def Expert.bits (e : Expert) : BitVec 384 :=
  BitVec.ofNat 384 (e.base.toNat + e.capaddr.toNat * 2 ^ 64 + e.wring.toNat * 2 ^ 128 + e.len.toNat * 2 ^ 192
    + e.st.toNat * 2 ^ 224 + e.peer.toNat * 2 ^ 226 + e.use.toNat * 2 ^ 256)

/-- A window write of an expert entry (10 R270). -/
def Expert.put (e : Expert) (x : BitVec 384) : Expert :=
  let st := Sys2Proof.bits x 224 2
  let e' := { e with use := Sys2Proof.bits x 256 48, peer := Sys2Proof.bits x 226 9, wring := Sys2Proof.bits x 128 64 }
  if e.st = 1 then e' else
  { e' with st := if st = 1 then e.st else st, base := Sys2Proof.bits x 0 64, len := Sys2Proof.bits x 192 32,
            capaddr := Sys2Proof.bits x 64 64 }

/-! ### The blocks, as 8-byte words -/

/-- GRANTED and PEND of a cluster (21 R429). -/
def State.granted (s : State) (ci : Nat) : Nat :=
  (s.cores.rows.filter fun r => clusterOf (BitVec.ofNat 11 r.1) == ci).foldl (fun n r => n + r.2.ctl.pwrdecl) 0
def State.pendUnits (s : State) (ci : Nat) : Nat := (s.cluster ci).pend.foldl (fun n p => n + p.2) 0

/-- Word `i` of a pattern of 8-byte words. -/
def word64 (x i : Nat) : Word := BitVec.ofNat 64 (x / 2 ^ (64 * i))
/-- A pattern with its word `i` replaced. -/
def setWord64 (x i : Nat) (v : Word) : Nat := x - x / 2 ^ (64 * i) % 2 ^ 64 * 2 ^ (64 * i) + v.toNat * 2 ^ (64 * i)

def portWord (p : Port) : Word := BitVec.ofNat 64 (p.st.toNat + boolNat p.en * 8 + p.replay.toNat * 2 ^ 8 + p.downs.toNat * 2 ^ 40)
def healthWord (h : Health) (i : Nat) : Word :=
  BitVec.ofNat 64 (match i with
    | 0 => h.crc.toNat + h.replayFail.toNat * 2 ^ 32
    | 1 => h.ce.toNat + h.ue.toNat * 2 ^ 32
    | 2 => boolNat h.trained * 2 + boolNat h.retrain * 4
    | _ => 0)

/-- The 8-byte word at a block's offset (a multiple of 8) as a read returns it. -/
def blockWord (s : State) (b : RegBlock) (o : Nat) : Word :=
  match b with
  | .sbox =>
    if o < 0x6000 then
      let c := s.boxes.get (o / 256)
      match o % 256 with
      | 0x00 => c.pbase
      | 0x08 => BitVec.ofNat 64 (c.pc.toNat * 2 ^ 32 + c.st.code * 2 ^ 8)
      | 0x10 => BitVec.ofNat 64 (c.fword.toNat * 2 ^ 32 + boolNat c.fvalid * 2 ^ 7 + c.fcode.toNat)
      | _ => 0
    else if 0x10000 ≤ o ∧ o < 0x100000 then
      let n := (o - 0x10000) / 10240
      let w := (o - 0x10000) % 10240
      word64 ((s.boxes.get n).mc.get (w / 160)).toNat (w % 160 / 8)
    else if 0x100000 ≤ o ∧ o < 0x100000 + 48 * 4096 then
      word64 (s.experts.get ((o - 0x100000) / 48)).bits.toNat ((o - 0x100000) % 48 / 8)
    else 0
  | .fabric =>
    if o = 0 then zextW s.pkg.pkgid
    else if o = 8 then BitVec.ofNat 64 (boolNat s.pkg.lock + boolNat s.pkg.gm * 2 + s.pkg.hops.toNat * 2 ^ 8 + s.pkg.offs.toNat * 2 ^ 32)
    else if 0x100 ≤ o ∧ o < 0x100 + 8 * 24 then portWord (s.pkg.ports.get ((o - 0x100) / 8))
    else if 0x1000 ≤ o ∧ o < 0x1800 then
      BitVec.ofNat 64 ((s.pkg.routes.get ((o - 0x1000) / 4)).toNat + (s.pkg.routes.get ((o - 0x1000) / 4 + 1)).toNat * 2 ^ 32)
    else if 0x2000 ≤ o ∧ o < 0x3800 then word64 (s.pkg.masks.get ((o - 0x2000) / 64)).toNat ((o - 0x2000) % 64 / 8)
    else if 0x3800 ≤ o ∧ o < 0x3800 + 8 * 96 then BitVec.ofNat 64 (boolNat (s.pkg.enc.get ((o - 0x3800) / 8)))
    else if 0x4000 ≤ o ∧ o < 0x4038 then BitVec.ofNat 64 (s.pkg.fab.get ((o - 0x4000) / 8))
    else 0
  | .power =>
    if o = 0 then BitVec.ofNat 64 (s.pkg.mode.toNat + s.pkg.midle.toNat * 2 ^ 8)
    else if o = 8 then zextW s.pkg.budget
    else if o = 0x10 then BitVec.ofNat 64 s.pkg.throttleUs
    else if 0x100 ≤ o ∧ o < 0x100 + 8 * 144 then
      let ci := (o - 0x100) / 8
      BitVec.ofNat 64 ((s.cluster ci).share.toNat + s.granted ci % 2 ^ 16 * 2 ^ 16 + s.pendUnits ci % 2 ^ 16 * 2 ^ 32)
    else 0
  | .health => if o < 32 * 256 then healthWord (s.pkg.health.get (o / 32)) (o % 32 / 8) else 0
  | .translation =>
    if o < 8 * 96 then let r := (s.vfs.get (o / 8)).rootReg; BitVec.ofNat 64 (r.1.toNat * 2 ^ 12 + boolNat r.2) else 0
  | .reuse d => if o < 48 then BitVec.ofNat 64 ((s.die (boolNat d)).counters.get (o / 8) % 2 ^ 48) else 0
  | .shunter => 0
  | .core c => (sysRead { s with focus := c } (o / 8)).getD 0
  | .bar0 v =>
    let f := s.vfs.get v
    match o with
    | 0x28 => BitVec.ofNat 64 ((64 - ((s.die 0).lq.get v).length) + (64 - ((s.die 1).lq.get v).length) * 2 ^ 8
                + boolNat f.refused * 2 ^ 16)
    | 0x100 => f.evbase
    | 0x108 => zextW f.evsize
    | 0x110 => zextW f.evtail
    | 0x118 => zextW f.evhead
    | 0x120 => BitVec.ofNat 64 (f.evns.toNat + f.evcnt.toNat * 2 ^ 32)
    | _ => 0

/-- A field with the written bits replaced. -/
def mixWord (old v mask : Word) : Word := (old &&& ~~~mask) ||| (v &&& mask)

/-- A write of the bits `mask` of the 8-byte word at a block's offset: fields follow their access codes (00 R7); offsets
that hold nothing ignore it. A record of the migration engine's ring is posted with its last byte (log 14). -/
def blockPut (s : State) (b : RegBlock) (o : Nat) (v mask : Word) : State :=
  let act := v &&& mask
  let mix (old : Word) : Word := mixWord old v mask
  match b with
  | .sbox =>
    if o < 0x6000 then
      { s with boxes := s.boxes.upd (o / 256) fun c =>
          match o % 256 with
          | 0x00 => { c with pbase := mix c.pbase &&& ~~~(3 : Word) }
          | 0x08 => if c.st = .idle then (if act.getLsbD 0 then c.start else c)
                    else if c.st = .stopped ∨ c.st = .fault then (if act.getLsbD 2 then c.resume else c)
                    else (if act.getLsbD 1 then c.stop else c)
          | 0x10 => if act.getLsbD 7 then { c with fvalid := false } else c
          | _ => c }
    else if 0x10000 ≤ o ∧ o < 0x10000 + 10240 * 96 then
      let n := (o - 0x10000) / 10240
      let w := (o - 0x10000) % 10240
      let f (x : BitVec 1280) : BitVec 1280 := BitVec.ofNat 1280 (setWord64 x.toNat (w % 160 / 8) (mix (word64 x.toNat (w % 160 / 8))))
      { s with boxes := s.boxes.upd n fun c => { c with mc := c.mc.upd (w / 160) f } }
    else if 0x100000 ≤ o ∧ o < 0x100000 + 48 * 4096 then
      let w := (o - 0x100000) % 48 / 8
      let f (e : Expert) : Expert := e.put (BitVec.ofNat 384 (setWord64 e.bits.toNat w (mix (word64 e.bits.toNat w))))
      { s with experts := s.experts.upd ((o - 0x100000) / 48) f }
    else s
  | .fabric =>
    if 0x100 ≤ o ∧ o < 0x100 + 8 * 24 then
      let f (q : Port) : Port := { (if act.getLsbD 4 then q.clear else q) with en := (mix (portWord q)).getLsbD 3 }
      s.updPkg fun p => { p with ports := p.ports.upd ((o - 0x100) / 8) f }
    else if 0x1000 ≤ o ∧ o < 0x1800 then
      let i := (o - 0x1000) / 4
      let w := mix (blockWord s .fabric o)
      s.updPkg fun p => { p with routes := (p.routes.set i (bits w 0 24)).set (i + 1) (bits w 32 24) }
    else if 0x2000 ≤ o ∧ o < 0x3800 then
      let i := (o - 0x2000) % 64 / 8
      let f (x : BitVec 512) : BitVec 512 := BitVec.ofNat 512 (setWord64 x.toNat i (mix (word64 x.toNat i)))
      s.updPkg fun p => { p with masks := p.masks.upd ((o - 0x2000) / 64) f }
    else if 0x3800 ≤ o ∧ o < 0x3800 + 8 * 96 then
      s.updPkg fun p => { p with enc := p.enc.upd ((o - 0x3800) / 8) fun e => if mask.getLsbD 0 then v.getLsbD 0 else e }
    else if o = 0x4038 then (if act.getLsbD 0 then s.clearFabric else s)
    else s
  | .power =>
    if o = 0 then s.writePwrcfg (mix (blockWord s .power 0))
    else if 0x100 ≤ o ∧ o < 0x100 + 8 * 144 then
      s.updCluster ((o - 0x100) / 8) fun k => { k with share := bits (mix (zextW k.share)) 0 16 }
    else s
  | .health =>
    if o < 32 * 256 ∧ o % 32 = 16 then
      let f (h : Health) : Health := { (if act.getLsbD 0 then h.clear else h) with retrain := h.retrain || act.getLsbD 2 }
      s.updPkg fun p => { p with health := p.health.upd (o / 32) f }
    else s
  | .translation =>
    if o < 8 * 96 then
      let w := mix (blockWord s .translation o)
      { s with vfs := s.vfs.upd (o / 8) fun f => { f with rootNext := some (bits w 12 40, w.getLsbD 0) } }
    else s
  | .reuse d => if o = 48 ∧ act.getLsbD 0 then s.clearReuse (boolNat d) else s
  | .shunter =>
    let i := o % 32 / 8
    let r := BitVec.ofNat 256 (setWord64 s.pkg.shStage.toNat i (mix (word64 s.pkg.shStage.toNat i)))
    s.updPkg fun p => if i = 3 ∧ mask.getLsbD 63 = true then { p with shStage := 0, shunter := p.shunter ++ [r] } else { p with shStage := r }
  | .core c => s.sysPath c (o / 8) (mix (blockWord s (.core c) o))
  | .bar0 n =>
    if o < 0x20 then
      let w (x : BitVec 256) : BitVec 256 := BitVec.ofNat 256 (setWord64 x.toNat (o / 8) (mix (word64 x.toNat (o / 8))))
      { s with vfs := s.vfs.upd n fun f => { f with lqrec := w f.lqrec } }
    else match o with
    | 0x20 => if mask.getLsbD 0 then s.lqPost n (act.toNat % 2) else s
    | 0x28 => if act.getLsbD 16 then { s with vfs := s.vfs.upd n fun f => { f with refused := false } } else s
    | 0x100 => { s with vfs := s.vfs.upd n fun f => { f with evbase := mix f.evbase } }.flush n
    | 0x108 => { s with vfs := s.vfs.upd n fun f => { f with evsize := bits (mix (zextW f.evsize)) 0 5 } }.flush n
    | 0x118 => if bits mask 0 32 = 0 then s else s.writeEvhead n (bits (mix (zextW (s.vfs.get n).evhead)) 0 32)
    | 0x120 =>
      let w := mix (blockWord s (.bar0 n) 0x120)
      { s with vfs := s.vfs.upd n fun f => { f with evns := bits w 0 32, evcnt := bits w 32 16 } }
    | _ => s

/-- The bytes of a read of `n` (at most 8, inside one 8-byte word) at a block's offset. -/
def blockRead (s : State) (b : RegBlock) (o n : Nat) : List Byte :=
  ((toBytes 8 (blockWord s b (o / 8 * 8)).toNat).drop (o % 8)).take n

/-- A write of `bs` (at most 8 bytes, inside one 8-byte word) at a block's offset. -/
def blockWrite (s : State) (b : RegBlock) (o : Nat) (bs : List Byte) : State :=
  let sh := 8 * (o % 8)
  blockPut s b (o / 8 * 8) (BitVec.ofNat 64 (leBytes bs * 2 ^ sh)) (BitVec.ofNat 64 ((2 ^ (8 * bs.length) - 1) * 2 ^ sh))

end Sys2Proof.Machine
end

