-- ==== Sys2Proof/Machine/Order.lean ====
section
/-! DEFINITION. The moves of the ordering machine over global lines (13 R310-R320), releases, acquires, and the
registrations of 13 R326. A line is named by its key / 128, a granule by its key / 32. -/

namespace Sys2Proof.Machine

open Sys2Proof

/-! ### Lines -/

/-- HBM of this package; other global keys are HBM of other packages (11 R286). -/
def keyLocal (key : Nat) : Bool := decide (key < hbmSize)
def lineLocal (n : Nat) : Bool := keyLocal (n * 128)

def cleanMask : List Bool := List.replicate 128 false
/-- The bytes of a line that [key, key + n) covers. -/
def maskOf (key n : Nat) : List Bool := (List.range 128).map fun i => decide (key % 128 ≤ i) && decide (i < key % 128 + n)
/-- `new` where the mask says so, else `old`. -/
def mergeBytes : List Byte → List Byte → List Bool → List Byte
  | o :: os, n :: ns, m :: ms => (if m then n else o) :: mergeBytes os ns ms
  | _, _, _ => []
def orMask (a b : List Bool) : List Bool := List.zipWith (· || ·) a b
def isDirty (m : List Bool) : Bool := m.any id
/-- Bytes [key, key + n) of a line's data. -/
def lineSlice (d : List Byte) (key n : Nat) : List Byte := (d.drop (key % 128)).take n
/-- A line's data with bytes written at a key. -/
def linePut (d : List Byte) (key : Nat) (bs : List Byte) : List Byte :=
  d.take (key % 128) ++ bs ++ d.drop (key % 128 + bs.length)

/-- The line as it stands at its home. -/
def State.homeLine (s : State) (n : Nat) : List Byte := s.bytes (n * 128) 128
/-- Versions of the line's four granules at its home. -/
def State.homeVers (s : State) (n : Nat) : List Nat := (List.range 4).map fun g => s.homeVer.get (4 * n + g)
/-- Granule `g` of two lines differs. -/
def granDiffers (a b : List Byte) (g : Nat) : Bool := (a.drop (32 * g)).take 32 != (b.drop (32 * g)).take 32
/-- Versions with a new one where granules differ. -/
def newVers (old new : List Byte) (vers : List Nat) (v : Nat → Nat) : List Nat :=
  (List.range 4).map fun g => if granDiffers old new g then v g else vers.getD g 0

/-- The masked bytes of a line are written to memory, whole 8-byte words as such (11 R278). -/
def State.pokeMask (s : State) (n : Nat) (bs : List Byte) (m : List Bool) : State :=
  (List.range 16).foldl (fun s i =>
    let w := (bs.drop (8 * i)).take 8
    let k := (m.drop (8 * i)).take 8
    if k.all id then s.poke (n * 128 + 8 * i) w
    else (List.range 8).foldl (fun s j => if k.getD j false then s.poke (n * 128 + 8 * i + j) [w.getD j 0] else s) s) s

def State.l2 (s : State) (cl n : Nat) : Option L2Line := (s.cluster cl).l2.get n
def State.setL2 (s : State) (cl n : Nat) (l : Option L2Line) : State := s.updCluster cl fun k => { k with l2 := k.l2.set n l }
def State.l1 (s : State) (c : CoreId) (n : Nat) : Option L1Line := (s.core c).l1.get n
def State.setL1 (s : State) (c : CoreId) (n : Nat) (l : Option L1Line) : State := s.updCore c fun x => { x with l1 := x.l1.set n l }
/-- Takes a line out of a core's FIFO. -/
def Core.unqueue (c : Core) (n : Nat) : Core := { c with fifo := c.fifo.filter fun i => i != .line n }

/-- Bytes arrive at the home. Where granules change, their version changes at the home and at every L2 that holds a copy,
and the copy's clean bytes follow (13 R313; the bytes: DEDUCED, log 11). `from_` is the L2 that writes them back: it and its
versions stand. -/
def State.homeWrite (s : State) (n : Nat) (bs : List Byte) (m : List Bool) (from_ : Option (Nat × List Nat)) : State :=
  let old := s.homeLine n
  let new := mergeBytes old bs m
  let (v, s) := s.take
  let ver : Nat → Nat := fun g => match from_ with | some (_, vs) => vs.getD g 0 | none => v + 1
  let s := s.pokeMask n bs m
  let s := { s with homeVer := (List.range 4).foldl (fun t g => if granDiffers old new g then t.set (4 * n + g) (ver g) else t) s.homeVer }
  let follow (k : Cluster) : Cluster :=
    match k.l2.get n with
    | none => k
    | some l => { k with l2 := k.l2.set n (some { l with data := mergeBytes new l.data l.dirty, ver := newVers old new l.ver ver }) }
  { s with clusters := { s.clusters with rows := s.clusters.rows.map fun r =>
      match from_ with
      | some (cl, _) => if r.1 = cl then r else (r.1, follow r.2)
      | none => (r.1, follow r.2) } }

/-- Versions of the line's granules as core `c` holds its copy against: at its L2, or at the home for a remote line and where the
L2 has no copy (13 R326). -/
def State.versAt (s : State) (c : CoreId) (n : Nat) : List Nat :=
  match (if lineLocal n then s.l2 (clusterOf c) n else none) with
  | some l => l.ver
  | none => s.homeVers n

/-- Versions of a copy after its own bytes have been written below it: a granule that was up to date stays so, and one that was
stale stays stale (13 R326). -/
def followVers (mine before after : List Nat) : List Nat :=
  (List.range 4).map fun g => if mine.getD g 0 = before.getD g 0 then after.getD g 0 else mine.getD g 0

/-- RECALL (13 R313): an exclusive copy's dirty bytes go to the home and EX is cleared; the copy keeps its bytes. -/
def State.recall (s : State) (n : Nat) : State :=
  match s.owner.get n with
  | none => s
  | some o =>
    let c : CoreId := BitVec.ofNat 11 o
    let s := { s with owner := s.owner.set n none }
    match s.l1 c n with
    | none => s
    | some l =>
      let was := s.versAt c n
      let s := if isDirty l.dirty then s.homeWrite n l.data l.dirty none else s
      let s := s.setL1 c n (some { l with ex := false, dirty := cleanMask, ver := followVers l.ver was (s.versAt c n) })
      s.updCore c fun x => x.unqueue n

/-- WB (13 R313): a dirty L2 line goes to its home, which invalidates the clean copies of every other L2. -/
def State.writeBack (s : State) (cl n : Nat) : State :=
  match s.l2 cl n with
  | none => s
  | some l =>
    if isDirty l.dirty then
      let s := s.homeWrite n l.data l.dirty (some (cl, l.ver))
      let s := s.setL2 cl n (some { l with dirty := cleanMask })
      { s with clusters := { s.clusters with rows := s.clusters.rows.map fun r =>
          if r.1 = cl then r else match r.2.l2.get n with
            | some o => if isDirty o.dirty then r else (r.1, { r.2 with l2 := r.2.l2.set n none })
            | none => r } }
    else s

/-- Ways of the L2 that cache lines: neither converted nor gated (11 R283, R285). -/
def Cluster.openWays (k : Cluster) : List Nat := (List.range (16 - k.conv)).filter fun w => !k.gated.contains w

/-- The lines in the set of line `n` of the L2, but itself, with their ways (11 R282: 1,024 sets). -/
def Cluster.setOf (k : Cluster) (n : Nat) : List (Nat × Nat) :=
  k.l2.rows.filterMap fun r => match r.2 with | some l => if r.1 % 1024 == n % 1024 && r.1 != n then some (r.1, l.way) else none | none => none

/-- The way that a line takes in its set: one that is free, else one whose line leaves. Which of them is a free value (log 44). -/
def Cluster.wayFor (k : Cluster) (n : Nat) : Nat :=
  let free := k.openWays.filter fun w => (k.setOf n).all fun v => v.2 != w
  let ways := if free.isEmpty then k.openWays else free
  ways.getD (Config.wayOf n % ways.length) 0

/-- A line leaves the L2, its dirty bytes written back. -/
def State.l2Evict (s : State) (cl n : Nat) : State := (s.writeBack cl n).setL2 cl n none

/-- The line in way `w` of a set leaves. -/
def State.l2Room (s : State) (cl n w : Nat) : State :=
  (((s.cluster cl).setOf n).filter fun v => v.2 == w).foldl (fun s v => s.l2Evict cl v.1) s

/-- The lines in one of the ways `ws` leave the L2, dirty bytes written back (06 R181, 11 R285). -/
def State.cleanL2 (s : State) (cl : Nat) (ws : List Nat) : State :=
  (s.cluster cl).l2.rows.foldl (fun s r => match r.2 with
    | some l => if ws.contains l.way then s.l2Evict cl r.1 else s
    | none => s) s

/-- The cluster's copy of a local line, taken from the home if it has none. -/
def State.l2Fetch (s : State) (cl n : Nat) : L2Line × State :=
  match s.l2 cl n with
  | some l => (l, s)
  | none =>
    let w := (s.cluster cl).wayFor n
    let s := s.l2Room cl n w
    let l : L2Line := { way := w, data := s.homeLine n, dirty := cleanMask, ver := s.homeVers n }
    (l, s.setL2 cl n (some l))

/-- Bytes of a core reach the L2 of its cluster, or the home for a remote line (13 R313 DRAIN, EVICT). Gives the versions
of the granules afterwards. -/
def State.writeDown (s : State) (c : CoreId) (n : Nat) (bs : List Byte) (m : List Bool) : List Nat × State :=
  if lineLocal n then
    let cl := clusterOf c
    let (l, s) := s.l2Fetch cl n
    let (v, s) := s.take
    let new := mergeBytes l.data bs m
    let l' : L2Line := { way := l.way, data := new, dirty := orMask l.dirty m, ver := newVers l.data new l.ver fun _ => v + 1 }
    (l'.ver, s.setL2 cl n (some l'))
  else
    let s := s.homeWrite n bs m none
    (s.homeVers n, s)

/-- A dirty copy's bytes are written down; the copy stays, clean (13 R313 DRAIN). -/
def State.drainLine (s : State) (c : CoreId) (n : Nat) : State :=
  let s := s.updCore c fun x => { x.unqueue n with drained := if x.drained.contains n then x.drained else n :: x.drained }
  match s.l1 c n with
  | none => s
  | some l =>
    if isDirty l.dirty then
      let was := s.versAt c n
      let (vs, s) := s.writeDown c n l.data l.dirty
      s.setL1 c n (some { l with dirty := cleanMask, ver := followVers l.ver was vs })
    else s

/-- EVICT (13 R313): a copy that is not exclusive is removed, its dirty bytes written down. -/
def State.evict (s : State) (c : CoreId) (n : Nat) : State :=
  let s := s.drainLine c n
  s.setL1 c n none

/-- Dirty lines of an L2. -/
def State.l2Dirty (s : State) (cl : Nat) : List Nat :=
  (s.cluster cl).l2.rows.filterMap fun r => match r.2 with | some l => if isDirty l.dirty then some r.1 else none | none => none

/-- Ways of the core's L1 (11 R274). -/
def Core.ways (c : Core) : Nat := (c.ctl.pbL1 - c.ctl.pbSpad) / 16384

/-- Makes room in the set of a line: the lowest line of a full set leaves (11 R282). -/
def State.makeRoom (s : State) (c : CoreId) (n : Nat) : State :=
  let here := (s.core c).l1.rows.filterMap fun r => if r.2.isSome && r.1 % 128 == n % 128 && r.1 != n then some r.1 else none
  if here.length < (s.core c).ways then s else
  match here with
  | [] => s
  | v :: _ => let s := if s.owner.get v = some c.toNat then s.recall v else s
              s.evict c v

/-- FETCH (13 R313): the core's copy, taken from the L2 or the home if it has none. -/
def State.fetch (s : State) (c : CoreId) (n : Nat) : L1Line × State :=
  match s.l1 c n with
  | some l => (l, s)
  | none =>
    let s := (s.recall n).makeRoom c n
    let (data, ver, s) :=
      if lineLocal n then let (l, s) := s.l2Fetch (clusterOf c) n; (l.data, l.ver, s) else (s.homeLine n, s.homeVers n, s)
    let l : L1Line := { ex := false, data := data, dirty := cleanMask, ver := ver }
    (l, s.setL1 c n (some l))

/-- EXCL (13 R313): the core gets the line exclusively, fetched anew; its own dirty bytes stay. -/
def State.excl (s : State) (c : CoreId) (n : Nat) : State :=
  if s.owner.get n = some c.toNat then s else
  let s := s.recall n
  let mine := s.l1 c n
  let s := s.setL1 c n none
  let (l, s) := s.fetch c n
  let l := match mine with | some o => { l with data := mergeBytes l.data o.data o.dirty, dirty := o.dirty } | none => l
  { s.setL1 c n (some { l with ex := true }) with owner := s.owner.set n (some c.toNat) }

/-! ### Plain accesses to cached lines -/

/-- READ of a global line by a core: from its copy; with no L1 way, from the L2 or the home (11 R282). -/
def State.readCached (s : State) (c : CoreId) (key n : Nat) : List Byte × State :=
  let ln := key / 128
  if (s.core c).ways = 0 then
    let s := s.recall ln
    if keyLocal key then let (l, s) := s.l2Fetch (clusterOf c) ln; (lineSlice l.data key n, s) else (s.bytes key n, s)
  else
    let (l, s) := s.fetch c ln
    (lineSlice l.data key n, s)

/-- WRITE of a global line by a core. -/
def State.writeCached (s : State) (c : CoreId) (key : Nat) (bs : List Byte) : State :=
  let ln := key / 128
  let m := maskOf key bs.length
  if (s.core c).ways = 0 then
    let s := s.recall ln
    let s := s.updCore c fun x => { x with drained := if x.drained.contains ln then x.drained else ln :: x.drained }
    (s.writeDown c ln (linePut (List.replicate 128 0) key bs) m).2
  else
    let (l, s) := s.fetch c ln
    let s := s.setL1 c ln (some { l with data := linePut l.data key bs, dirty := orMask l.dirty m })
    s.updCore c fun x => if x.fifo.contains (.line ln) then x else { x with fifo := x.fifo ++ [.line ln] }

/-- The bytes of an acquire read (13 R317): from the own copy where it is exclusive, else from the home. What the core itself has
written and has not brought there comes there first, by EVICT and WB (log 11). -/
def State.readHome (s : State) (c : CoreId) (key n : Nat) : List Byte × State :=
  let ln := key / 128
  match s.l1 c ln with
  | some l =>
    if l.ex then (lineSlice l.data key n, s)
    else
      let s := (if isDirty l.dirty then s.evict c ln else s).writeBack (clusterOf c) ln
      let s := s.recall ln
      (s.bytes key n, s)
  | none =>
    let s := (s.writeBack (clusterOf c) ln).recall ln
    (s.bytes key n, s)

/-- A release write at the home (13 R316): the core's own copy follows. -/
def State.writeHome (s : State) (c : CoreId) (key : Nat) (bs : List Byte) : State :=
  let ln := key / 128
  let s := if s.owner.get ln = some c.toNat then s else s.recall ln
  let m := maskOf key bs.length
  let was := s.versAt c ln
  let s := s.homeWrite ln (linePut (List.replicate 128 0) key bs) m none
  let s := match s.l2 (clusterOf c) ln with
    | some l => s.setL2 (clusterOf c) ln (some { l with data := linePut l.data key bs })
    | none => s
  match s.l1 c ln with
  | none => s
  | some l => s.setL1 c ln (some { l with data := linePut l.data key bs, ver := followVers l.ver was (s.versAt c ln) })

/-- Engines read global lines at the L2 of the issuing cluster or at the home (13 R322). -/
def State.engRead (s : State) (cl key n : Nat) : List Byte × State :=
  let ln := key / 128
  let s := s.recall ln
  match s.l2 cl ln with
  | some l => (lineSlice l.data key n, s)
  | none => (s.bytes key n, s)

/-- Engines write global lines at the home (13 R322, R323). -/
def State.engWrite (s : State) (cl key : Nat) (bs : List Byte) : State :=
  let ln := key / 128
  let s := s.recall ln
  let m := maskOf key bs.length
  let s := match s.l2 cl ln with
    | some l => s.setL2 cl ln (some { l with dirty := List.zipWith (fun a b => a && !b) l.dirty m })
    | none => s
  s.homeWrite ln (linePut (List.replicate 128 0) key bs) m none

/-! ### Releases and acquires (13 R316, R317) -/

/-- The accesses of every lane of the core have left its queues. -/
def Core.queuesEmpty (c : Core) : Bool := lanesAll.all fun l => (c.lq.get (laneIdx l)).isEmpty

/-- The accesses that issued before a pulse have left the queues (13 R316). -/
def Core.olderGone (c : Core) (p : Nat) : Bool := lanesAll.all fun l => (c.lq.get (laneIdx l)).all fun a => decide (p ≤ a.at_)

/-- A release of the scope closes the core's registrations (13 R326): towards its cluster, or towards every party. -/
def State.closeRegs (s : State) (c : CoreId) (sc : Scope) : State :=
  match sc with
  | .core => s
  | .cluster => { s with regs := s.regs.map fun r => if r.core = c.toNat then { r with clusterClosed := true } else r }
  | .package | .domain => { s with regs := s.regs.filter fun r => r.core != c.toNat }

/-- The FIFO up to a marker has been drained as its scope asks (13 R312), in one go. -/
def State.drainAll (s : State) (c : CoreId) (sc : Scope) : State :=
  let lines := (s.core c).fifo.filterMap fun i => match i with | .line n => some n | .mark _ _ => none
  let s := if sc = .core then s else lines.foldl (fun s n => s.drainLine c n) s
  if sc matches .package | .domain then
    let s := (s.core c).drained.foldl (fun s n => s.writeBack (clusterOf c) n) s
    s.updCore c fun x => { x with drained := [] }
  else s

/-- A new region begins (13 R325). -/
def State.newRegion (s : State) : State := s.updMe fun c => { c with region := [] }

/-- Step 2 of a release (13 R316): its marker enters the FIFO, and the word waits for the marker's MARK. -/
def State.insertMark (s : State) (l : Lane) (sc : Scope) (hold : Option Nat) : Except Halt State :=
  let (id, s) := s.take
  .error (.wait ((s.updMe fun c => { c with fifo := c.fifo ++ [.mark id sc] }).setProg l (.marker id hold)))

/-- The release part of a word of lane `l` of the core in focus; `acq` says that the word also acquires. In eager mode all its
moves are made at once; else the word waits for its marker's MARK. A write-back to another package that has failed is raised
here (17 R380). -/
def release (l : Lane) (sc : Scope) (acq : Bool) : Eff := fun s =>
  match (if sc matches .package | .domain then s.me.wbFail else none) with
  | some n => .error (.trapIn .fabricErr (BitVec.ofNat 64 (n * 128)) (s.updMe fun c => { c with wbFail := none }))
  | none =>
  match s.prog l with
  | .marker id _ =>
    if s.me.marked.contains id then
      .ok ((s.updMe fun c => { c with marked := c.marked.filter (· != id) }).setProg l .none |>.closeRegs s.focus sc |>.newRegion)
    else if s.eager then
      .ok (((s.updMe fun c => { c with fifo := c.fifo.filter (· != .mark id sc) }).setProg l .none).drainAll s.focus sc |>.closeRegs s.focus sc
        |>.newRegion)
    else .error (.wait s)
  | .older p h =>
    if !s.me.olderGone p then .error (.wait s)
    else if s.eager then .ok ((s.setProg l .none).drainAll s.focus sc |>.closeRegs s.focus sc |>.newRegion)
    else s.insertMark l sc h
  | _ =>
    let h := if acq then some s.now else none
    if !s.me.queuesEmpty then .error (.wait (s.setProg l (.older s.now h)))
    else if s.eager then .ok ((s.drainAll s.focus sc).closeRegs s.focus sc).newRegion
    else s.insertMark l sc h

/-- INV (13 R317): an acquire wider than core scope drops the own copies that are not exclusive. Their dirty bytes are
written down first (DEDUCED, log 11). -/
def State.invalidate (s : State) (c : CoreId) (sc : Scope) : State :=
  if sc = .core then s else
  (s.core c).l1.rows.foldl (fun s r => match r.2 with
    | some l => if l.ex then s else s.evict c r.1
    | none => s) s

/-- The acquire part of a word: a new region begins behind it. -/
def acquire (sc : Scope) (s : State) : State := (s.invalidate s.focus sc).newRegion

/-! ### Registrations (13 R326, R327) -/

def sameCluster (a b : CoreId) : Bool := clusterOf a == clusterOf b

/-- An open registration of another core on the granule, at least one of the two a write. -/
def State.raceOn (s : State) (c : CoreId) (g : Nat) (w : Bool) : Bool :=
  s.regs.any fun r => r.gran == g && r.core != c.toNat && (w || r.w) && !(r.clusterClosed && sameCluster c (BitVec.ofNat 11 r.core))

/-- The own copy of the granule is clean and stale. -/
def State.staleOn (s : State) (c : CoreId) (g : Nat) : Bool :=
  match s.l1 c (g / 4) with
  | some l => !((l.dirty.drop (32 * (g % 4))).take 32).any id && l.ver.getD (g % 4) 0 != (s.versAt c (g / 4)).getD (g % 4) 0
  | none => false

/-- A plain access registers its granule; a conflict raises MM_RACE with the access's address. -/
def register (c : CoreId) (va : Word) (key : Nat) (rd wr : Bool) (global : Bool) : Eff := fun s =>
  let g := key / 32
  let x := s.core c
  let have_ := x.region.find? fun p => p.1 == g
  let newR := rd && !(match have_ with | some (_, r, _) => r | none => false)
  let newW := wr && !(match have_ with | some (_, _, w) => w | none => false)
  if !newR && !newW then .ok s
  else if (newW && s.raceOn c g true) || (newR && s.raceOn c g false) || (newR && global && s.staleOn c g) then
    .error (.trap .mmRace va)
  else
    let (r0, w0) := match have_ with | some (_, r, w) => (r, w) | none => (false, false)
    let s := s.updCore c fun x => { x with region := (g, r0 || rd, w0 || wr) :: x.region.filter fun p => p.1 != g }
    let mine (r : Registration) : Bool := r.gran == g && r.core == c.toNat && !r.clusterClosed
    let reg : Registration := match s.regs.find? mine with
      | some o => { o with r := o.r || rd, w := o.w || wr }
      | none => { gran := g, core := c.toNat, r := rd, w := wr, clusterClosed := false }
    .ok { s with regs := reg :: s.regs.filter fun r => !mine r }

/-- A FAR meets an open registration (13 R326, R327, R335). -/
def State.farRace (s : State) (c : CoreId) (g : Nat) : Bool :=
  s.regs.any fun r => r.gran == g && (if r.core = c.toNat then r.w else r.r || r.w)

end Sys2Proof.Machine
end

