-- ==== Sys2Proof/Machine/Access.lean ====
section
/-! DEFINITION. Generic addresses (02 R68), translation (11 R299-R303), the checks of an access (05 R142), and performing
accesses: at once, or through the lane queues and vault paths (13 R313, R314, R321). -/

namespace Sys2Proof.Machine

open Sys2Proof

/-! ### Decoding a generic address (02 R68) -/

/-- What an address names: global memory, or a byte of a core's scratchpad, vault (`across`: by window 0x02) or
accumulator memory. -/
inductive Target where
  | global (va : Nat)
  | spad (c : CoreId) (own : Bool) (off : Nat)
  | vault (c : CoreId) (across : Bool) (off : Nat)
  | acc (c : CoreId) (off : Nat)
deriving DecidableEq, Repr

/-- The target without its offset. -/
def Target.base : Target → Target
  | .global _ => .global 0
  | .spad c o _ => .spad c o 0
  | .vault c a _ => .vault c a 0
  | .acc c _ => .acc c 0

/-- `decode` of 02 R68 for one byte, presented by core `me`; `none` is APERTURE. -/
def decodeByte (s : State) (me : CoreId) (a : Word) (wr : Bool) : Option Target :=
  let top := (bits a 57 7).toNat
  if top != (if a.getLsbD 56 then 0x7F else 0) then none
  else if bits a 56 8 != 0xFF then some (.global (bits a 0 57).toNat)
  else
    let w := (bits a 0 48).toNat
    match (bits a 48 8).toNat with
    | 0x00 => if w < (s.core me).ctl.pbReg ∨ (s.core me).ctl.pbSpad ≤ w then none else some (.spad me true w)
    | 0x01 => if 2 ^ 22 ≤ w then none else some (.vault me false w)
    | 0x02 =>
      let c : CoreId := BitVec.ofNat 11 (w / 2 ^ 22)
      if 2 ^ 33 ≤ w ∨ !coreOk c then none else some (.vault c true (w % 2 ^ 22))
    | 0x03 =>
      let c := peerOf me (w / 2 ^ 20)
      let o := w % 2 ^ 20
      if 2 ^ 23 ≤ w ∨ o < (s.core c).ctl.pbReg ∨ (s.core c).ctl.pbSpad ≤ o then none else some (.spad c false o)
    | 0x04 =>
      if 2 ^ 22 ≤ w ∨ 0x60000 ≤ w % 2 ^ 19 ∨ wr then none else some (.acc (peerOf me (w / 2 ^ 19)) (w % 2 ^ 19))
    | _ => none

/-- The decode of an access: its first and last byte name one window and one target. -/
def decodeAddr (s : State) (me : CoreId) (a : Word) (n : Nat) (wr : Bool) : Option Target :=
  match decodeByte s me a wr, decodeByte s me (a + BitVec.ofNat 64 (n - 1)) wr with
  | some t, some u => if t.base = u.base then some t else none
  | _, _ => none

/-- Natural scope of an address (06 R147); global memory is `domain`, a cluster scratchpad `cluster` (11 R284). -/
def Target.scope : Target → Scope
  | .global _ => .domain
  | .spad _ own _ => if own then .core else .cluster
  | .vault _ across _ => if across then .package else .core
  | .acc _ _ => .cluster

/-! ### Translation -/

/-- Size of a page class (11 R301). -/
def pageSize : Nat → Nat
  | 0 => 2 ^ 12 | 1 => 2 ^ 16 | 2 => 2 ^ 21 | 3 => 2 ^ 25 | 4 => 2 ^ 29 | 5 => 2 ^ 31 | _ => 2 ^ 34

/-- The channel of a local HBM byte (11 R287). -/
def hbmChannel (key : Nat) : Nat := key / 2 ^ 12 % 8 * 32 + key / 2 ^ 7 % 32

/-- The 8-byte words of [key, key + n) whose data is lost: uncorrectable, or in a channel removed from service (11 R278,
R289, R291). -/
def State.badWords (s : State) (key n : Nat) : List Nat :=
  if s.ue.isEmpty && s.ueOnce.isEmpty && s.pkg.health.rows.isEmpty then [] else
  let gone := if keyLocal key && (s.pkg.health.get (hbmChannel key)).removed then
      (List.range ((key % 8 + n + 7) / 8)).map fun i => key / 8 * 8 + 8 * i else []
  gone ++ (s.ueIn key n).filter fun k => !gone.contains k

/-- 8 bytes at a line's home, an exclusive owner's bytes included (11 R303); a lost word reads as zero (19 R418). -/
def State.homePeek (s : State) (key : Nat) : Nat :=
  let own := match s.owner.get (key / 128) with
    | none => none
    | some o => s.l1 (BitVec.ofNat 11 o) (key / 128)
  match own with
  | some l => leBytes (lineSlice l.data key 8)
  | none => if (s.badWords key 8).isEmpty then s.peekN key 8 else 0

/-- A word that `homePeek` reads is lost. -/
def State.homeLost (s : State) (key : Nat) : Bool :=
  !(s.badWords key 8).isEmpty && match s.owner.get (key / 128) with | none => true | some o => (s.l1 (BitVec.ofNat 11 o) (key / 128)).isNone

/-- Key of a physical address of HBM: the own package's alias is local (11 R286). -/
def State.physKey (s : State) (pa : Nat) : Nat :=
  if 0x2000000000000 ≤ pa ∧ (pa - 0x2000000000000) / 2 ^ 39 = s.pkg.pkgid.toNat then (pa - 0x2000000000000) % 2 ^ 39 else pa

/-- Class reported for a malformed entry of a level: that of the level's smallest page (11 R302). -/
def levelClass : Nat → Nat
  | 0 => 0 | 1 => 2 | 2 => 5 | _ => 6

/-- Class reported where an entry of a level is not valid (11 R302). -/
def missClass : Nat → Nat
  | 0 => 0 | 1 => 2 | _ => 6

/-- Whether a leaf of a level may have a size class (11 R300). -/
def sizeAt : Nat → Nat → Bool
  | 0, c => c == 0 || c == 1
  | 1, c => c == 2 || c == 3 || c == 4
  | 2, c => c == 5 || c == 6
  | _, _ => false

/-- Fields of a table entry (11 R301). -/
def eV (e : Nat) : Bool := natBit e 0
def eLeaf (e : Nat) : Bool := natBit e 1
def eSize (e : Nat) : Nat := e / 2 ^ 57 % 8
def ePhys (e : Nat) : Nat := e / 2 ^ 12 % 2 ^ 40 * 2 ^ 12
/-- Reserved bits of an entry, and in a pointer the bits that are zero there. -/
def eRsv (e : Nat) : Bool :=
  e / 2 ^ 60 != 0 || e / 2 ^ 52 % 32 != 0 || e / 2 ^ 7 % 32 != 0 || (!eLeaf e && (eSize e != 0 || e / 4 % 32 != 0))

/-- The run of a page larger than its level's span: every entry agrees, and the physical page is aligned (11 R300). -/
def runOk (s : State) (table idx e level : Nat) : Bool :=
  let span := 12 + 9 * level
  let cnt := pageSize (eSize e) / 2 ^ span
  let first := idx / cnt * cnt
  let base := ePhys e - (idx - first) * 2 ^ span
  decide ((idx - first) * 2 ^ span ≤ ePhys e) && base % pageSize (eSize e) == 0 &&
  (List.range cnt).all fun i =>
    let f := s.homePeek (s.physKey (table + 8 * (first + i)))
    ePhys f == base + i * 2 ^ span && f % 2 ^ 12 == e % 2 ^ 12 && f / 2 ^ 52 == e / 2 ^ 52

/-- The lost words among the entries of a run (19 R418). -/
def runLost (s : State) (table idx e level : Nat) : Nat :=
  let cnt := pageSize (eSize e) / 2 ^ (12 + 9 * level)
  ((List.range cnt).filter fun i => s.homeLost (s.physKey (table + 8 * (idx / cnt * cnt + i)))).length

/-- What a walk gives: the translation or the size class of its cause, and the lost words it has met. -/
structure Walked where
  res : Except Nat TlbEntry
  lost : Nat

/-- The walk from a level's table (11 R300-R302); the error is the size class of the translation cause. -/
def walkFrom (s : State) (vf va : Nat) : Nat → Nat → Walked
  | table, level =>
    let idx := va / 2 ^ (12 + 9 * level) % 512
    let key := s.physKey (table + 8 * idx)
    let e := s.homePeek key
    if !eV e then { res := .error (missClass level), lost := if s.homeLost key then 1 else 0 }
    else if eRsv e || (eLeaf e && (eSize e == 7 || e / 16 % 4 == 3 || !sizeAt level (eSize e))) then { res := .error (levelClass level), lost := 0 }
    else if eLeaf e then
      if !runOk s table idx e level then { res := .error (eSize e), lost := runLost s table idx e level }
      else
        let sz := pageSize (eSize e)
        let off := va % sz / 2 ^ (12 + 9 * level) * 2 ^ (12 + 9 * level)
        { res := .ok { vf := vf, va := va / sz * sz, pa := ePhys e - off, size := sz, cls := eSize e, sys := natBit e 6,
                       mt := e / 16 % 4, x := natBit e 3, w := natBit e 2 }, lost := 0 }
    else match level with
      | 0 => { res := .error 0, lost := 0 }
      | l + 1 => walkFrom s vf va (ePhys e) l

/-- The translation of a virtual function's address through its root register (11 R299). -/
def walk (s : State) (vf va : Nat) : Walked :=
  let f := s.vfs.get vf
  if !f.en then { res := .error 6, lost := 0 } else walkFrom s vf va (f.root.toNat * 2 ^ 12) 4

def TlbEntry.covers (e : TlbEntry) (vf va : Nat) : Bool := e.vf == vf && decide (e.va ≤ va) && decide (va < e.va + e.size)

/-- Who presents an access: an owner class of 02 R60, the core (and its cluster) it goes through, the virtual function in
whose space it is translated, whether it may use system pages, whether a TLB miss is a missed schedule. -/
structure Who where
  owner : Owner
  core : CoreId
  vf : Nat
  sys : Bool
  timed : Bool
  /-- the X engine: its bytes are charged (21 R432) -/
  pays : Bool := false
deriving DecidableEq, Repr

/-- A lane of the core in focus. -/
def State.lanes (s : State) : Who :=
  { owner := .lanes, core := s.focus, vf := s.me.ctl.vfid, sys := s.me.ctl.pl, timed := s.timed }
/-- An engine of the core in focus. -/
def State.engine (s : State) : Who := { s.lanes with owner := .xe, timed := false }

/-- A page's translation, from the TLBs or by a walk whose result they then hold (11 R303). -/
def translate (w : Who) (va : Nat) (s : State) : Except Halt (Except Nat TlbEntry × State) :=
  match (s.core w.core).tlb.find? fun e => e.covers w.vf va with
  | some e => .ok (.ok e, s)
  | none =>
    match (s.cluster (clusterOf w.core)).tlb.find? fun e => e.covers w.vf va with
    | some e => .ok (.ok e, s.updCore w.core fun c => { c with tlb := e :: c.tlb.take 63 })
    | none =>
      if w.timed then .error (.trap .schedMiss s.cycIn)
      else
        let r := walk s w.vf va
        let s := if r.lost = 0 then s else s.updCore w.core fun c => { c with uedata := c.uedata + r.lost }
        match r.res with
        | .error k => .ok (.error k, s)
        | .ok e => .ok (.ok e, (s.updCore w.core fun c => { c with tlb := e :: c.tlb.take 63 }).updCluster (clusterOf w.core)
                     fun k => { k with tlb := e :: k.tlb.take 4095 })

/-! ### Where an access goes -/

structure Loc where
  place : Place
  key : Nat
  /-- a line of HBM, that the caches may hold -/
  global : Bool
  scope : Scope
deriving DecidableEq, Repr

/-- The register block at a physical address (21 R441). -/
def State.blockAt (s : State) (pa : Nat) : Option (RegBlock × Nat) :=
  match s.pkg.img with
  | none => none
  | some i => match i.windows.find? fun w => decide (w.base ≤ pa) && decide (pa < w.base + w.size) with
    | some w => some (w.block, pa - w.base)
    | none => none

/-- HBM of another package is reached (17 R379); a number from 512 on is beyond the domain (log 67). -/
def State.fabricOk (s : State) (vf q : Nat) : Bool :=
  decide (q < 512) && s.pkg.routes.get q != 0 && (s.pkg.masks.get vf).getLsbD q

/-- HBM of the domain at [pa, pa + n): the package and the offset in it (11 R286, 17 R379). -/
def remoteHbm (pa n : Nat) : Option (Nat × Nat) :=
  let o := (pa - 0x2000000000000) % 2 ^ 39
  if 0x2000000000000 ≤ pa ∧ pa < 0xFE00000000000 ∧ o + n ≤ hbmSize then some ((pa - 0x2000000000000) / 2 ^ 39, o) else none

/-- Where a translated physical address lies (11 R284, R286); the checks below the permission row of 05 R142. The control window of the
Signal Box is for system level alone (10 R260). Where the image places no window, nothing is placed: the permission cause (log 31). -/
def placeOf (w : Who) (a : Word) (e : TlbEntry) (pa n : Nat) (s : State) : Except Halt Loc :=
  let cache : Place := if e.mt = 0 then .cached else .uncached
  if pa + n ≤ hbmSize then .ok { place := cache, key := pa, global := true, scope := .domain }
  else match remoteHbm pa n with
  | some (q, o) =>
    if q = s.pkg.pkgid.toNat then .ok { place := cache, key := o, global := true, scope := .domain }
    else if !s.fabricOk w.vf q then .error (.trap .fabricErr a)
    else .ok { place := cache, key := pa, global := true, scope := .domain }
  | none =>
    if 0xFE00000000000 ≤ pa ∧ pa < 0xFE00012000000 then
      let ci := (pa - 0xFE00000000000) / 0x200000
      let o := (pa - 0xFE00000000000) % 0x200000
      if ci != clusterOf w.core || decide ((s.cluster ci).conv * 0x20000 < o + n) then .error (.trap .aperture a)
      else .ok { place := .uncached, key := pa, global := false, scope := .cluster }
    else if 0xFF00000000000 ≤ pa ∧ pa < 2 ^ 52 then
      match s.blockAt pa with
      | some (b, o) =>
        if b = .sbox ∧ !w.sys then .error (.trap .permission a)
        else .ok { place := .device b o, key := pa, global := false, scope := .domain }
      | none => .error (.trap .permission a)
    else .error (.trap .permission a)

/-- Owner of the slot at a pool offset of a core (02 R60). -/
def Core.slotOwner (c : Core) (o : Nat) : Owner := c.slots.get ((o - c.ctl.pbReg) / 4096)

/-- A binding covers a byte of a core's vault, for commands of cluster `cl` (09 R238, R242). -/
def Binding.covers (b : Binding) (cl : Nat) (c : CoreId) (o : Nat) : Bool :=
  let w := match b.ety with | 0 => 8 | 1 => 4 | _ => 2
  (if b.g = 0 then clusterOf c == cl else decide (clusterOf c < 2 ^ b.g)) && decide (posOf c < 2 ^ b.c)
    && decide (b.base ≤ o) && decide (o < b.base + w * 2 ^ b.v)

/-- An uncompleted Turntable command's binding covers a byte of [o, o + n) of a core's vault (09 R242). -/
def State.turnBusy (s : State) (c : CoreId) (o n : Nat) : Bool :=
  s.clusters.rows.any fun r => r.2.turn.queue.any fun q =>
    match q.under with
    | some b => (List.range n).any fun i => b.covers r.1 c (o + i)
    | none => false

/-- The checks of an access of `n` bytes, in the order of 05 R142 up to the owner's: where it goes, and the state with the
translation in the TLBs. `align`: the access of a lane is a multiple of its size; `x`: a code fetch. -/
def locate (w : Who) (a : Word) (n : Nat) (wr align x : Bool) (s : State) : Except Halt (Loc × State) :=
  match decodeAddr s w.core a n wr with
  | none => .error (.trap .aperture a)
  | some (.acc c o) =>
    let b := (s.core c).banks.get (o / 12288)
    if !b.alloc then .error (.trap .accUnalloc a)
    else if b.holder != w.core then .error (.trap .accBand a)
    else if align || o % 12 != 0 || n % 12 != 0 then .error (.trap .misalign a)
    else .ok ({ place := .peer c, key := keyAcc c (o / 12288) (o % 12288), global := false, scope := .cluster }, s)
  | some t =>
    if align && a.toNat % n != 0 then .error (.trap .misalign a)
    else match t with
    | .global va => do
      let (r, s) ← translate w va s
      match r with
      | .error k => .error (.trap (.xlate k) a)
      | .ok e =>
        if (wr && !e.w) || (x && !e.x) || (e.sys && !w.sys) then .error (.trap .permission a)
        else
          let l ← placeOf w a e (e.pa + (va - e.va)) n s
          .ok (l, s)
    | .spad c own o =>
      if (s.core c).slotOwner o != w.owner || (s.core c).slotOwner (o + n - 1) != w.owner then .error (.trap .ownerViolation a)
      else .ok ({ place := if own then .scratch else .peer c, key := keyPool c o, global := false, scope := t.scope }, s)
    | .vault c across o =>
      if wr && s.turnBusy c o n then .error (.trap .turnBusy a)
      else .ok ({ place := if across then .horz c else .vert, key := keyVault c o, global := false, scope := t.scope }, s)
    | .acc _ _ => .error (.trap .aperture a)

/-! ### Performing accesses -/

/-- Performs the writes of a path, oldest first. -/
def runPath (s : State) (p : List (Nat × List Byte)) : State := p.foldl (fun s w => s.poke w.1 w.2) s

/-- The writes on the vertical path of a core, oldest first. -/
def Core.vwrites (c : Core) : List (Nat × List Byte) := c.vpath.map fun w => (w.1, w.2.1)

/-- Every write on the paths of a core is performed (13 R313 VERT, HORZ). -/
def State.runPaths (s : State) (c : CoreId) : State :=
  let s := runPath s (s.core c).vwrites
  let s := (s.core c).hpath.rows.foldl (fun s r => runPath s r.2) s
  s.updCore c fun x => { x with vpath := [], hpath := x.hpath.all fun _ => [] }

/-- A read of `n` bytes at its place by core `c` (13 R313 READ). -/
def placeRead (s : State) (c : CoreId) (p : Place) (key n : Nat) : List Byte × State :=
  match p with
  | .cached => s.readCached c key n
  | .uncached => let s := s.recall (key / 128); (s.bytes key n, s)
  | .vert =>
    let s := ((runPath s (s.core c).vwrites).updCore c fun x => { x with vpath := [] }).spend c (5 * n)
    (s.bytes key n, s)
  | .horz t =>
    let s := ((runPath s ((s.core c).hpath.get t.toNat)).updCore c fun x => { x with hpath := x.hpath.set t.toNat [] }).spend c (5 * n)
    (s.bytes key n, s)
  | .device b o => (blockRead s b o n, s)
  | .scratch | .peer _ => (s.bytes key n, s)

/-- A write leaves the lane queue (13 R313 WRITE): into the L1, to its target, or into a vault path, which `by_` names the last
pulse for. In eager mode an empty path lets it through at once. -/
def placeWrite (s : State) (c : CoreId) (p : Place) (key : Nat) (bs : List Byte) (by_ : Nat) : State :=
  match p with
  | .cached => s.writeCached c key bs
  | .uncached =>
    let s := s.recall (key / 128)
    if key < 2 ^ 51 then s.homeWrite (key / 128) (linePut (List.replicate 128 0) key bs) (maskOf key bs.length) none else s.poke key bs
  | .vert =>
    let s := s.spend c (5 * bs.length)
    if s.eager && (s.core c).vpath.isEmpty then s.poke key bs else s.updCore c fun x => { x with vpath := x.vpath ++ [(key, bs, by_)] }
  | .horz t =>
    let s := s.spend c (5 * bs.length)
    if s.eager && ((s.core c).hpath.get t.toNat).isEmpty then s.poke key bs else
      s.updCore c fun x => { x with hpath := x.hpath.upd t.toNat fun q => q ++ [(key, bs)] }
  | .device b o => blockWrite s b o bs
  | .scratch | .peer _ => s.poke key bs

/-- The figure of 05 R125 for a load, where the manual gives one. -/
def figure (s : State) (c : CoreId) (l : Loc) : Option Nat :=
  match l.place with
  | .scratch => some 3
  | .vert => some 8
  | .peer _ => some 9
  | .cached => if (s.l1 c (l.key / 128)).isSome then some 4 else none
  | _ => none

/-- Cycles until a load's result is readable (05 R125); loads that the manual does not bound take the state's next open
latency. -/
def loadLat (s : State) (c : CoreId) (l : Loc) : Nat × State :=
  match figure s c l with
  | some n => (n, s)
  | none => s.openLat

/-- The bytes of a read with the newest queued writes of the same lane over them (13 R314). -/
def overlay (q : List Acc) (key : Nat) (bs : List Byte) : List Byte :=
  q.foldl (fun bs a => if a.isWrite then
    bs.zipIdx.map fun b => if a.key ≤ key + b.2 ∧ key + b.2 < a.key + a.n then a.data.getD (key + b.2 - a.key) 0 else b.1
    else bs) bs

/-- Pattern of `n` bytes with those of lost words replaced: byte `i` of the access by byte `i` of `repl` (19 R418). -/
def replaced (key : Nat) (bs repl : List Byte) (bad : List Nat) : List Byte :=
  if bad.isEmpty then bs else
  bs.zipIdx.map fun b => if bad.any fun k => k ≤ key + b.2 ∧ key + b.2 < k + 8 then repl.getD b.2 0 else b.1

/-- Key of `Regs.ready` of a load's destination. -/
def Dest.key : Dest → Option Nat
  | .none => Option.none
  | .sreg n _ => if n = 0 then Option.none else some (kS n)
  | .vec p _ _ => some (kV p)
  | .tile t _ => some (kT (BitVec.ofNat 3 t))
  | .exp _ _ => some kExp
  | .que _ _ _ => Option.none

/-- Bytes written into a vector register (02 R47). -/
def putVec (v : BitVec 2048) (off : Nat) (bs : List Byte) : BitVec 2048 :=
  BitVec.ofNat 2048 (leBytes ((toBytes 256 v.toNat).take off ++ bs ++ (toBytes 256 v.toNat).drop (off + bs.length)))

/-- The same, but for bytes of `skip`. -/
def putSome (v : BitVec 2048) (off : Nat) (bs : List Byte) (skip : List Nat) : BitVec 2048 :=
  if skip.isEmpty then putVec v off bs else bs.zipIdx.foldl (fun v b => if skip.contains b.2 then v else putVec v (off + b.2) [b.1]) v

/-- The value of a load arrives. -/
def State.deliver (s : State) (d : Dest) (bs : List Byte) : State :=
  match d with
  | .none => s
  | .sreg n sg =>
    let v := leBytes bs
    let x : Word := if sg then BitVec.ofInt 64 (natSigned (8 * bs.length) v) else BitVec.ofNat 64 v
    if n = 0 then s else s.updR fun r => { r with s := r.s.set n.toNat x }
  | .vec p o sk => s.updMe fun c => { c with v := c.v.upd p fun v => putSome v o bs sk }
  | .tile t i => s.updMe fun c => { c with tiles := c.tiles.upd t fun x => { x with el := x.el.set i (BitVec.ofNat 32 (leBytes bs)) } }
  | .exp e o =>
    let v := leBytes bs
    s.updMe fun c => { c with exps := c.exps.upd e fun x =>
      if o < 32 then { x with c := x.c.set o (BitVec.ofNat 64 v) }
      else if o = 32 then { x with centre := BitVec.ofNat 64 v }
      else if o = 33 then { x with radius := BitVec.ofNat 32 v, isLocal := natBit v 32 }
      else x }
  | .que q i w =>
    let f (e : QEntry) : QEntry := if e.id = i then { e with data := putVec e.data (8 * w) bs, left := e.left - 1 } else e
    s.updMe fun c => { c with q := c.q.upd q fun l => l.map f }

/-- What a lane load leaves: the cycles until its value is readable, none while it stands in its lane's queue; the lost words it
met; the state. -/
structure Loaded where
  lat : Option Nat
  bad : List Nat
  st : State

/-- A remote line whose request has had no answer fails the access that needs it, once (17 R380). -/
def reached (l : Loc) (a : Word) (s : State) : Except Halt Unit :=
  if l.global && !keyLocal l.key && s.me.remoteFail.contains (l.key / 128) then .error (.unreached (l.key / 128) a) else .ok ()

/-- The bytes of an access that no older write of its lane's queue covers. -/
def bare (q : List Acc) (key n : Nat) : List Nat :=
  (List.range n).filter fun i => !q.any fun a => a.isWrite && decide (a.key ≤ key + i) && decide (key + i < a.key + a.n)

/-- The value of a read at its turn (13 R313 READ, R314): the newest older queued write of its lane where one covers the byte, else
the place, with lost bytes replaced (19 R418). -/
def readAcc (s : State) (c : CoreId) (q : List Acc) (p : Place) (key n : Nat) (repl : List Byte) : List Byte × State :=
  if q.isEmpty then
    let (bs, s) := placeRead s c p key n
    (replaced key bs repl (s.badWords key n), s)
  else if (bare q key n).isEmpty then (overlay q key (List.replicate n 0), s)
  else
    let (bs, s) := placeRead s c p key n
    (overlay q key (replaced key bs repl (s.badWords key n)), s)

/-- An access by lane `l` may be performed as its word issues: in eager mode, with nothing of its lane before it. -/
def State.atOnce (s : State) (l : Lane) (a : Acc) : Bool :=
  s.eager && (s.me.lq.get (laneIdx l)).isEmpty && s.me.mayLeave l 0 a

/-- An access enters its lane's queue. -/
def State.enqueue (s : State) (l : Lane) (a : Acc) : State := s.updMe fun c => { c with lq := c.lq.upd (laneIdx l) fun x => x ++ [a] }

/-- A lane load of `n` bytes: the checks of 05 R142, the registration, and the access, performed at once or queued. `more` turns
the figure of 05 R125 into the pulses until the value is readable. -/
def laneLoad (l : Lane) (a : Word) (n : Nat) (d : Dest) (repl : List Byte) (plain : Bool) (more : Nat → Nat) (s : State) :
    Except Halt Loaded := do
  let (loc, s) ← locate s.lanes a n false true false s
  let s ← if plain then register s.focus a loc.key true false loc.global s else .ok s
  reached loc a s
  let q := s.me.lq.get (laneIdx l)
  let bad := (s.badWords loc.key n).filter fun k => q.isEmpty || (bare q loc.key n).any fun i => k ≤ loc.key + i ∧ loc.key + i < k + 8
  let acc : Acc := { isWrite := false, place := loc.place, key := loc.key, n := n, data := [], dest := d, repl := repl, at_ := s.now,
                     fig := (figure s s.focus loc).map more }
  if s.atOnce l acc then
    let (lat, s) := loadLat s s.focus loc
    let (bs, s) := readAcc s s.focus [] loc.place loc.key n repl
    .ok { lat := some lat, bad := bad, st := s.deliver d bs }
  else
    let s := s.enqueue l acc
    .ok { lat := none, bad := bad, st := match d.key with | some k => s.updR fun r => { r with ready := r.ready.set k none } | none => s }

/-- Places of a lane's store queue in use: one for each word that has stored (05 R143; `CALL` takes one: log 45). -/
def Core.queuedStores (c : Core) (l : Lane) : Nat := (((c.lq.get (laneIdx l)).filter (·.isWrite)).map Acc.at_).eraseDups.length

/-- The S lane's store queue has a free place (05 R143). -/
def needStore (l : Lane) (s : State) : Except Halt Unit := needThat (l != .s || decide (s.me.queuedStores .s < 8)) s

/-- A lane store: the checks of 05 R142, the registration, and the access. On a cycle on which several lanes issue, a store is made
at the end of the cycle, so that a read of the cycle gets the old bytes (11 R277). -/
def laneStore (l : Lane) (a : Word) (bs : List Byte) (plain : Bool) : Eff := fun s => do
  let (loc, s) ← locate s.lanes a bs.length true true false s
  let s ← if plain then register s.focus a loc.key false true loc.global s else .ok s
  reached loc a s
  let acc : Acc := { isWrite := true, place := loc.place, key := loc.key, n := bs.length, data := bs, dest := .none, repl := [],
                     at_ := s.now, fig := none }
  if s.atOnce l acc && s.me.latch.isNone then .ok (placeWrite s s.focus loc.place loc.key bs s.now)
  else .ok (s.enqueue l acc)

/-- A read of the lane stands in its queue. -/
def Core.readsQueued (c : Core) (l : Lane) : Bool := (c.lq.get (laneIdx l)).any fun q => !q.isWrite

/-- A lane read whose value the word itself needs: earlier reads of the lane's queue, and what its path and the core's barriers
order before it, come first (13 R314). -/
def readNow (l : Lane) (a : Word) (n : Nat) (align : Bool) (s : State) : Except Halt (List Byte × State) := do
  let (loc, s1) ← locate s.lanes a n false align false s
  reached loc a s1
  let q := s1.me.lq.get (laneIdx l)
  let acc : Acc := { isWrite := false, place := loc.place, key := loc.key, n := n, data := [], dest := .none, repl := [], at_ := s1.now,
                     fig := none }
  if !s1.me.mayLeave l q.length acc then .error (.wait s)
  else
    let bad := (s1.badWords loc.key n).filter fun k => (bare q loc.key n).any fun i => k ≤ loc.key + i ∧ loc.key + i < k + 8
    let (bs, s2) := readAcc s1 s1.focus q loc.place loc.key n (List.replicate n 0)
    .ok (bs, s2.updMe fun c => { c with uedata := c.uedata + bad.length })

/-- A value that arrives for a scalar written anew since its load issued is discarded. -/
def State.superseded (s : State) (d : Dest) : Bool :=
  match d with
  | .sreg n _ => n = 0 || (s.me.r.ready.get (kS n)).isSome
  | _ => false

/-- A load into key `k` stands in a queue of the core. -/
def Core.loading (c : Core) (k : Nat) : Bool := lanesAll.any fun l => (c.lq.get (laneIdx l)).any fun a => a.dest.key == some k

/-- A piece of a queue entry has come, to be popped from pulse `p` on (02 R49). -/
def QEntry.came (e : QEntry) (p : Nat) (now : Bool) : QEntry :=
  { e with ready := max e.ready p, filled := e.filled || (e.left == 0 && (now || !e.unbounded)) }

/-- READ of queued access `a` (13 R313), `q` the older ones of its lane: its value arrives, readable by its figure, and on the next
cycle where it has none. -/
def State.performRead (s : State) (l : Lane) (q rest : List Acc) (a : Acc) : State :=
  let (bs, s) := readAcc s s.focus q a.place a.key a.n a.repl
  let s := s.updMe fun c => { c with lq := c.lq.set (laneIdx l) rest }
  if s.superseded a.dest then s else
  let s := s.deliver a.dest bs
  let p := match a.fig with | some n => max (a.at_ + n) s.now | none => s.now + 1
  match a.dest, a.dest.key with
  | .que k i _, _ =>
    let eager := s.eager
    s.updMe fun c => { c with q := c.q.upd k fun l => l.map fun e => if e.id = i then e.came p eager else e }
  | _, some k =>
    let more := s.me.loading k
    s.updR fun r => r.join k (if more then p else max p (r.readyAt (kLate k))) more false
  | _, none => s

/-- WRITE of queued access `a`. -/
def State.performWrite (s : State) (l : Lane) (rest : List Acc) (a : Acc) : State :=
  (placeWrite s s.focus a.place a.key a.data (a.at_ + 32)).updMe fun c => { c with lq := c.lq.set (laneIdx l) rest }

/-- Access `i` of a lane's queue leaves it, where it may (13 R314). -/
def State.leave (s : State) (l : Lane) (i : Nat) : State :=
  let q := s.me.lq.get (laneIdx l)
  match q[i]? with
  | none => s
  | some a =>
    if !s.me.mayLeave l i a then s
    else if a.isWrite then s.performWrite l (q.eraseIdx i) a else s.performRead l (q.take i) (q.eraseIdx i) a

/-- The oldest read of a lane's queue is performed (13 R313 READ). -/
def State.readMove (s : State) (l : Lane) : State :=
  match (s.me.lq.get (laneIdx l)).findIdx? fun a => !a.isWrite with
  | none => s
  | some i => s.leave l i

/-- The oldest write of a lane's queue leaves it (13 R313 WRITE). -/
def State.writeMove (s : State) (l : Lane) : State :=
  match (s.me.lq.get (laneIdx l)).findIdx? fun a => a.isWrite with
  | none => s
  | some i => s.leave l i

/-- The lane whose oldest queued access issued first, among those that hold an access that is due and may let their oldest leave. -/
def Core.nextLeave (c : Core) (due : Acc → Bool) : Option Lane :=
  (lanesAll.filterMap fun l =>
    match c.lq.get (laneIdx l) with
    | [] => none
    | a :: t => if (a :: t).any due && c.mayLeave l 0 a then some (l, a.at_) else none).foldl
      (fun (m : Option (Lane × Nat)) x => match m with | some y => if x.2 < y.2 then some x else m | none => some x) none |>.map Prod.fst

/-- Queued accesses leave in issue order while one that is due stands in a queue. -/
def State.letLeave (due : Acc → Bool) : Nat → State → State
  | 0, s => s
  | n + 1, s => match s.me.nextLeave due with
    | some l => letLeave due n (s.leave l 0)
    | none => s

/-- Accesses in the core's queues. -/
def Core.inQueues (c : Core) : Nat := lanesAll.foldl (fun n l => n + (c.lq.get (laneIdx l)).length) 0

/-- Accesses leave the queues of the core in focus: in eager mode all that may, else those whose time has come (13 R315). -/
def State.flushQueues (s : State) : State :=
  if s.me.inQueues = 0 then s else
  let now := s.now
  let s := State.letLeave (fun a => s.eager || (match a.limit with | some p => decide (p ≤ now) | none => false)) s.me.inQueues s
  s

/-- Writes on the vertical path whose time has come are performed, in eager mode all of both paths (13 R313, R315). -/
def State.flushPaths (s : State) : State :=
  if s.me.vpath.isEmpty && s.me.hpath.rows.all (fun r => r.2.isEmpty) then s
  else if s.eager then s.runPaths s.focus
  else
    let now := s.now
    let k := s.me.vpath.length - ((s.me.vpath.reverse.takeWhile fun w => decide (now < w.2.2)).length)
    (runPath s (s.me.vwrites.take k)).updMe fun c => { c with vpath := c.vpath.drop k }

/-! ### Engine accesses (13 R322, R323) -/

/-- An X engine's bytes are charged (21 R432): 0.1 nJ for 256 over a vault path, 0.02 nJ each to or from HBM, the fabric or
the other die. -/
def chargeEngine (w : Who) (p : Place) (n : Nat) (s : State) : State :=
  if !w.pays then s else
  match p with
  | .vert => s.spend w.core (5 * n)
  | .horz t => s.spend w.core (if dieOf t = dieOf w.core then 5 * n else 261 * n)
  | .cached | .uncached => s.spend w.core (256 * n)
  | .scratch | .peer _ | .device _ _ => s

/-- What an engine has read: the bytes, the places among them whose data is lost, and the state. -/
structure EngGot where
  bs : List Byte
  lost : List Nat
  st : State

/-- An engine read of `n` bytes within one granule's place; lost words are counted for the die (19 R418). -/
def engineRead (w : Who) (a : Word) (n : Nat) (s : State) : Except Halt EngGot := do
  let (loc, s) ← locate w a n false false false s
  let s := chargeEngine w loc.place n s
  let (bs, s) := match loc.place with
    | .cached | .uncached => if loc.global then s.engRead (clusterOf w.core) loc.key n else (s.bytes loc.key n, s)
    | .device b o => (blockRead s b o n, s)
    | _ => (s.bytes loc.key n, s)
  let bad := s.badWords loc.key n
  let s := if bad.isEmpty then s else s.updDie (dieOf w.core) fun d => { d with uedata := d.uedata + bad.length }
  .ok { bs := bs, lost := if bad.isEmpty then [] else (List.range n).filter fun i => bad.any fun k => k ≤ loc.key + i ∧ loc.key + i < k + 8,
        st := s }

/-- An engine write within one granule's place. -/
def engineWrite (w : Who) (a : Word) (bs : List Byte) (s : State) : Except Halt State := do
  let (loc, s) ← locate w a bs.length true false false s
  let s := chargeEngine w loc.place bs.length s
  .ok (match loc.place with
    | .cached | .uncached => if loc.global then s.engWrite (clusterOf w.core) loc.key bs else s.poke loc.key bs
    | .device b o => blockWrite s b o bs
    | _ => s.poke loc.key bs)

/-- Cuts [a, a + n) at multiples of `g`: addresses and lengths. -/
def cuts (g : Nat) : Nat → Nat → Nat → List (Nat × Nat)
  | 0, _, _ => []
  | fuel + 1, a, n => if n = 0 then [] else
    let k := min n (g - a % g)
    (a, k) :: cuts g fuel (a + k) (n - k)

/-- The accesses of an engine's run: granules of 32 bytes; through window 0x04, entries of 12 (02 R68). -/
def runCuts (a : Word) (n : Nat) : List (Nat × Nat) :=
  if bits a 48 16 == 0xFF04 then (List.range ((n + 11) / 12)).map fun i => (a.toNat + 12 * i, min 12 (n - 12 * i))
  else cuts 32 (n / 32 + 2) a.toNat n

/-- An engine read of a run of bytes as they stand; the first access that fails decides. -/
def engineReadRaw (w : Who) (a : Word) (n : Nat) (s : State) : Except Halt EngGot :=
  (runCuts a n).foldlM (fun (r : EngGot) c => do
    let g ← engineRead w (BitVec.ofNat 64 c.1) c.2 r.st
    .ok { bs := r.bs ++ g.bs, lost := r.lost ++ g.lost.map fun i => r.bs.length + i, st := g.st }) { bs := [], lost := [], st := s }

/-- Byte at an address of the pattern that replaces lost bytes without a type (19 R418). -/
def untyped (a : Nat) : Byte := (toBytes 4 0x7FC0DEAD).getD (a % 4) 0

/-- Bytes with the lost ones replaced as a transfer replaces them. -/
def EngGot.carried (g : EngGot) (a : Word) : List Byte :=
  if g.lost.isEmpty then g.bs else g.bs.zipIdx.map fun b => if g.lost.contains b.2 then untyped (a.toNat + b.2) else b.1

/-- Bytes with the lost ones zero (19 R418: descriptors, table entries). -/
def EngGot.zeroed (g : EngGot) : List Byte :=
  if g.lost.isEmpty then g.bs else g.bs.zipIdx.map fun b => if g.lost.contains b.2 then 0 else b.1

/-- An engine read of a run of bytes, without a type. -/
def engineReadRun (w : Who) (a : Word) (n : Nat) (s : State) : Except Halt (List Byte × State) := do
  let g ← engineReadRaw w a n s
  .ok (g.carried a, g.st)

/-- An engine write of a run of bytes. -/
def engineWriteRun (w : Who) (a : Word) (bs : List Byte) (s : State) : Except Halt State :=
  (runCuts a bs.length).foldlM (fun s c =>
    engineWrite w (BitVec.ofNat 64 c.1) ((bs.drop (c.1 - a.toNat)).take c.2) s) s

/-- The checks of an engine access to a run, without the access. -/
def engineCheckRun (w : Who) (a : Word) (n : Nat) (wr : Bool) (s : State) : Except Halt State :=
  (runCuts a n).foldlM (fun s c => do
    let (_, s) ← locate w (BitVec.ofNat 64 c.1) c.2 wr false false s
    .ok s) s

/-! ### Descriptor walks (08 R211) -/

/-- A window walk. -/
def Desc.window (d : Desc) : Bool := d.win.getLsbD 7

/-- The walk is well formed. -/
def Desc.shapeOk (d : Desc) : Bool :=
  if d.cnt1 = 0 then d.cnt2 == 0
  else if d.cnt2 = 0 then d.len.toNat % d.cnt1.toNat == 0
  else d.len.toNat % (d.cnt1.toNat * d.cnt2.toNat) == 0

/-- Bytes of the inner run. -/
def Desc.row (d : Desc) : Nat :=
  if d.cnt1 = 0 then d.len.toNat
  else if d.cnt2 = 0 then d.len.toNat / d.cnt1.toNat
  else d.len.toNat / (d.cnt1.toNat * d.cnt2.toNat)

/-- Address of walk byte `c`. -/
def Desc.addr (d : Desc) (c : Nat) : Word :=
  if d.cnt1 = 0 then d.base + BitVec.ofNat 64 c
  else if d.cnt2 = 0 then d.base + BitVec.ofNat 64 (c / d.row) * sextW d.str1 + BitVec.ofNat 64 (c % d.row)
  else
    let r := c / d.row
    d.base + BitVec.ofNat 64 (r / d.cnt1.toNat) * sextW d.str2 + BitVec.ofNat 64 (r % d.cnt1.toNat) * sextW d.str1
      + BitVec.ofNat 64 (c % d.row)

/-- Walk bytes c .. c + n - 1 stand at addresses that follow one another. -/
def Desc.contiguous (d : Desc) (c n : Nat) : Bool :=
  (d.cnt1 = 0 : Bool) || (List.range n).all fun i => d.addr (c + i) == d.addr c + BitVec.ofNat 64 i

/-- The runs of walk bytes [c, c + n): walk byte and length of each, cut where the inner run ends; `fuel` bounds them. -/
def Desc.runs (d : Desc) : Nat → Nat → Nat → List (Nat × Nat)
  | 0, _, _ => []
  | fuel + 1, c, n =>
    if n = 0 then [] else
    let k := if d.cnt1 = 0 then n else min n (d.row - c % d.row)
    (c, k) :: d.runs fuel (c + k) (n - k)

/-- The inner run that walk byte `c` lies in: its address, and the place of the byte in it. -/
def Desc.runAt (d : Desc) (c : Nat) : Word × Nat := if d.cnt1 = 0 then (d.base, c) else (d.addr (c - c % d.row), c % d.row)

/-- Bytes from walk byte `c` on, of `n` in all, that one granule access covers: of one granule, one inner run and one of the rows of
`row` bytes (0: none). -/
def Desc.unitLen (d : Desc) (row n c : Nat) : Nat :=
  let k := min (n - c) (32 - (d.addr c).toNat % 32)
  let k := if d.cnt1 = 0 then k else min k (d.row - c % d.row)
  if row = 0 then k else min k (row - c % row)

/-- The units of a copy of `n` bytes to a walk, from walk byte `c` on: each the bytes of one granule access (13 R313 ENG); `fuel` bounds
them. -/
def Desc.unitsFrom (d : Desc) (row n : Nat) : Nat → Nat → List Nat
  | 0, _ => []
  | fuel + 1, c => if n ≤ c then [] else c :: d.unitsFrom row n fuel (c + d.unitLen row n c)

/-- An access that an engine makes: `n` bytes at `a`, of which it takes `take` behind the first `skip`; `desc` is the descriptor that
gives it. -/
structure Req where
  a : Word
  n : Nat
  skip : Nat
  take : Nat
  desc : Nat

/-- The accesses that read bytes [o, o + n) of a run that starts at `a`: granules of 32 bytes, and through window 0x04 whole entries
of 12 counted from the run's start (02 R68). -/
def runReqs (a : Word) (o n desc : Nat) : List Req :=
  if bits a 48 16 == 0xFF04 then
    (List.range ((o + n + 11) / 12 - o / 12)).map fun i =>
      let e := 12 * (o / 12 + i)
      { a := a + BitVec.ofNat 64 e, n := 12, skip := o - e, take := min (o + n) (e + 12) - max o e, desc := desc }
  else (cuts 32 (n / 32 + 2) (a + BitVec.ofNat 64 o).toNat n).map fun p =>
    { a := BitVec.ofNat 64 p.1, n := p.2, skip := 0, take := p.2, desc := desc }

/-- The accesses that read walk bytes [c, c + n). -/
def Desc.reqs (d : Desc) (desc c n : Nat) : List Req :=
  (d.runs (n + 1) c n).flatMap fun r => let (a, o) := d.runAt r.1; runReqs a o r.2 desc

/-! ### Units of a transfer -/

/-- Bytes of an element in the drain format of a manifest entry (02 R56). -/
def drainBytes (man : BitVec 128) : Nat :=
  match (bits man 12 3).toNat with | 0 => 4 | 1 => 2 | 2 => 2 | 3 => 1 | 4 => 1 | 5 => 4 | 6 => 2 | _ => 1

/-- Walk byte of the destination at which unit `u` writes; the units of a copy or a gather are named by it. -/
def Transfer.unitAt (t : Transfer) (u : Nat) : Nat :=
  match t.kind with
  | .copy | .halo false _ _ | .gather => u
  | .band | .halo true _ _ => 4 * u
  | .drain _ man => 8 * drainBytes man * u
  | .zcd w => 64 * w * u
  | .delta _ => t.a.len.toNat - 4
  | .zce _ => t.pos
  | .mcast _ _ _ | .sig _ | .load _ | .fmt _ => 0

/-- A vault write of the transfer has not been performed. -/
def Transfer.vaultLeft (t : Transfer) : Bool :=
  match t.kind with
  | .mcast _ _ _ | .sig _ | .load _ | .fmt _ => false
  | _ => t.left.any fun u =>
    let w := bits (t.a.addr (t.unitAt u)) 48 16
    w == 0xFF01 || w == 0xFF02

end Sys2Proof.Machine
end

