-- ==== Sys2Proof/Machine/Shunter.lean ====
section
/-! DEFINITION. The migration engine: stored pages (11 R294-R297) and its commands (R293, R298). -/

namespace Sys2Proof.Machine

open Sys2Proof

/-! ### Accesses at the home (11 R288, 13 R322) -/

/-- Lines that [key, key + n) touches. -/
def linesOf (key n : Nat) : List Nat := if n = 0 then [] else (List.range ((key % 128 + n + 127) / 128)).map (key / 128 + ·)

/-- Bytes at their home, exclusive copies recalled first. -/
def State.homeRead (s : State) (key n : Nat) : List Byte × State :=
  let s := (linesOf key n).foldl State.recall s
  (s.bytes key n, s)

/-- Bytes written at their home, exclusive copies recalled first. -/
def State.homePut (s : State) (key : Nat) (bs : List Byte) : State :=
  (cuts 128 (bs.length / 128 + 2) key bs.length).foldl (fun s c =>
    let ln := c.1 / 128
    (s.recall ln).homeWrite ln (linePut (List.replicate 128 0) c.1 ((bs.drop (c.1 - key)).take c.2)) (maskOf c.1 c.2) none) s

/-! ### Coded planes (11 R295, R296) -/

def planeBytes : Nat := 16384
def pageBytes : Nat := 65536

/-- Plane `p` of a page. -/
def planeOf (p : Nat) : List Byte → List Byte
  | a :: b :: c :: d :: t => (match p with | 0 => a | 1 => b | 2 => c | _ => d) :: planeOf p t
  | _ => []

/-- The page of four planes. -/
def weave : List Byte → List Byte → List Byte → List Byte → List Byte
  | a :: as, b :: bs, c :: cs, d :: ds => a :: b :: c :: d :: weave as bs cs ds
  | _, _, _, _ => []

/-- The encoder's progress: the open literal run and the output, newest byte first, and the zeros just read. -/
structure PlaneEnc where
  lit : List Byte := []
  zeros : Nat := 0
  out : List Byte := []

/-- The open literal run becomes a token. -/
def PlaneEnc.close (e : PlaneEnc) : PlaneEnc :=
  if e.lit.isEmpty then e else { e with lit := [], out := e.lit ++ BitVec.ofNat 8 (e.lit.length - 1) :: e.out }

def PlaneEnc.push (e : PlaneEnc) (b : Byte) : PlaneEnc :=
  let e := { e with lit := b :: e.lit }
  if e.lit.length = 128 then e.close else e

/-- The zeros just read: one is a literal, two or more are one zero run. -/
def PlaneEnc.flush (e : PlaneEnc) : PlaneEnc :=
  let z := e.zeros
  let e := { e with zeros := 0 }
  if z = 0 then e else if z = 1 then e.push 0
  else
    let e := e.close
    if z ≤ 127 then { e with out := BitVec.ofNat 8 (0x7F + z) :: e.out }
    else { e with out := BitVec.ofNat 8 ((z - 128) / 256) :: BitVec.ofNat 8 (z - 128) :: 0xFF :: e.out }

def PlaneEnc.step (e : PlaneEnc) (b : Byte) : PlaneEnc := if b = 0 then { e with zeros := e.zeros + 1 } else e.flush.push b

/-- The canonical coding of a plane. -/
def encodePlane (bs : List Byte) : List Byte := ((bs.foldl PlaneEnc.step {}).flush.close).out.reverse

/-- What a coded plane decodes to, from `n` bytes decoded so far; `fuel` bounds the tokens. -/
def decodePlane : Nat → List Byte → Nat → Option (List Byte)
  | 0, bs, n => if bs.isEmpty && n == planeBytes then some [] else none
  | fuel + 1, bs, n =>
    match bs with
    | [] => if n = planeBytes then some [] else none
    | c :: t =>
      if c.toNat < 0x80 then
        let k := c.toNat + 1
        if t.length < k ∨ planeBytes < n + k then none else (decodePlane fuel (t.drop k) (n + k)).map fun r => t.take k ++ r
      else if c = 0xFF then
        match t with
        | l :: h :: u =>
          let k := leBytes [l, h] + 128
          if planeBytes < n + k then none else (decodePlane fuel u (n + k)).map fun r => List.replicate k 0 ++ r
        | _ => none
      else
        let k := c.toNat - 0x7F
        if planeBytes < n + k then none else (decodePlane fuel t (n + k)).map fun r => List.replicate k 0 ++ r

/-! ### Stored pages (11 R294, R296, R297) -/

def padTo64 (bs : List Byte) : List Byte := bs ++ List.replicate ((64 - bs.length % 64) % 64) 0

/-- The stored page of a page of bytes, padded. -/
def storedPage (packed : Bool) (page : List Byte) : List Byte :=
  let ps := (List.range 4).map fun p => encodePlane (planeOf p page)
  let n := 16 + (ps.map List.length).foldl (· + ·) 0
  if packed && decide (n < pageBytes) then padTo64 ((ps.flatMap fun p => toBytes 4 p.length) ++ ps.flatten)
  else padTo64 (toBytes 4 (planeBytes + 2 ^ 24) ++ toBytes 4 planeBytes ++ toBytes 4 planeBytes ++ toBytes 4 planeBytes ++ page)

/-- Status values of a command (11 R293). -/
inductive MigStatus where
  | ok | badcmd | absent | corrupt | memerr
deriving DecidableEq, Repr

def MigStatus.code : MigStatus → Nat
  | .ok => 0 | .badcmd => 1 | .absent => 2 | .corrupt => 3 | .memerr => 4

/-- Every byte of [o, o + n) lies in an attached device (11 R292). -/
def State.capHas (s : State) (o n : Nat) : Bool :=
  (cuts (2 ^ 40) 3 o n).all fun c => decide (c.1 < 2 ^ 42) && decide (c.1 % 2 ^ 40 + c.2 ≤ s.pkg.capSize.get (c.1 / 2 ^ 40))

/-- A memory device is attached to a port, or taken away (11 R292). -/
def State.capDevice (s : State) (port n : Nat) : State := s.updPkg fun p => { p with capSize := p.capSize.set (port % 4) (min n (2 ^ 40)) }

/-- Capacity-tier bytes, with the reasons for which a read fails. -/
def State.capRead (s : State) (o n : Nat) : Except MigStatus (List Byte) :=
  if !s.capHas o n then .error .absent
  else if !(s.ueIn (keyCap o) n).isEmpty then .error .memerr
  else .ok (s.bytes (keyCap o) n)

/-- The lengths and the RAW flag of a header, or none where it is not well formed. -/
def headerOf (h : List Byte) : Option (List Nat × Bool) :=
  let f := (List.range 4).map fun i => leBytes ((h.drop (4 * i)).take 4)
  let raw := natBit (f.getD 0 0) 24
  let ls := f.map (· % 2 ^ 24)
  if f.zipIdx.any fun x => decide (2 ^ 25 ≤ x.1) || (x.2 != 0 && decide (2 ^ 24 ≤ x.1)) then none
  else if raw && ls.any (· != planeBytes) then none
  else some (ls, raw)

/-- The page stored at a capacity offset, and the units that it takes (11 R294, R297). -/
def State.storedAt (s : State) (o : Nat) : Except MigStatus (List Byte × Nat) := do
  let h ← s.capRead o 16
  match headerOf h with
  | none => .error .corrupt
  | some (ls, raw) =>
    let n := ls.foldl (· + ·) 0
    let d ← s.capRead (o + 16) n
    let units := (16 + n + 63) / 64
    if raw then .ok (d, units) else
    let plane (p : Nat) : Option (List Byte) :=
      let l := ls.getD p 0
      decodePlane (l + 1) ((d.drop ((ls.take p).foldl (· + ·) 0)).take l) 0
    match plane 0, plane 1, plane 2, plane 3 with
    | some a, some b, some c, some e => .ok (weave a b c e, units)
    | _, _, _, _ => .error .corrupt

/-! ### Commands (11 R293) -/

def migOp (r : BitVec 256) : Nat := (bits r 0 8).toNat
def migPages (r : BitVec 256) : Nat := (bits r 32 32).toNat
def migHbm (r : BitVec 256) : Nat := (bits r 64 64).toNat
def migCap (r : BitVec 256) : Nat := (bits r 128 64).toNat
def migDone (r : BitVec 256) : Nat := (bits r 192 64).toNat

/-- The command is refused: its OP, a zero field, or a field outside its range (the last: DEDUCED, log 14). -/
def migBad (r : BitVec 256) : Bool :=
  migOp r == 0 || decide (4 ≤ migOp r) || bits r 8 24 != 0 || migPages r == 0 || decide (65536 < migPages r)
    || migHbm r % pageBytes != 0 || migCap r % 64 != 0 || decide (hbmSize < migHbm r + migPages r * pageBytes)

/-- The command in progress, or the next of the ring. -/
def State.migCommand (s : State) : Option Mig :=
  match s.pkg.mig with
  | some m => some m
  | none => match s.pkg.shunter with
    | r :: _ => some { rec_ := r, hbm := migHbm r, cap := migCap r }
    | [] => none

def State.setMig (s : State) (m : Mig) : State :=
  s.updPkg fun p => { p with shunter := if p.mig.isNone then p.shunter.drop 1 else p.shunter, mig := some m }

/-- The command ends with a status. -/
def Mig.stop (m : Mig) (st : MigStatus) : Mig := { m with status := st.code, ended := true }

/-- One page of a page-out command. -/
def State.pageOut (s : State) (packed : Bool) (m : Mig) : State :=
  let (bs, s1) := s.homeRead m.hbm pageBytes
  if !(s1.badWords m.hbm pageBytes).isEmpty then s1.setMig (m.stop .memerr)
  else
    let st := storedPage packed bs
    if !s1.capHas m.cap st.length then s1.setMig (m.stop .absent)
    else
      let k := st.length / 64
      let s2 := s1.poke (keyCap m.cap) st
      let m1 := { m with page := m.page + 1, units := m.units + k, hbm := m.hbm + pageBytes, cap := m.cap + st.length }
      s2.setMig (if m1.page = migPages m.rec_ then m1.stop .ok else m1)

/-- One page of a pages-in command. -/
def State.pageIn (s : State) (m : Mig) : State :=
  match s.storedAt m.cap with
  | .error e => s.setMig (m.stop e)
  | .ok (bs, k) =>
    let s1 := s.homePut m.hbm bs
    let m1 := { m with page := m.page + 1, units := m.units + k, hbm := m.hbm + pageBytes, cap := m.cap + 64 * k }
    s1.setMig (if m1.page = migPages m.rec_ then m1.stop .ok else m1)

/-- The next page of the current command, if it has the operation. -/
def migPage (op : Nat) (f : State → Mig → State) : State → Out := event fun s =>
  match s.migCommand with
  | some m => if !m.ended && migOp m.rec_ == op && !migBad m.rec_ then f s m else s
  | none => s

/-- `PAGE_OUT_PACKED` (11 R296): one page of the current command. -/
def execPageOutPacked : State → Out := migPage 1 fun s m => s.pageOut true m
/-- `PAGE_OUT_RAW` (11 R294). -/
def execPageOutRaw : State → Out := migPage 2 fun s m => s.pageOut false m
/-- `PAGES_IN` (11 R297). -/
def execPagesIn : State → Out := migPage 3 fun s m => s.pageIn m
/-- `BADCMD` (11 R293). -/
def execBadcmd : State → Out := event fun s =>
  match s.migCommand with
  | some m => if !m.ended && migBad m.rec_ then s.setMig (m.stop .badcmd) else s
  | none => s

/-- The completion word of a command. -/
def Mig.word (m : Mig) : Nat := m.units % 2 ^ 32 + m.page % 2 ^ 24 * 2 ^ 32 + m.status * 2 ^ 56

/-- A write of the migration engine to a physical address, of HBM of any package of the domain or of a window; where nothing is
placed, nothing is written (log 31). -/
def State.physPut (s : State) (pa : Nat) (bs : List Byte) : State :=
  if pa + bs.length ≤ hbmSize then s.homePut pa bs
  else match remoteHbm pa bs.length with
  | some (q, o) => s.homePut (if q = s.pkg.pkgid.toNat then o else pa) bs
  | none =>
    if 0xFE00000000000 ≤ pa ∧ pa < 0xFE00012000000 then s.poke pa bs
    else if 0xFF00000000000 ≤ pa then
      match s.blockAt pa with
      | some (b, o) => blockWrite s b o bs
      | none => s
    else s

/-- `MIGRATION_COMPLETE` (11 R293): the completion word is written. -/
def execMigrationComplete : State → Out := event fun s =>
  match s.pkg.mig with
  | some m => if m.ended then (s.physPut (migDone m.rec_) (toBytes 8 m.word)).updPkg fun p => { p with mig := none } else s
  | none => s

end Sys2Proof.Machine
end

