-- ==== Sys2Proof/Machine/SignalBox.lean ====
section
/-! DEFINITION. The Signal Box: fetching and the ends of its words, bursts, experts, its words and events (10). -/

namespace Sys2Proof.Machine

open Sys2Proof

/-- Why a word of a context does not complete (10 R266-R269). -/
inductive BoxEnd where
  /-- the context stops, with a completion record -/
  | stop (c : Cause)
  /-- a translation or permission fault parks the context in FAULT, with a fault record -/
  | park (c : Cause) (a : Word)
  /-- the word cannot start yet -/
  | wait
deriving DecidableEq, Repr

/-- What a word gives: the state, the index of the next word, the context's state. -/
abbrev BoxEff := Except BoxEnd (State × BitVec 32 × BoxState)

def State.box (s : State) (n : Nat) : BoxCtx := s.boxes.get n
def State.updBox (s : State) (n : Nat) (f : BoxCtx → BoxCtx) : State := { s with boxes := s.boxes.upd n f }

/-! ### Addresses of a context (10 R266, R268) -/

/-- What bytes inside one page are: of a vault or a cluster scratchpad, of HBM, of a register block. -/
inductive BoxPlace where
  | plain (key : Nat)
  | line (key : Nat)
  | block (b : RegBlock) (off : Nat)
deriving DecidableEq, Repr

/-- Where bytes inside one page lie at an address of the virtual function. -/
def boxPlace (s : State) (vf : Nat) (a : Word) (n : Nat) (wr : Bool) : Except BoxEnd BoxPlace :=
  match decodeAddr s 0 a n wr with
  | some (.vault c true o) => .ok (.plain (keyVault c o))
  | some (.global va) =>
    match (walk s vf va).res with
    | .error k => .error (.park (.xlate k) a)
    | .ok e =>
      let pa := e.pa + (va - e.va)
      if (wr && !e.w) || e.sys then .error (.park .permission a)
      else if pa + n ≤ hbmSize then .ok (.line pa)
      else match remoteHbm pa n with
      | some (q, o) =>
        if q = s.pkg.pkgid.toNat then .ok (.line o)
        else if !s.fabricOk vf q then .error (.park .fabricErr a)
        else .ok (.line pa)
      | none =>
        if 0xFE00000000000 ≤ pa ∧ pa < 0xFE00012000000 then .error (.stop .aperture)
        else if 0xFF00000000000 ≤ pa ∧ pa < 2 ^ 52 then
          match s.blockAt pa with
          | some (b, o) => if b = .sbox then .error (.park .permission a) else .ok (.block b o)
          | none => .error (.park .permission a)
        else .error (.park .permission a)
  | _ => .error (.stop .aperture)

/-- The pieces of [a, a + n) with their places; the first that fails decides. -/
def boxPieces (s : State) (vf : Nat) (a : Word) (n : Nat) (wr : Bool) : Except BoxEnd (List (BoxPlace × Nat)) :=
  (cuts 4096 (n / 4096 + 2) a.toNat n).mapM fun c => (boxPlace s vf (BitVec.ofNat 64 c.1) c.2 wr).map fun k => (k, c.2)

/-- Memory key of a place. -/
def BoxPlace.key : BoxPlace → Option Nat
  | .plain k | .line k => some k
  | .block _ _ => none

/-- Bytes at a place; a register block is read in its words. -/
def BoxPlace.read (p : BoxPlace) (n : Nat) (s : State) : List Byte × State :=
  match p with
  | .line k => s.homeRead k n
  | .plain k => (s.bytes k n, s)
  | .block b o => ((cuts 8 (n / 8 + 2) o n).flatMap fun c => blockRead s b c.1 c.2, s)

/-- Bytes written at a place. -/
def BoxPlace.write (p : BoxPlace) (bs : List Byte) (s : State) : State :=
  match p with
  | .line k => s.homePut k bs
  | .plain k => s.poke k bs
  | .block b o => (cuts 8 (bs.length / 8 + 2) o bs.length).foldl (fun s c => blockWrite s b c.1 ((bs.drop (c.1 - o)).take c.2)) s

/-- A piece read by the Signal Box; lost bytes are replaced and counted for die 0 (19 R418). -/
def BoxPlace.get (p : BoxPlace) (n : Nat) (s : State) : List Byte × State :=
  let (bs, s) := p.read n s
  match p.key with
  | none => (bs, s)
  | some k =>
    let bad := s.badWords k n
    if bad.isEmpty then (bs, s) else
    (replaced k bs ((List.range n).map fun i => untyped (k + i)) bad, s.updDie 0 fun d => { d with uedata := d.uedata + bad.length })

/-- Bytes read by the Signal Box. -/
def boxRead (s : State) (vf : Nat) (a : Word) (n : Nat) : Except BoxEnd (List Byte × State) := do
  let ps ← boxPieces s vf a n false
  .ok (ps.foldl (fun (r : List Byte × State) p => let (bs, s) := p.1.get p.2 r.2; (r.1 ++ bs, s)) ([], s))

/-- Bytes written by the Signal Box, all checked before any is written. -/
def boxWrite (s : State) (vf : Nat) (a : Word) (bs : List Byte) : Except BoxEnd State := do
  let ps ← boxPieces s vf a bs.length true
  .ok (ps.foldl (fun (r : List Byte × State) p => (r.1.drop p.2, p.1.write (r.1.take p.2) r.2)) (bs, s)).2

/-! ### Ends of words (10 R262, R268, R269) -/

/-- The context stands in FAULT with its word's index and a cause. -/
def BoxCtx.fault (c : BoxCtx) (x : Cause) : BoxCtx :=
  { c with st := .fault, stopping := false, fword := c.pc, fvalid := true, fcode := BitVec.ofNat 7 x.code }

/-- A word of the context has ended, and it goes to a state: STOP that came meanwhile takes effect (10 R261). -/
def BoxCtx.ends (c : BoxCtx) (st : BoxState) : BoxCtx :=
  match st with
  | .run => { c with st := if c.stopping then .stopped else .run, stopping := false }
  | .parked => { c with st := .parked }
  | _ => { c with st := st, stopping := false }

/-- What the end of a word leaves. -/
def State.boxEnd (s : State) (n : Nat) : BoxEff → Out
  | .ok (t, pc, st) => .next (t.updBox n fun c => { c with pc := pc }.ends st)
  | .error (.stop x) => .next ((s.updBox n fun c => c.fault x).complete n 1 2 x.code 0 n 0 0)
  | .error (.park x a) =>
    let (_, t) := s.postRecord 0 2 x 0x7FF n 0xFF false a 0
    .next (t.updBox n fun c => c.fault x)
  | .error .wait => .next (s.updBox n fun c => { c with st := .wait })

/-- A word of `len` words: `eff` gets the context and the index of the next word. -/
def boxWord (len : Nat) (eff : BoxCtx → BitVec 32 → State → BoxEff) (s : State) : Out :=
  let c := s.box s.boxFocus
  s.boxEnd s.boxFocus (eff c (c.pc + BitVec.ofNat 32 len) s)

def boxNeed (ok : Bool) (e : BoxEnd) : Except BoxEnd Unit := if ok then .ok () else .error e

/-! ### Bursts (10 R264, R265) -/

def setSlotOf (e : BitVec 1280) : Nat := (bits e 1152 16).toNat
def setSigOf (e : BitVec 1280) : Nat := (bits e 1168 8).toNat
/-- A multicast entry is valid. -/
def setValid (e : BitVec 1280) : Bool := bits e 1176 104 == 0 && decide (setSlotOf e ≤ 191) && decide (setSigOf e ≤ 63)
/-- Dense indexes of the members. -/
def setMembers (e : BitVec 1280) : List Nat := (List.range 1152).filter fun i => e.getLsbD i

/-- The bytes of a burst reach one member, or it is skipped with a record. -/
def State.burstTo (s : State) (n : Nat) (b : Burst) (m : Nat) : State :=
  let c := coreOfDense m
  let x := s.core c
  let off := x.ctl.pbReg + 4096 * setSlotOf b.set
  let len := b.bytes.length
  let skip (why : Cause) : State :=
    (s.postRecord (dieOf c) 2 why 0x7FF n 0xFF false (BitVec.ofNat 64 (c.toNat * 2 ^ 48 + off)) 0).2
  if x.ctl.pbSpad < off + len then skip .aperture
  else if (List.range ((len + 4095) / 4096)).any fun i => x.slotOwner (off + 4096 * i) != .sbox then skip .ownerViolation
  else (s.poke (keyPool c off) b.bytes).pendDone noCore c (setSigOf b.set) len

/-- A burst starts; in eager mode every member is served at once. -/
def State.startBurst (s : State) (n : Nat) (b : Burst) : State :=
  if s.eager then b.members.foldl (fun s m => s.burstTo n b m) s
  else s.updBox n fun c => { c with bursts := c.bursts ++ [b] }

/-- A further burst can be held in flight (10 R263). -/
def BoxCtx.room (c : BoxCtx) : Bool := decide (c.bursts.length < 8)

/-- `BURST_MEMBER_DONE` (10 R265). -/
def execBurstMemberDone : State → Out := event fun s =>
  let n := s.arg.n
  match (s.box n).bursts[s.arg.m]? with
  | none => s
  | some b =>
    match (if b.members.contains (denseOf s.arg.core) then some (denseOf s.arg.core) else b.members.head?) with
    | none => s.updBox n fun c => { c with bursts := c.bursts.eraseIdx s.arg.m }
    | some m =>
      let left := b.members.erase m
      (s.burstTo n b m).updBox n fun c =>
        { c with bursts := if left.isEmpty then c.bursts.eraseIdx s.arg.m else c.bursts.set s.arg.m { b with members := left } }

/-! ### Experts (10 R270, R271) -/

def State.expert (s : State) (e : Nat) : Expert := s.experts.get e
def State.updExpert (s : State) (e : Nat) (f : Expert → Expert) : State := { s with experts := s.experts.upd e f }

/-- The fetch of an expert has ended: its contexts no longer wait for it, and those parked on it run. -/
def State.fetchDone (s : State) (e : Nat) : State :=
  { s with boxes := s.boxes.all fun c =>
      let c := { c with fetches := c.fetches.filter (· != e) }
      if c.st = .parked ∧ c.fetches.isEmpty then c.ends .run else c }

/-- A fetch that fails restores the former STATE and posts a record. -/
def State.fetchFail (s : State) (e : Nat) (src : Nat) (c : Cause) (a : Word) (off : Nat) : State :=
  let x := s.expert e
  ((s.postRecord 0 src c 0x7FF x.by_ 0xFF false a off).2.updExpert e fun y => { y with st := y.prev }).fetchDone e

/-- The bytes of a fetch arrive at BASE from byte `off` on. -/
def State.fetchPut (s : State) (e : Nat) (off : Nat) (bs : List Byte) : Except BoxEnd State :=
  let x := s.expert e
  boxWrite s x.by_ (x.base + BitVec.ofNat 64 off) bs

/-- The cause and address of a failed access at BASE. -/
def BoxEnd.asFault (b : BoxEnd) (base : Word) : Cause × Word :=
  match b with
  | .park c a => (c, a)
  | .stop c => (c, base)
  | .wait => (.aperture, base)

/-- A capacity-tier fetch: `left` stored pages from capacity offset `o`, the first at byte `off` of BASE (11 R293). -/
def capFetch (e : Nat) : Nat → Nat → Nat → State → State
  | 0, _, _, s => (s.updExpert e fun y => { y with st := 2 }).fetchDone e
  | left + 1, o, off, s =>
    let x := s.expert e
    match s.storedAt o with
    | .error .corrupt => s.fetchFail e 3 .migCorrupt x.base off
    | .error .memerr => s.fetchFail e 3 .migMemerr x.base off
    | .error _ => s.fetchFail e 3 .migAbsent x.base off
    | .ok (bs, k) =>
      match s.fetchPut e off (bs.take (x.len.toNat - off)) with
      | .error b =>
        let (c, a) := b.asFault x.base
        s.fetchFail e 3 c a off
      | .ok t => capFetch e left (o + 64 * k) (off + pageBytes) t

/-- A fetch ends as told. -/
def State.endFetch (s : State) (e : Nat) (r : FetchResult) : State :=
  let x := s.expert e
  if x.st != 1 then s else
  match x.src, r with
  | none, .capacity => capFetch e ((x.len.toNat + 65535) / 65536) x.capaddr.toNat 0 s
  | some q, .peerBytes bs =>
    if !s.fabricOk x.by_ q.toNat then s.fetchFail e 2 .fabricErr x.base 0
    else if bs.length < x.len.toNat then s
    else (match s.fetchPut e 0 (bs.take x.len.toNat) with
    | .error b =>
      let (c, a) := b.asFault x.base
      s.fetchFail e 2 c a 0
    | .ok t => (t.updExpert e fun y => { y with st := 2 }).fetchDone e)
  | some _, .fabricErr => s.fetchFail e 2 .fabricErr x.base 0
  | _, _ => s

/-- `FETCH_END` (10 R271). -/
def execFetchEnd : State → Out := event fun s => s.endFetch s.arg.n s.arg.fetch

/-- `EXPERT_ENTRY_WRITE` (10 R270). -/
def execExpertEntryWrite : State → Out := event fun s => s.updExpert s.arg.n fun e => e.put s.arg.value

/-! ### Words (10 R266-R272) -/

/-- A source address is a multiple of 64. -/
def needSource (a : Word) : Except BoxEnd Unit := boxNeed (a.toNat % 64 == 0) (.stop .misalign)

/-- The address lies in a window that a context may name: global, or 0x02. -/
def boxWindow (s : State) (a : Word) : Bool :=
  match decodeAddr s 0 a 1 false with | some (.vault _ true _) | some (.global _) => true | _ => false

/-- `SBURST`. -/
def execSburst (mc : McReg) (units : BitVec 21) (src : BitVec 64) : State → Out :=
  boxWord 3 fun c pc s => do
    boxNeed c.room .wait
    needSource src
    boxNeed (boxWindow s src) (.stop .aperture)
    let set := c.mc.get mc.toNat
    boxNeed (setValid set) (.stop .reservedField)
    let (bs, s1) ← boxRead s s.boxFocus src (64 * units.toNat)
    .ok (s1.startBurst s.boxFocus { set := set, bytes := bs, members := setMembers set }, pc, .run)

/-- `SWRITE`. -/
def execSwrite (addr : BitVec 64) (v : BitVec 32) : State → Out :=
  boxWord 4 fun c pc s => do
    boxNeed c.bursts.isEmpty .wait
    boxNeed (addr.toNat % 4 == 0) (.stop .misalign)
    let s1 ← boxWrite s s.boxFocus addr (toBytes 4 v.toNat)
    .ok (s1, pc, .run)

/-- The loop stack after an `SLOOP` at word `a` with count `n`, and whether it jumps; `none`: a push onto a full stack. -/
def boxLoop (l : List LoopRec) (a : BitVec 32) (n : Nat) : Option (List LoopRec × Bool) :=
  match l.findIdx? fun r => r.addr == a with
  | some j =>
    let below := l.take j
    match l[j]? with
    | some r => if r.rem = 1 then some (below, false) else some (below ++ [{ r with rem := r.rem - 1 }], true)
    | none => some (l, false)
  | none => if 1 < n then (if l.length = 4 then none else some (l ++ [{ addr := a, rem := n - 1 }], true)) else some (l, false)

/-- `SLOOP` (10 R268). -/
def execSloop (n : BitVec 11) (off : BitVec 16) : State → Out :=
  boxWord 1 fun c pc s =>
    match boxLoop c.loops c.pc n.toNat with
    | none => .error (.stop .sboxLoop)
    | some (l, jump) =>
      .ok (s.updBox s.boxFocus fun c => { c with loops := l }, if jump then c.pc + off.signExtend 32 else pc, .run)

/-- `SWAIT`. -/
def execSwait (core : CoreId) (sg : SgReg) (t : BitVec 10) : State → Out :=
  boxWord 1 fun _ pc s => do
    boxNeed (coreOk core) (.stop .aperture)
    let s := if s.eager then s.updCore core fun c => c.applySigAll sg.toNat else s
    let x := (s.core core).sigs.get sg.toNat
    boxNeed (!x.byteMode) (.stop .sigMode)
    boxNeed (decide (t.toNat ≤ x.value.toNat)) .wait
    .ok (s.updCore core fun c => { c with sigs := c.sigs.set sg.toNat { x with value := x.value - t.setWidth 32 } }, pc, .run)

/-- `SSIG`. -/
def execSsig (core : CoreId) (sg : SgReg) (n : BitVec 10) : State → Out :=
  boxWord 1 fun c pc s => do
    boxNeed c.bursts.isEmpty .wait
    boxNeed (coreOk core) (.stop .aperture)
    .ok (s.pendSig noCore core sg.toNat n.toNat, pc, .run)

/-- `SEXPERT` (10 R270). -/
def execSexpert (e : BitVec 12) (mc : McReg) : State → Out :=
  boxWord 1 fun c pc s => do
    boxNeed c.room .wait
    let set := c.mc.get mc.toNat
    let x := s.expert e.toNat
    let here := x.st == 2
    boxNeed (setValid set) (.stop .reservedField)
    boxNeed (!here || (x.base.toNat % 64 == 0 && x.len.toNat % 64 == 0)) (.stop .misalign)
    boxNeed (!here || boxWindow s x.base) (.stop .aperture)
    let (ws, s1) ← if here then boxRead s s.boxFocus x.base x.len.toNat else .ok ([], s)
    let head := toBytes 4 e.toNat ++ toBytes 2 x.st.toNat ++ toBytes 2 x.peer.toNat ++ toBytes 8 (if here then x.len.toNat else 0)
      ++ toBytes 8 x.wring.toNat ++ List.replicate 40 0
    .ok (s1.startBurst s.boxFocus { set := set, bytes := head ++ ws, members := setMembers set }, pc, .run)

/-- `SFETCH` (10 R271). -/
def execSfetch (e : BitVec 12) (peer : Bool) (pkg : BitVec 9) : State → Out :=
  boxWord 1 fun _ pc s => do
    boxNeed (!peer || pkg != s.pkg.pkgid) (.stop .reservedField)
    let x := s.expert e.toNat
    if x.st = 1 ∨ x.st = 2 then .ok (s, pc, .run)
    else
      let s1 := s.updExpert e.toNat fun y =>
        { y with st := 1, prev := y.st, src := if peer then some pkg else none, by_ := s.boxFocus }
      let s2 := s1.updBox s.boxFocus fun c => { c with fetches := c.fetches ++ [e.toNat] }
      .ok (if s.eager && !peer then s2.endFetch e.toNat .capacity else s2, pc, .run)

/-- `SCOUNT` (10 R272): every place of the table is checked before a counter is read. -/
def execScount (first : BitVec 12) (n : BitVec 13) (table : BitVec 64) : State → Out :=
  boxWord 3 fun _ pc s => do
    boxNeed (table.toNat % 8 == 0) (.stop .misalign)
    boxNeed (bits table 56 8 != 0xFF) (.stop .aperture)
    let es := (List.range n.toNat).map (first.toNat + ·)
    let s1 ← boxWrite s s.boxFocus table (es.flatMap fun e => toBytes 8 (s.expert e).use.toNat)
    .ok (es.foldl (fun s e => s.updExpert e fun x => { x with use := 0 }) s1, pc, .run)

/-- `SJUMP`. -/
def execSjump (off : BitVec 27) : State → Out :=
  boxWord 1 fun c _ s => .ok (s, c.pc + off.signExtend 32, .run)

/-- `SHALT`. -/
def execShalt : State → Out :=
  boxWord 1 fun c pc s => do
    boxNeed c.bursts.isEmpty .wait
    .ok (s.complete s.boxFocus 1 0 0 0 s.boxFocus 0 0, pc, .idle)

/-- `SPARK`. -/
def execSpark : State → Out :=
  boxWord 1 fun c pc s => .ok (s, pc, if c.fetches.isEmpty then .run else .parked)

/-! ### Fetching (10 R260, R268) -/

/-- A word of the program. -/
def boxCode (s : State) (n : Nat) (a : Word) : Except BoxEnd (Code × State) := do
  let p ← boxPlace s n a 4 false
  let (bs, s1) := p.read 4 s
  boxNeed (match p.key with | some k => (s1.badWords k 4).isEmpty | none => true) (.stop .codeUe)
  .ok (BitVec.ofNat 32 (leBytes bs), s1)

/-- The word that a context runs next, with its extension words; these are fetched before the head's value is judged (log 63). -/
def boxFetch (s : State) (n : Nat) : Except BoxEnd (Instr × State) := do
  let c := s.box n
  let at_ (i : Nat) : Word := c.pbase + BitVec.ofNat 64 (4 * (c.pc.toNat + i))
  let (h, s1) ← boxCode s n (at_ 0)
  let (ws, s2) ← (List.range (boxLength h.toNat - 1)).foldlM (fun (r : List Code × State) i => do
    let (w, t) ← boxCode r.2 n (at_ (i + 1))
    .ok (r.1 ++ [w], t)) ([h], s1)
  match decode .box ws with
  | .ok i => .ok (i, s2)
  | .error .illegalOp => .error (.stop .illegalOp)
  | .error _ => .error (.stop .reservedField)

/-! ### Control (10 R261) -/

/-- `START`. -/
def execSbStart : State → Out := event fun s => s.updBox s.arg.n BoxCtx.start
/-- `STOP`. -/
def execSbStop : State → Out := event fun s => s.updBox s.arg.n BoxCtx.stop
/-- `RESUME` of `SBCTL`. -/
def execSbctlResume : State → Out := event fun s => s.updBox s.arg.n BoxCtx.resume

end Sys2Proof.Machine
end

