-- ==== Sys2Proof/Machine/Timetable.lean ====
section
/-! DEFINITION. The Timetable: launches, steps, the walker, dependences, and how tasks and graphs end (15 R342-R354, R362,
R370). -/

namespace Sys2Proof.Machine

open Sys2Proof

/-! ### What the Timetable reads -/

/-- Little-endian field of `n` bytes at byte `o`. -/
def fieldOf (bs : List Byte) (o n : Nat) : Nat := leBytes ((bs.drop o).take n)

/-- Memory key of bytes inside one page at a global address of a virtual function, for a read. A device window cannot be
read so (DESIGN CHOICE, log 18). -/
def ttKey (s : State) (vf : Nat) (a : Word) (n : Nat) : Except Cause Nat :=
  match decodeAddr s 0 a n false with
  | some (.global va) =>
    match (walk s vf va).res with
    | .error k => .error (.xlate k)
    | .ok e =>
      let pa := e.pa + (va - e.va)
      if e.sys then .error .permission
      else if pa + n ≤ hbmSize then .ok pa
      else match remoteHbm pa n with
        | some (q, o) => if q = s.pkg.pkgid.toNat then .ok o else if !s.fabricOk vf q then .error .fabricErr else .ok pa
        | none => .error .permission
  | _ => .error .aperture

/-- What a read gives: the bytes, lost words zero (19 R418), whether a word was lost, the state. -/
structure TtGot where
  bs : List Byte
  lost : Bool
  st : State

/-- A read of a table by die `d`, at the home of its lines. -/
def ttRead (d vf : Nat) (a : Word) (n : Nat) (s : State) : Except Cause TtGot :=
  (cuts 4096 (n / 4096 + 2) a.toNat n).foldlM (fun (r : TtGot) c => do
    let k ← ttKey r.st vf (BitVec.ofNat 64 c.1) c.2
    let (bs, t) := r.st.homeRead k c.2
    let bad := t.badWords k c.2
    let t := if bad.isEmpty then t else t.updDie d fun x => { x with uedata := x.uedata + bad.length }
    .ok { bs := r.bs ++ replaced k bs (List.replicate c.2 0) bad, lost := r.lost || !bad.isEmpty, st := t }) { bs := [], lost := false, st := s }

/-! ### Graphs -/

def State.graph (s : State) (d vf : Nat) : Option Graph := (s.die d).graphs.get vf
def State.setGraph (s : State) (d vf : Nat) (g : Option Graph) : State := s.updDie d fun x => { x with graphs := x.graphs.set vf g }
def State.updGraph (s : State) (d vf : Nat) (f : Graph → Graph) : State := s.setGraph d vf ((s.graph d vf).map f)
def Graph.updOpb (g : Graph) (n : Nat) (f : OpbSt → OpbSt) : Graph := { g with opb := g.opb.upd n f }
/-- The dies on which the graph runs. -/
def Graph.onDies (g : Graph) : List Nat := (List.range 2).filter fun d => g.dies.getLsbD d
def Graph.joined (g : Graph) : Bool := g.dies == 3
/-- Every step of the graph has ended on its die. -/
def Graph.ended (g : Graph) : Bool := g.step == g.k0 + g.nstep

/-- The graph of the virtual function leaves the die; a graph that has waited for it becomes current (15 R344). -/
def State.dropGraph (s : State) (d vf : Nat) : State :=
  s.updDie d fun x => { x with graphs := x.graphs.set vf (x.joint.get vf), joint := x.joint.set vf none }

/-- Task entries of a virtual function in one of the states. -/
def State.tasksIn (s : State) (d vf : Nat) (sts : List TaskState) : List Nat :=
  (s.die d).tasks.rows.filterMap fun r => if r.2.vf = vf ∧ sts.contains r.2.st then some r.1 else none

/-- The entry is free: unused, or its task has completed or been dropped (15 R353). -/
def TaskEntry.isFree (e : TaskEntry) : Bool := match e.st with | .free | .done | .dropped => true | _ => false

/-- Task entries end in state `st`, free, and the bind records that name them leave the slot table. -/
def Die.freeTasks (x : Die) (st : TaskState) (is : List Nat) : Die :=
  { x with tasks := is.foldl (fun t i => t.set i { st := st }) x.tasks,
           slots := x.slots.all fun q => q.filter fun b => !is.contains (bits b 0 16).toNat }

/-- A failed graph leaves once its running tasks have ended. -/
def State.reap (s : State) (d vf : Nat) : State :=
  match s.graph d vf with
  | some g => if g.failed && (s.tasksIn d vf [.running]).isEmpty then s.dropGraph d vf else s
  | none => s

/-- The tasks lost on all dies of the graph. -/
def State.lostOf (s : State) (g : Graph) : Nat :=
  g.onDies.foldl (fun n d => n + (match s.graph d g.vf with | some x => x.lost | none => 0)) 0

/-- The graph faults on every die (15 R349, R354): the record is posted, no further task is dispatched, the running ones
complete. -/
def State.failGraph (s : State) (d vf code : Nat) : State :=
  match s.graph d vf with
  | none => s
  | some g =>
    if g.failed then s else
    let s := s.complete vf 0 2 code g.tag (s.lostOf g) g.step g.cookie
    g.onDies.foldl (fun s d =>
      ((s.updGraph d vf fun g => { g with failed := true }).updDie d fun x =>
        x.freeTasks .dropped (s.tasksIn d vf [.expanded, .bound])).reap d vf) s

/-- The graph of the virtual function runs a step. -/
def State.stepping (s : State) (d vf : Nat) : Bool :=
  match s.graph d vf with | some g => g.inStep && !g.failed | none => false

/-- The graph ends with status OK, or PARTIAL when tasks are lost (15 R362, R370). -/
def State.finishGraph (s : State) (g : Graph) : State :=
  let lost := s.lostOf g
  let s := s.complete g.vf 0 (if lost = 0 then 0 else 1) 0 g.tag lost (g.k0 + g.nstep - 1) g.cookie
  g.onDies.foldl (fun s d => s.dropGraph d g.vf) s

/-- The step of the graph on a die has ended (15 R349). The next step of a two-die launch begins 256 ns after the later
die has ended this one. -/
def State.endStep (s : State) (d : Nat) (g : Graph) : State :=
  let g1 := { g with inStep := false, step := g.step + 1 }
  let s := s.setGraph d g.vf (some g1)
  let at_ := s.ptime + 256
  let s := if g.joined then g.onDies.foldl (fun s d => s.updGraph d g.vf fun x => { x with notBefore := at_ }) s else s
  let all := g.onDies.all fun d => match s.graph d g.vf with | some x => x.ended | none => false
  if all then s.finishGraph g1 else s

/-- The step ends once every OPB has completed or is dropped; it cannot end when no OPB left is ready (15 R349). -/
def State.checkStep (s : State) (d vf : Nat) : State :=
  match s.graph d vf with
  | none => s
  | some g =>
    if !g.inStep || g.failed then s else
    let os := (List.range g.nopb).map g.opb.get
    if os.all fun o => o.done || o.dropped then s.endStep d g
    else if os.any fun o => o.ready && !o.done && !o.dropped then s
    else s.failGraph d vf Cause.depStall.code

/-! ### The OPB (15 R345-R347) -/

/-- The 128 bytes of an OPB. -/
structure Opb where
  bs : List Byte

def Opb.f (o : Opb) (at_ n : Nat) : Nat := fieldOf o.bs at_ n
def Opb.flag (o : Opb) (i : Nat) : Bool := natBit (o.f 0 1) i
def Opb.nloop (o : Opb) : Nat := o.f 1 1 % 8
def Opb.nfuse (o : Opb) : Nat := o.f 1 1 / 16 % 8
def Opb.mfinit (o : Opb) : Nat := o.f 2 1
def Opb.shapes (o : Opb) : Nat := o.f 3 1
def Opb.dep (o : Opb) : Nat := o.f 4 2
def Opb.nsucc (o : Opb) : Nat := o.f 6 2
def Opb.succ (o : Opb) : Word := BitVec.ofNat 64 (o.f 8 8)
def Opb.trip (o : Opb) (l : Nat) : Nat := o.f (16 + 2 * l) 2
def Opb.th (o : Opb) : Nat := o.f 28 2
def Opb.tw (o : Opb) : Nat := o.f 30 2
def Opb.maxage (o : Opb) : Nat := o.f 32 1 % 16
def Opb.maxchain (o : Opb) : Nat := o.f 32 1 / 16
/-- The three boundaries; POOL = 0 selects those of reset (11 R274). -/
def Opb.pool (o : Opb) : Nat × Nat × Nat :=
  if o.f 33 3 = 0 then (0x10000, 0xC0000, 0xC0000) else (o.f 33 1 * 16384, o.f 34 1 * 16384, o.f 35 1 * 16384)
def Opb.theta (o : Opb) : BitVec 32 := BitVec.ofNat 32 (o.f 36 4)
def Opb.rin (o : Opb) : Nat := o.f 40 4
def Opb.rout (o : Opb) : Nat := o.f 44 4
def Opb.rdata (o : Opb) : Word := BitVec.ofNat 64 (o.f 48 8)
def Opb.param (o : Opb) : Word := BitVec.ofNat 64 (o.f 56 8)
def Opb.sched (o : Opb) : Word := BitVec.ofNat 64 (o.f 64 8)
def Opb.spb (o : Opb) : Nat := o.f 72 2
def Opb.spl (o : Opb) : Nat := o.f 74 2
/-- Kernel, stride and padding of a fused layer. -/
def Opb.fuse (o : Opb) (j : Nat) : Nat × Nat × Nat :=
  let x := o.f (76 + 2 * j) 1
  (x % 16 + 1, x / 16 % 4 + 1, o.f (77 + 2 * j) 1)
def Opb.layer (o : Opb) : Nat := o.f 84 2
def Opb.mfmask (o : Opb) : Nat := o.f 86 2
def Opb.mftab (o : Opb) : Word := BitVec.ofNat 64 (o.f 88 8)

/-- Tile steps of the OPB. -/
def Opb.tiles (o : Opb) : Nat := (List.range o.nloop).foldl (fun n l => n * o.trip l) 1

/-- A schedule for a shape code stands in the OPB. -/
def Opb.hasShape (o : Opb) (code : Nat) : Bool := natBit (o.shapes % 16) code
/-- Address of the schedule record of a shape code. -/
def Opb.schedAt (o : Opb) (code : Nat) : Word :=
  o.sched + BitVec.ofNat 64 (96 * ((List.range code).filter fun c => o.hasShape c).length)

/-- The boundaries of POOL are those of 11 R274. -/
def poolOk : Nat × Nat × Nat → Bool
  | (a, b, c) => decide (0x10000 ≤ a) && decide (a ≤ b) && decide (b ≤ c) && decide (c ≤ 0xC0000) && decide (c - b ≤ 0x40000)

/-- A global or window-0x02 address. -/
def dataBase (a : Word) : Bool :=
  bits a 48 16 == 0xFF02 || (bits a 56 8 != 0xFF && bits a 57 7 == (if a.getLsbD 56 then 0x7F else 0))

/-- The rules of the table of 15 R345. Those of a loop or fused layer that the OPB does not have are not asked. -/
def Opb.ok (o : Opb) : Bool :=
  decide (o.f 0 1 < 32) && !natBit (o.f 1 1) 3 && !natBit (o.f 1 1) 7 && decide (o.nloop ≤ 6) && decide (o.nfuse ≤ 4)
    && o.mfinit / 4 % 4 == 0 && o.mfinit % 4 != 3 && decide (o.shapes < 16) && decide (o.nsucc ≤ 16384)
    && (List.range o.nloop).all (fun l => o.trip l != 0) && decide (o.tiles ≤ 2 ^ 20)
    && decide (1 ≤ o.th) && decide (o.th ≤ 256) && decide (1 ≤ o.tw) && decide (o.tw ≤ 256)
    && poolOk o.pool && o.rin % 32 == 0 && o.rout % 32 == 0 && o.rdata.toNat % 32 == 0 && dataBase o.rdata
    && (!o.flag 0 || (decide (32 ≤ o.rin) && o.rdata != 0 && o.maxage != 0 && o.maxchain != 0))
    && o.mftab.toNat % 16 == 0 && (o.mfmask == 0 || o.mftab != 0)
    && (o.nfuse == 0 || (decide (2 ≤ o.nloop) && o.th == o.tw))
    && (List.range o.nfuse).all (fun j => o.f (76 + 2 * j) 1 < 64 && decide ((o.fuse j).2.2 ≤ 15))
    && (o.bs.drop 96).all (· == 0)

/-- A schedule record keeps the table of 15 R347. -/
def schedOk (bs : List Byte) : Bool :=
  (List.range 4).all (fun l => (fieldOf bs (8 * l) 8 == 0) == (fieldOf bs (64 + 4 * l) 4 == 0)) && (bs.drop 80).all (· == 0)

/-- The OPB of a number of the graph; the error is the code that the graph fails with: 0 for an uncorrectable read (15 R370), else
BADGRAPH. -/
def readOpb (d : Nat) (g : Graph) (n : Nat) (s : State) : Except Nat (Opb × State) :=
  match ttRead d g.vf (g.opbs + BitVec.ofNat 64 (128 * n)) 128 s with
  | .error _ => .error Cause.badgraph.code
  | .ok r => if r.lost then .error 0 else .ok ({ bs := r.bs }, r.st)

/-- A table that the OPB names. -/
def readTable (d : Nat) (g : Graph) (a : Word) (n : Nat) (s : State) : Except Nat (List Byte × State) :=
  match ttRead d g.vf a n s with
  | .error _ => .error Cause.badgraph.code
  | .ok r => .ok (r.bs, r.st)

/-- The successors of an OPB; an index that names no OPB breaks the graph (DEDUCED, log 18). -/
def readSucc (d : Nat) (g : Graph) (o : Opb) (s : State) : Except Nat (List Nat × State) := do
  if o.nsucc = 0 then .ok ([], s) else
  let (bs, s) ← readTable d g o.succ (2 * o.nsucc) s
  let l := (List.range o.nsucc).map fun i => fieldOf bs (2 * i) 2
  if l.all fun x => decide (x < g.nopb) then .ok (l, s) else .error Cause.badgraph.code

/-- The checks of an OPB's first expansion in a launch (15 R354). -/
def checkOpb (d : Nat) (g : Graph) (o : Opb) (s : State) : Except Nat State := do
  if !o.ok then .error Cause.badgraph.code else
  let (_, s) ← readSucc d g o s
  let (_, s) ← readTable d g o.param 224 s
  let s ← ((List.range 4).filter fun c => o.hasShape c).foldlM (fun s c => do
    let (bs, s) ← readTable d g (o.schedAt c) 96 s
    if schedOk bs then .ok s else .error Cause.badgraph.code) s
  if o.mfmask = 0 then .ok s else (readTable d g o.mftab 256 s).map (·.2)

/-- Loop indices of a tile index, loop 0 first (15 R351). -/
def Opb.indices (o : Opb) (t : Nat) : List Nat :=
  ((List.range o.nloop).foldl (fun (r : List Nat × Nat) l => (r.1 ++ [r.2 % o.trip l], r.2 / o.trip l)) ([], t)).1

/-- Region words of layers 0 to j - 1 (15 R352), none for FUSE_RANGE. -/
def Opb.regions (o : Opb) : Nat → Int → Int → Int → Option (List (BitVec 32))
  | 0, _, _, _ => some []
  | j + 1, side, r, c =>
    let (k, st, p) := o.fuse j
    let side := (side - 1) * st + k
    let r := r * st - p
    let c := c * st - p
    if 256 < side ∨ r < -2048 ∨ 2047 < r ∨ c < -2048 ∨ 2047 < c then none
    else (o.regions j side r c).map fun l =>
      l ++ [BitVec.ofInt 12 r ++ BitVec.ofInt 12 c ++ BitVec.ofInt 8 (side - 1)]

/-- Region words of a tile step. -/
def Opb.fused (o : Opb) (idx : List Nat) : Option (List (BitVec 32)) :=
  o.regions o.nfuse o.th (idx.getD 1 0 * o.th) (idx.getD 0 0 * o.th)

/-! ### Launches (15 R343, R344) -/

/-- The record and the header, checked; none refuses the launch. -/
def checkLaunch (d vf : Nat) (r : Launch) (s : State) : Option (Graph × State) :=
  let bs := toBytes 32 r.toNat
  let a : Word := BitVec.ofNat 64 (fieldOf bs 0 8)
  let k0 := fieldOf bs 8 4
  let nstep := fieldOf bs 12 4
  let dies := fieldOf bs 17 1
  if dies = 0 ∨ 3 < dies ∨ !natBit dies d ∨ nstep = 0 ∨ fieldOf bs 18 6 != 0 ∨ a.toNat % 64 != 0 then none else
  match ttRead d vf a 64 s with
  | .error _ => none
  | .ok h =>
    let nopb := fieldOf h.bs 0 2
    let rways := fieldOf h.bs 2 1
    let wbase := fieldOf h.bs 3 1
    let total := fieldOf h.bs 4 2
    let opbs : Word := BitVec.ofNat 64 (fieldOf h.bs 8 8)
    let steps : Word := BitVec.ofNat 64 (fieldOf h.bs 16 8)
    if nopb = 0 ∨ 16384 < nopb ∨ rways = 0 ∨ 16 < rways ∨ 16 < wbase + rways ∨ fieldOf h.bs 6 2 != 0
        ∨ !(h.bs.drop 24).all (· == 0) ∨ opbs.toNat % 128 != 0 ∨ steps.toNat % 64 != 0 ∨ total < k0 + nstep then none
    else match ttKey h.st vf opbs 128, ttKey h.st vf steps 64 with
      | .ok _, .ok _ =>
        some ({ vf := vf, hdr := a.toNat, nopb := nopb, rways := rways, wbase := wbase, total := total, opbs := opbs, steps := steps,
                k0 := k0, nstep := nstep, tag := BitVec.ofNat 8 (fieldOf bs 16 1), dies := BitVec.ofNat 2 dies,
                cookie := BitVec.ofNat 64 (fieldOf bs 24 8), step := k0, inStep := false, notBefore := 0, lv := .fill 0,
                opb := .fill {}, lost := 0, failed := false }, h.st)
      | _, _ => none

/-- A graph becomes current on a die, or waits for the current one there. -/
def State.placeGraph (s : State) (d : Nat) (g : Graph) : State :=
  s.updDie d fun x => match x.graphs.get g.vf with
    | none => { x with graphs := x.graphs.set g.vf (some g) }
    | some _ => { x with joint := x.joint.set g.vf (some g) }

/-- State words of OPBs that graphs of other virtual functions than `vf` hold on a die, and those of its own current graph (15 R353). -/
def Die.opbWords (x : Die) (vf : Nat) : Nat × Nat :=
  let n (g : Option Graph) : Nat := match g with | some g => g.nopb | none => 0
  let fns := ((x.graphs.rows.map Prod.fst) ++ x.joint.rows.map Prod.fst).eraseDups
  (((fns.filter (· != vf)).map fun v => max (n (x.graphs.get v)) (n (x.joint.get v))).foldl (· + ·) 0, n (x.graphs.get vf))

/-- The die's 16,384 state words have room for the graph; until then its launch waits (log 59). -/
def State.opbRoom (s : State) (g : Graph) : Bool :=
  g.onDies.all fun d => let w := (s.die d).opbWords g.vf; decide (w.1 + max w.2 g.nopb ≤ 16384)

/-- The virtual function whose launch a die takes next: the lowest with a record in its queue and no graph (15 R344). -/
def Die.nextLaunch (x : Die) : Option Nat :=
  (List.range 96).find? fun vf => !(x.lq.get vf).isEmpty && (x.graphs.get vf).isNone

/-- `LAUNCH` (15 R343, R344): launches are taken in NORMAL mode (21 R443), one graph at a time per virtual function. -/
def execLaunch : State → Out := event fun s =>
  let d := boolNat s.arg.flag
  if s.pkg.mode != 1 then s else
  match (s.die d).nextLaunch with
  | none => s
  | some vf =>
    match (s.die d).lq.get vf with
    | [] => s
    | r :: q =>
      let t := s.updDie d fun x => { x with lq := x.lq.set vf q }
      match checkLaunch d vf r t with
      | none =>
        let bs := toBytes 32 r.toNat
        t.complete vf 3 3 0 (BitVec.ofNat 8 (fieldOf bs 16 1)) 0 (fieldOf bs 8 4) (BitVec.ofNat 64 (fieldOf bs 24 8))
      | some (g, t) => if s.opbRoom g then g.onDies.foldl (fun s d => s.placeGraph d g) t else s

/-! ### Steps (15 R348-R350) -/

/-- The dependence counters of the step: from each OPB's DEP. -/
def loadDeps (d : Nat) (g : Graph) : List Nat → Tab OpbSt → State → Except Nat (Tab OpbSt × State)
  | [], t, s => .ok (t, s)
  | n :: l, t, s => do
    let (o, s) ← readOpb d g n s
    loadDeps d g l (t.set n { dep := BitVec.ofNat 16 o.dep, ready := o.dep == 0, checked := (g.opb.get n).checked }) s

/-- Step `k` of the graph begins on a die. A step entry that cannot be read ends the graph with its cause (log 18). -/
def State.beginStep (s : State) (d : Nat) (g : Graph) : State :=
  match ttRead d g.vf (g.steps + BitVec.ofNat 64 (64 * g.step)) 64 s with
  | .error c => s.failGraph d g.vf c.code
  | .ok r =>
    if r.lost then r.st.failGraph d g.vf 0 else
    let w (o : Nat) : BitVec 32 := BitVec.ofNat 32 (fieldOf r.bs o 4)
    let lv : Tab (BitVec 32) := ((List.range 7).foldl (fun t i => t.set (2 + i) (w (4 * i)))
      ((Tab.fill (0 : BitVec 32)).set 0 (BitVec.ofNat 32 g.step) |>.set 1 (BitVec.ofNat 32 g.total)))
    let lv := (List.range 5).foldl (fun t i => t.set (11 + i) (w (28 + 4 * i))) lv
    match loadDeps d g (List.range g.nopb) (.fill {}) r.st with
    | .error c => r.st.failGraph d g.vf c
    | .ok (t, s) => (s.setGraph d g.vf (some { g with lv := lv, opb := t, inStep := true })).checkStep d g.vf

/-- The graph on a die can begin its next step. -/
def State.mayStep (s : State) (d : Nat) (g : Graph) : Bool :=
  match s.graph d g.vf with
  | some x => x.hdr == g.hdr && x.step == g.step && x.joined == g.joined && !x.inStep && !x.failed && !x.ended
      && decide (x.notBefore ≤ s.ptime)
  | none => false

/-- The next step of the graph begins, on both dies at once for a two-die launch. -/
def State.startStep (s : State) (g : Graph) : State :=
  if g.onDies.all fun d => s.mayStep d g then
    g.onDies.foldl (fun s d => match s.graph d g.vf with
      | some x => if x.failed then s else s.beginStep d x
      | none => s) s
  else s

/-- The next step of the graph comes by itself, at its time: one behind the first of a two-die launch (15 R349). -/
def Graph.timed (g : Graph) : Bool := g.joined && !g.inStep && !g.failed && !g.ended && g.step != g.k0

/-- `STEP_START` (15 R349). -/
def execStepStart : State → Out := event fun s =>
  match s.graph (boolNat s.arg.flag) s.arg.n with
  | none => s
  | some g => if g.timed then s else s.startStep g

/-- The graphs of a die whose next step comes at a `PTIME`. -/
def State.timedGraphs (s : State) (d : Nat) : List Graph :=
  (s.die d).graphs.rows.filterMap fun r => match r.2 with | some g => if g.timed then some g else none | none => none

/-- Two-die launches whose time has come begin their next step. -/
def State.stepSettle (s : State) : State := ((s.timedGraphs 0) ++ s.timedGraphs 1).foldl (fun s g =>
  match s.graph (if g.dies.getLsbD 0 then 0 else 1) g.vf with
  | some x => if x.timed && x.hdr == g.hdr && x.step == g.step then s.startStep x else s
  | none => s) s

/-- The `PTIME` values at which two-die launches wait to go on. -/
def State.stepTimes (s : State) : List Nat :=
  (((s.timedGraphs 0) ++ s.timedGraphs 1).filter fun g => g.onDies.all fun d => match s.graph d g.vf with
    | some x => x.hdr == g.hdr && x.step == g.step && x.timed
    | none => false).map Graph.notBefore

/-! ### The walker (15 R351-R354) -/

/-- The lowest index from `i` on that passes a test, among `n`. -/
def firstFrom (ok : Nat → Bool) : Nat → Nat → Option Nat
  | 0, _ => none
  | n + 1, i => if ok i then some i else firstFrom ok n (i + 1)

/-- OPB `n` is ready and has a tile step to expand. -/
def Graph.expandable (g : Graph) (n : Nat) : Bool :=
  let o := g.opb.get n
  decide (n < g.nopb) && g.inStep && !g.failed && o.ready && !o.done && !o.dropped && (o.tiles == 0 || decide (o.next < o.tiles))

/-- The next tile step of OPB `n` takes the lowest free task entry; the walker waits while none is free. -/
def State.expand (s : State) (d : Nat) (g : Graph) (n : Nat) : State :=
  match firstFrom (fun i => ((s.die d).tasks.get i).isFree) 16384 0 with
  | none => s
  | some i =>
    let st := g.opb.get n
    let got := do
      let (o, s) ← readOpb d g n s
      let s ← if st.checked then .ok s else checkOpb d g o s
      .ok (o, s)
    match got with
    | .error c => s.failGraph d g.vf c
    | .ok (o, s) =>
      let idx := o.indices st.next
      if (o.fused idx).isNone then s.failGraph d g.vf Cause.fuseRange.code else
      let st := if st.tiles = 0 then { st with tiles := o.tiles, left := o.tiles, checked := true } else st
      let e : TaskEntry := { st := .expanded, vf := g.vf, opb := n, tile := st.next, idx := idx }
      (s.updGraph d g.vf fun x => x.updOpb n fun _ => { st with next := st.next + 1 }).updDie d fun x =>
        { x with tasks := x.tasks.set i e }

/-- `WALKER_EXPAND` (15 R351). -/
def execWalkerExpand : State → Out := event fun s =>
  let d := boolNat s.arg.flag
  match s.graph d s.arg.n with
  | none => s
  | some g =>
    match if g.expandable s.arg.m then some s.arg.m else firstFrom g.expandable g.nopb 0 with
    | some n => s.expand d g n
    | none => s

/-! ### Completions (15 R349, R353, R370) -/

/-- The counters of the successors of a completed OPB. -/
def State.release1 (s : State) (d vf : Nat) : List Nat → State
  | [] => s.checkStep d vf
  | x :: l =>
    match s.graph d vf with
    | none => s
    | some g =>
      let o := g.opb.get x
      if o.dep = 0 then s.failGraph d vf Cause.depUnder.code
      else (s.updGraph d vf fun g => g.updOpb x fun o =>
        { o with dep := o.dep - 1, ready := o.ready || (o.dep == 1 && !o.dropped) }).release1 d vf l

/-- An OPB has completed. -/
def State.opbDone (s : State) (d vf n : Nat) : State :=
  let s := s.updGraph d vf fun g => g.updOpb n fun o => { o with done := true }
  match s.graph d vf with
  | none => s
  | some g =>
    match (do let (o, s) ← readOpb d g n s; readSucc d g o s) with
    | .error c => s.failGraph d vf c
    | .ok (l, s) => s.release1 d vf l

/-- A tile step has ended, or is dropped: its task entry is free again. -/
def State.tileEnd (s : State) (d i : Nat) (st : TaskState) : State :=
  let e := (s.die d).tasks.get i
  let s := s.updDie d fun x => x.freeTasks st [i]
  match s.graph d e.vf with
  | none => s
  | some g =>
    if g.failed then s.reap d e.vf else
    let s := s.updGraph d e.vf fun g => g.updOpb e.opb fun o => { o with left := o.left - 1 }
    if (g.opb.get e.opb).left = 1 then s.opbDone d e.vf e.opb else s

def State.tileDone (s : State) (d i : Nat) : State := s.tileEnd d i .done

/-- A task ends with a cause: its record, then its completion (15 R362). -/
def State.taskFault (s : State) (d i code : Nat) : State :=
  let e := (s.die d).tasks.get i
  let s := match s.graph d e.vf with
    | some g => s.complete e.vf 2 2 code g.tag i g.step g.cookie
    | none => s.complete e.vf 2 2 code 0 i 0 0
  s.tileDone d i

/-- The core is in the task of an entry. -/
def Core.inTask (c : Core) (d i : Nat) : Bool := c.mode != .idle && !c.task.lost && boolNat c.task.die == d && c.task.entry == i

/-- A core has left its task, unless that has been dropped: with a cause, with its context saved, or as `HALT` ends it. The task ends when every core of its
region has left. -/
def State.leaveTask (s : State) (c : CoreId) (fault : Option Nat) (saved : Bool) : State :=
  let t := (s.core c).task
  let d := boolNat t.die
  let i := t.entry
  let e := (s.die d).tasks.get i
  if t.lost || e.st != .running then s else
  let e := { e with fault := if e.fault.isSome then e.fault else fault, saved := e.saved || saved }
  let s := s.updDie d fun x => { x with tasks := x.tasks.set i e }
  if s.cores.rows.any fun r => r.1 != c.toNat && r.2.inTask d i then s
  else match e.fault with
    | some code => s.taskFault d i code
    | none =>
      let live := match s.graph d e.vf with | some g => !g.failed | none => false
      if e.saved && live then s.updDie d fun x => { x with tasks := x.tasks.set i { e with st := .expanded, saved := false } }
      else s.tileDone d i

/-! ### Dropped work (15 R370) -/

/-- OPBs and their transitive successors are dropped: their tile steps are lost. `fuel` bounds the visits. -/
def dropOpbs (d vf : Nat) : Nat → List Nat → State → State
  | 0, _, s => s
  | _, [], s => s.checkStep d vf
  | fuel + 1, n :: l, s =>
    match s.graph d vf with
    | none => s
    | some g =>
      if (g.opb.get n).dropped then dropOpbs d vf fuel l s else
      match (do let (o, s) ← readOpb d g n s; let (x, s) ← readSucc d g o s; .ok (o, x, s)) with
      | .error c => s.failGraph d vf c
      | .ok (o, x, s) =>
        let s := s.updGraph d vf fun g => { g.updOpb n fun p => { p with dropped := true } with lost := g.lost + o.tiles }
        dropOpbs d vf fuel (x ++ l) s

/-- An uncorrectable error strikes a live dependence counter. -/
def State.dropCounter (s : State) (d vf n : Nat) : State :=
  match s.graph d vf with
  | some g =>
    if g.inStep && !g.failed && decide (n < g.nopb) && !(g.opb.get n).ready && !(g.opb.get n).dropped then
      dropOpbs d vf (g.nopb * 16385 + 2) [n] s
    else s
  | none => s

/-- The cores of a task that is dropped while it runs: nothing follows from their end. -/
def State.loseTask (s : State) (d i : Nat) : State :=
  { s with cores := s.cores.all fun c => if c.inTask d i then { c with task := { c.task with lost := true } } else c }

/-- An uncorrectable error strikes a task entry: the task and the successors of its OPB are dropped. -/
def State.dropTask (s : State) (d i : Nat) : State :=
  let e := (s.die d).tasks.get i
  if e.isFree then s else
  match s.graph d e.vf with
  | none => s
  | some g =>
    if g.failed then s else
    match (do let (o, s) ← readOpb d g e.opb s; readSucc d g o s) with
    | .error c => s.failGraph d e.vf c
    | .ok (l, s) =>
      let s := s.updGraph d e.vf fun g => { g with lost := g.lost + 1 }
      let s := dropOpbs d e.vf (g.nopb * 16385 + 2) l s
      (s.loseTask d i).tileEnd d i .dropped

end Sys2Proof.Machine
end

