-- ==== Sys2Proof/Machine/Fetch.lean ====
section
/-! DEFINITION. The front end: instruction buffers and words fetched on demand (02 R35, 05 R127, 19 R420). -/

namespace Sys2Proof.Machine

open Sys2Proof

/-- Words that a lane's instruction buffer holds (05 R127). -/
def bufferWords : Nat := 2048

/-- Generic address of word `i` of a lane's section (02 R35). -/
def Core.codeAddr (c : Core) (l : Lane) (i : Nat) : Word := c.ctl.cbase.get (laneIdx l) + BitVec.ofNat 64 (4 * i)

/-- A code word of a lane of the core in focus, read through the L1 and the L2 (05 R127); an uncorrectable word raises CODE_UE
with its index (19 R420). -/
def fetchCode (l : Lane) (i : Nat) (s : State) : Except Halt (Code × State) := do
  let a := s.me.codeAddr l i
  let (loc, s1) ← locate { s.lanes with timed := false } a 4 false true true s
  let (bs, s2) := placeRead s1 s1.focus loc.place loc.key 4
  if (s2.badWords loc.key 4).isEmpty then .ok (BitVec.ofNat 32 (leBytes bs), s2)
  else .error (.trap .codeUe (BitVec.ofNat 64 i))

/-- Places a word in the lane's front end. -/
def State.putCode (s : State) (l : Lane) (i : Nat) (w : Option Code) : State :=
  s.updLane l fun x => { x with buf := x.buf.set i w }

/-- A word of the section is made present in the front end. -/
def ensureCode (l : Lane) (i : Nat) (s : State) : Except Halt State :=
  match (s.lane l).buf.get i with
  | some _ => .ok s
  | none => (fetchCode l i s).map fun r => r.2.putCode l i (some r.1)

/-- At launch the first words of each section are loaded (05 R127). A word that cannot be read stays absent: the lane meets
its cause when it comes to it. -/
def State.loadBuffer (s : State) (l : Lane) : State :=
  (List.range (min (s.me.clen l) bufferWords)).foldl (fun s i =>
    match ensureCode l i s with | .ok t => t | .error _ => s) (s.updLane l fun x => { x with buf := .fill none })

/-- Indexes of the words of the instruction at `pc`. -/
def wordIdx (l : Lane) (pc : Nat) : List Nat := match l with | .m => [pc, pc + 1] | _ => [pc]

/-- The words of the instruction at `pc`, when they are all present. -/
def LaneSt.wordsAt (x : LaneSt) (l : Lane) (pc : Nat) : Option (List Code) := (wordIdx l pc).mapM fun i => x.buf.get i

/-- A word beyond the buffer leaves the front end once it has issued. -/
def LaneSt.forget (x : LaneSt) (l : Lane) (pc : Nat) : LaneSt :=
  { x with buf := (wordIdx l pc).foldl (fun b i => if bufferWords ≤ i then b.set i none else b) x.buf }

/-- `CODE_FETCH` (05 R127): the next word of the lane that its front end does not hold arrives. -/
def execCodeFetch : State → Out := event fun s =>
  let l := s.arg.lane
  let pc := (s.lane l).pc.toNat
  match ((List.range (s.me.clen l - pc)).map (pc + ·)).find? fun i => ((s.lane l).buf.get i).isNone with
  | none => s
  | some i => match ensureCode l i s with | .ok t => t | .error _ => s

end Sys2Proof.Machine
end

