-- ==== Sys2Proof/Machine/Num.lean ====
section
/-! DEFINITION. Number formats and rounding (03). A finite value is a sign, a magnitude `m` and an exponent `e`, standing
for m x 2^e; every operation forms its exact result and rounds it once (03 R79). -/

namespace Sys2Proof.Machine

open Sys2Proof

/-- A floating format (03 R69): exponent bits, fraction bits, and whether it is E4M3, which has no infinity. -/
structure Fmt where
  eb : Nat
  mb : Nat
  e4m3 : Bool := false
deriving DecidableEq, Repr

def fmtF64 : Fmt := { eb := 11, mb := 52 }
def fmtF32 : Fmt := { eb := 8, mb := 23 }
def fmtF16 : Fmt := { eb := 5, mb := 10 }
def fmtBf16 : Fmt := { eb := 8, mb := 7 }
def fmtE4m3 : Fmt := { eb := 4, mb := 3, e4m3 := true }
def fmtE5m2 : Fmt := { eb := 5, mb := 2 }
def fmtX96 : Fmt := { eb := 15, mb := 80 }

/-- Bits of a pattern of the format. -/
def Fmt.width (f : Fmt) : Nat := 1 + f.eb + f.mb
def Fmt.bias (f : Fmt) : Int := (2 ^ (f.eb - 1) : Nat) - 1
/-- Exponent of the least normal value. -/
def Fmt.emin (f : Fmt) : Int := 1 - f.bias
/-- Exponent of the greatest finite value. -/
def Fmt.emax (f : Fmt) : Int := if f.e4m3 then 8 else f.bias
/-- Significand of the greatest finite value. -/
def Fmt.maxSig (f : Fmt) : Nat := if f.e4m3 then 14 else 2 ^ (f.mb + 1) - 1
def Fmt.signBit (f : Fmt) : Nat := 2 ^ (f.eb + f.mb)
/-- Pattern of +infinity; for E4M3, which has none, the NaN 0x7F that takes its place (03 R80). -/
def Fmt.infPat (f : Fmt) : Nat := if f.e4m3 then 0x7F else (2 ^ f.eb - 1) * 2 ^ f.mb
/-- Pattern of an infinity with its sign; 0x7F for both in E4M3. -/
def Fmt.infOf (f : Fmt) (neg : Bool) : Nat := if neg && !f.e4m3 then f.signBit + f.infPat else f.infPat
/-- Pattern of the greatest finite value. -/
def Fmt.maxPat (f : Fmt) : Nat := if f.e4m3 then 0x7E else (2 ^ f.eb - 1) * 2 ^ f.mb - 1
/-- The canonical NaN (03 R69). -/
def Fmt.nanPat (f : Fmt) : Nat :=
  if f.e4m3 then 0x7F else (2 ^ f.eb - 1) * 2 ^ f.mb + 2 ^ (f.mb - 1)
/-- The poison pattern, for the formats that have one (03 R84). -/
def Fmt.poison (f : Fmt) : Option Nat :=
  if f = fmtF32 then some 0x7FC0DEAD
  else if f = fmtF64 then some 0x7FF800000000DEAD
  else if f = fmtX96 then some 0x7FFF8000000000000000DEAD
  else none

/-- A value of a format: a NaN, an infinity, or a finite value with its sign (03 R69). -/
inductive Val where
  | nan
  | inf (neg : Bool)
  | fin (neg : Bool) (m : Nat) (e : Int)
deriving DecidableEq, Repr

/-- Sticky flags raised by an operation, in `FPFLAGS` bit order (02 R63). -/
structure FpFlags where
  nv : Bool := false
  dz : Bool := false
  of : Bool := false
  uf : Bool := false
  nx : Bool := false
deriving DecidableEq, Repr

def FpFlags.or (a b : FpFlags) : FpFlags :=
  { nv := a.nv || b.nv, dz := a.dz || b.dz, of := a.of || b.of, uf := a.uf || b.uf, nx := a.nx || b.nx }

/-- The flags as the five bits of `FPFLAGS`. -/
def FpFlags.toBits (f : FpFlags) : BitVec 5 :=
  BitVec.ofNat 5 (boolNat f.nv + 2 * boolNat f.dz + 4 * boolNat f.of + 8 * boolNat f.uf + 16 * boolNat f.nx)

def noFlags : FpFlags := {}
def flagNV : FpFlags := { nv := true }
def flagDZ : FpFlags := { dz := true }

/-- Sign bit of a pattern. -/
def Fmt.sign (f : Fmt) (x : Nat) : Bool := x / f.signBit % 2 == 1

def Fmt.isNan (f : Fmt) (x : Nat) : Bool :=
  let y := x % f.signBit
  if f.e4m3 then y == 0x7F else decide (f.infPat < y)

/-- A signalling NaN: every FP8 NaN is quiet (03 R70). -/
def Fmt.isSnan (f : Fmt) (x : Nat) : Bool :=
  f.isNan x && decide (8 < f.width) && !(x / 2 ^ (f.mb - 1) % 2 == 1)

def Fmt.isInf (f : Fmt) (x : Nat) : Bool := !f.e4m3 && x % f.signBit == f.infPat

def Fmt.isPoison (f : Fmt) (x : Nat) : Bool := f.poison == some (x % 2 ^ f.width)

/-- The value of a pattern (03 R69). -/
def Fmt.val (f : Fmt) (x : Nat) : Val :=
  let neg := f.sign x
  let ex := x / 2 ^ f.mb % 2 ^ f.eb
  let fr := x % 2 ^ f.mb
  if f.isNan x then .nan
  else if f.isInf x then .inf neg
  else if ex = 0 then .fin neg fr (f.emin - f.mb)
  else .fin neg (2 ^ f.mb + fr) ((ex : Int) - f.bias - f.mb)

/-- Whether the magnitude is rounded away from zero: `n` is the truncated significand, the rest is `rem` of 2^d, and
`sticky` says that a further part is not zero (03 R79). -/
def roundsUp (rm : Rm) (neg : Bool) (n rem d : Nat) (sticky : Bool) : Bool :=
  let inexact := rem != 0 || sticky
  match rm with
  | .rne =>
    if d = 0 then false
    else
      let half := 2 ^ (d - 1)
      if half < rem then true
      else if rem = half then sticky || n % 2 == 1
      else false
  | .rtz => false
  | .rup => inexact && !neg
  | .rdn => inexact && neg

/-- The pattern of an overflow (03 R80); `sat` is the saturate option of 03 R81. -/
def overflowPat (f : Fmt) (rm : Rm) (sat neg : Bool) : Nat :=
  let toInf := match rm with
    | .rne => true | .rtz => false | .rup => !neg | .rdn => neg
  if toInf && !sat then f.infOf neg else (if neg then f.signBit else 0) + f.maxPat

/-- Rounds the value with sign `neg` and magnitude m x 2^e, plus a part below 1 x 2^e that is not zero when `sticky`
(03 R79-R82). With `sticky`, `m` must have more bits than the significand of the format. -/
def roundMag (f : Fmt) (rm : Rm) (sat neg : Bool) (m : Nat) (e : Int) (sticky : Bool) : Nat × FpFlags :=
  let sgn := if neg then f.signBit else 0
  if m = 0 && !sticky then (sgn, noFlags)
  else
    let top : Int := (Nat.log2 m : Int) + e
    let q : Int := max (top - f.mb) (f.emin - f.mb)
    let d : Nat := (q - e).toNat
    let n := if q ≤ e then m * 2 ^ (e - q).toNat else m / 2 ^ d
    let rem := if q ≤ e then 0 else m % 2 ^ d
    let inexact := rem != 0 || sticky
    let up := roundsUp rm neg n rem d sticky
    let n1 := if up then n + 1 else n
    let n2 := if n1 = 2 ^ (f.mb + 1) then 2 ^ f.mb else n1
    let q2 := if n1 = 2 ^ (f.mb + 1) then q + 1 else q
    let qmax := f.emax - f.mb
    if decide (qmax < q2) || (decide (q2 = qmax) && decide (f.maxSig < n2)) then
      (overflowPat f rm sat neg, { of := true, nx := true })
    else
      let tiny := decide (top < f.emin)
      let pat := if n2 < 2 ^ f.mb then n2 else (q2 + f.mb + f.bias).toNat * 2 ^ f.mb + (n2 - 2 ^ f.mb)
      (sgn + pat, { nx := inexact, uf := tiny && inexact })

/-- The sign of an exact zero that is a sum of terms of opposite signs (03 R79). -/
def zeroNeg (rm : Rm) : Bool := rm == .rdn

/-- Rounds a value; `none` is an invalid operation (03 R83). -/
def roundVal (f : Fmt) (rm : Rm) (sat : Bool) : Option Val → Nat × FpFlags
  | none => (f.nanPat, flagNV)
  | some .nan => (f.nanPat, noFlags)
  | some (.inf neg) => (f.infOf neg, noFlags)
  | some (.fin neg m e) => roundMag f rm sat neg m e false

/-- The product of two values; `none` for 0 x infinity. NaN operands are settled before (03 R83). -/
def mulVal : Val → Val → Option Val
  | .fin s m e, .fin t n d => some (.fin (s != t) (m * n) (e + d))
  | .inf s, .fin t n _ => if n = 0 then none else some (.inf (s != t))
  | .fin s m _, .inf t => if m = 0 then none else some (.inf (s != t))
  | .inf s, .inf t => some (.inf (s != t))
  | _, _ => some .nan

def negVal : Val → Val
  | .nan => .nan
  | .inf s => .inf (!s)
  | .fin s m e => .fin (!s) m e

/-- Exact sum of two dyadic numbers. -/
def addDy (m : Int) (e : Int) (n : Int) (d : Int) : Int × Int :=
  if e ≤ d then (m + n * 2 ^ (d - e).toNat, e) else (m * 2 ^ (e - d).toNat + n, d)

/-- Exact sum of the finite terms as an integer times a power of two, with the signs of its zero terms. -/
def sumFin : List Val → Int × Int
  | [] => (0, 0)
  | .fin neg m e :: t =>
    if m = 0 then sumFin t
    else
      let r := sumFin t
      let x : Int := if neg then -(m : Int) else m
      if r.1 = 0 then (x, e) else addDy x e r.1 r.2
  | _ :: t => sumFin t

def Val.neg : Val → Bool
  | .nan => false
  | .inf s => s
  | .fin s _ _ => s

/-- `exact_sum` (01 R33) of terms, `none` when a term is invalid or infinities of both signs meet (03 R83). The sign of
an exact zero: the common sign of the terms when they agree, else by 03 R79. -/
def sumVals (rm : Rm) (ts : List (Option Val)) : Option Val :=
  if ts.any (fun t => t.isNone) then none
  else
    let vs := ts.filterMap id
    let pinf := vs.any (fun v => v == .inf false)
    let ninf := vs.any (fun v => v == .inf true)
    if vs.any (fun v => v == .nan) then some .nan
    else if pinf && ninf then none
    else if pinf then some (.inf false)
    else if ninf then some (.inf true)
    else
      let r := sumFin vs
      if r.1 = 0 then
        let neg := if vs.all Val.neg then !vs.isEmpty else if vs.any Val.neg then zeroNeg rm else false
        some (.fin neg 0 0)
      else some (.fin (decide (r.1 < 0)) r.1.natAbs r.2)

/-- What 03 R83 says about the NaN operands of an operation with destination `dst`, or `none` when there is none.
Each operand comes with its format. -/
def nanResult (dst : Fmt) (ops : List (Fmt × Nat)) : Option (Nat × FpFlags) :=
  if ops.any (fun o => o.1.isPoison o.2) then some (dst.poison.getD dst.nanPat, noFlags)
  else if ops.any (fun o => o.1.isSnan o.2) then some (dst.nanPat, flagNV)
  else if ops.any (fun o => o.1.isNan o.2) then some (dst.nanPat, noFlags)
  else none

/-- One rounded operation: the NaN rules, then the rounded exact result. -/
def fpOp (dst : Fmt) (rm : Rm) (ops : List (Fmt × Nat)) (r : Option Val) : Nat × FpFlags :=
  match nanResult dst ops with
  | some p => p
  | none => roundVal dst rm false r

/-- The exact sum of terms, rounded once. -/
def fpSum (dst : Fmt) (rm : Rm) (ops : List (Fmt × Nat)) (ts : List (Option Val)) : Nat × FpFlags :=
  fpOp dst rm ops (sumVals rm ts)

def fpAdd (f : Fmt) (rm : Rm) (a b : Nat) : Nat × FpFlags :=
  fpSum f rm [(f, a), (f, b)] [some (f.val a), some (f.val b)]

def fpSub (f : Fmt) (rm : Rm) (a b : Nat) : Nat × FpFlags :=
  fpSum f rm [(f, a), (f, b)] [some (f.val a), some (negVal (f.val b))]

def fpMul (f : Fmt) (rm : Rm) (a b : Nat) : Nat × FpFlags :=
  fpOp f rm [(f, a), (f, b)] (mulVal (f.val a) (f.val b))

/-- The quotient of two finite magnitudes as a truncated significand, an exponent and whether a remainder is left. -/
def divMag (m : Nat) (e : Int) (n : Nat) (d : Int) : Nat × Int × Bool :=
  let k := 120 + Nat.log2 n
  let x := m * 2 ^ k
  (x / n, e - d - k, x % n != 0)

/-- Quotient (07 R188): a finite non-zero value by zero is an infinity with DZ; 0/0 and inf/inf are invalid. -/
def fpDiv (f : Fmt) (rm : Rm) (a b : Nat) : Nat × FpFlags :=
  match nanResult f [(f, a), (f, b)] with
  | some p => p
  | none =>
    match f.val a, f.val b with
    | .fin s m e, .fin t n d =>
      let neg := s != t
      let sg := if neg then f.signBit else 0
      if n = 0 then (if m = 0 then (f.nanPat, flagNV) else (sg + f.infPat, flagDZ))
      else
        let r := divMag m e n d
        roundMag f rm false neg r.1 r.2.1 r.2.2
    | .inf s, .fin t _ _ => (f.infOf (s != t), noFlags)
    | .fin s _ _, .inf t => (if s != t then f.signBit else 0, noFlags)
    | _, _ => (f.nanPat, flagNV)

/-- Exact comparison of finite values: -1, 0 or 1. -/
def cmpFin (s : Bool) (m : Nat) (e : Int) (t : Bool) (n : Nat) (d : Int) : Int :=
  let x : Int := if s then -(m : Int) else m
  let y : Int := if t then -(n : Int) else n
  let r := addDy x e (-y) d
  if r.1 < 0 then -1 else if r.1 = 0 then 0 else 1

/-- Exact comparison of values that are no NaN. -/
def cmpVal : Val → Val → Int
  | .inf s, .inf t => if s = t then 0 else if s then -1 else 1
  | .inf s, _ => if s then -1 else 1
  | _, .inf t => if t then 1 else -1
  | .fin s m e, .fin t n d => cmpFin s m e t n d
  | _, _ => 0

/-- The lesser (greater) of two patterns that are no NaN, with -0 below +0 (07 R188, 03 R96). -/
def fpMinPat (f : Fmt) (a b : Nat) : Nat :=
  let c := cmpVal (f.val a) (f.val b)
  if c < 0 then a else if 0 < c then b else if f.sign a then a else b

def fpMaxPat (f : Fmt) (a b : Nat) : Nat :=
  let c := cmpVal (f.val a) (f.val b)
  if 0 < c then a else if c < 0 then b else if f.sign a then b else a

def fpMin (f : Fmt) (a b : Nat) : Nat × FpFlags :=
  match nanResult f [(f, a), (f, b)] with
  | some p => p
  | none => (fpMinPat f a b, noFlags)

def fpMax (f : Fmt) (a b : Nat) : Nat × FpFlags :=
  match nanResult f [(f, a), (f, b)] with
  | some p => p
  | none => (fpMaxPat f a b, noFlags)

/-- A float pattern in another float format (03 R85); `sat` is the option of 03 R81. -/
def cvtFF (src dst : Fmt) (rm : Rm) (sat : Bool) (x : Nat) : Nat × FpFlags :=
  match nanResult dst [(src, x)] with
  | some p => p
  | none =>
    match src.val x with
    | .inf neg =>
      let sg := if neg then dst.signBit else 0
      if sat then (sg + dst.maxPat, noFlags)
      else if dst.e4m3 then (0x7F, flagNV)
      else (dst.infOf neg, noFlags)
    | v => roundVal dst rm sat (some v)

/-- An integer pattern of `w` bits in a float format (03 R87). -/
def cvtIF (w : Nat) (dst : Fmt) (rm : Rm) (sat : Bool) (x : Nat) : Nat × FpFlags :=
  let i := natSigned w x
  roundMag dst rm sat (decide (i < 0)) i.natAbs 0 false

/-- A float pattern as an integer of `w` bits (03 R86). -/
def cvtFI (src : Fmt) (w : Nat) (rm : Rm) (x : Nat) : Nat × FpFlags :=
  if src.isPoison x then (0, noFlags)
  else
    let lo : Int := -(2 ^ (w - 1) : Nat)
    let hi : Int := (2 ^ (w - 1) : Nat) - 1
    let pat (i : Int) : Nat := (i % (2 ^ w : Nat)).toNat
    match src.val x with
    | .nan => (0, flagNV)
    | .inf neg => (pat (if neg then lo else hi), flagNV)
    | .fin neg m e =>
      let d : Nat := (-e).toNat
      let n := if 0 ≤ e then m * 2 ^ e.toNat else m / 2 ^ d
      let rem := if 0 ≤ e then 0 else m % 2 ^ d
      let n1 := if roundsUp rm neg n rem d false then n + 1 else n
      let i : Int := if neg then -(n1 : Int) else n1
      if i < lo then (pat lo, flagNV)
      else if hi < i then (pat hi, flagNV)
      else (pat i, { nx := rem != 0 })

/-- An integer of `w` bits as one of `v` bits (03 R87). -/
def cvtII (w v : Nat) (sat : Bool) (x : Nat) : Nat :=
  let i := natSigned w x
  let lo : Int := -(2 ^ (v - 1) : Nat)
  let hi : Int := (2 ^ (v - 1) : Nat) - 1
  let j := if sat then (if i < lo then lo else if hi < i then hi else i) else i
  (j % (2 ^ v : Nat)).toNat

/-! ### Element types -/

/-- Element width in bytes (02 R47, R48). -/
def etBytes : EType → Nat
  | .f32 => 4 | .bf16 => 2 | .f16 => 2 | .e4m3 => 1 | .e5m2 => 1 | .i32 => 4 | .i16 => 2 | .i8 => 1 | .f64 => 8 | .c64 => 8

/-- Float format of a type; binary32 stands for the parts of C64, and for the integer types, which have none. -/
def etFmt : EType → Fmt
  | .f32 => fmtF32 | .bf16 => fmtBf16 | .f16 => fmtF16 | .e4m3 => fmtE4m3 | .e5m2 => fmtE5m2
  | .i32 => fmtF32 | .i16 => fmtF32 | .i8 => fmtF32 | .f64 => fmtF64 | .c64 => fmtF32

/-- Class F of 07 R186. -/
def etF : EType → Bool
  | .f32 => true | .bf16 => true | .f16 => true | .f64 => true
  | .e4m3 => false | .e5m2 => false | .i32 => false | .i16 => false | .i8 => false | .c64 => false

def etF8 : EType → Bool
  | .e4m3 => true | .e5m2 => true
  | .f32 => false | .bf16 => false | .f16 => false | .f64 => false | .i32 => false | .i16 => false | .i8 => false | .c64 => false

def etI : EType → Bool
  | .i32 => true | .i16 => true | .i8 => true
  | .f32 => false | .bf16 => false | .f16 => false | .f64 => false | .e4m3 => false | .e5m2 => false | .c64 => false

/-- A conversion between two real element types (03 R85-R87); a float target saturates only in FP8 (03 R81, 07 R194). -/
def cvtElem (src dst : EType) (rm : Rm) (sat : Bool) (x : Nat) : Nat × FpFlags :=
  let fsat := sat && etF8 dst
  if etI src then
    if etI dst then (cvtII (8 * etBytes src) (8 * etBytes dst) sat x, noFlags)
    else cvtIF (8 * etBytes src) (etFmt dst) rm fsat x
  else if etI dst then cvtFI (etFmt src) (8 * etBytes dst) rm x
  else cvtFF (etFmt src) (etFmt dst) rm fsat x

/-! ### QL4 (03 R74-R77) -/

/-- The codebook's BF16 patterns (03 R74). -/
def ql4Level (c : Nat) : Nat :=
  match c with
  | 0 => 0xBF80 | 1 => 0xBF32 | 2 => 0xBF06 | 3 => 0xBECA | 4 => 0xBE94 | 5 => 0xBE48 | 6 => 0xBDE0 | 7 => 0x0000
  | 8 => 0x3DA2 | 9 => 0x3E24 | 10 => 0x3E7C | 11 => 0x3EAD | 12 => 0x3EE2 | 13 => 0x3F10 | 14 => 0x3F39 | _ => 0x3F80

/-- Decode of one element from its code, its scale byte and the superscale (03 R76). -/
def ql4Elem (c q f : Nat) : Nat × FpFlags :=
  if f = 0x7FC0DEAD then (0x7FC0DEAD, noFlags)
  else
    let lv := fmtBf16.val (ql4Level c)
    match fmtF32.val f with
    | .nan => (0x7FC00000, if fmtF32.isSnan f then flagNV else noFlags)
    | .inf fn =>
      if c = 7 then (0x7FC00000, flagNV)
      else (if lv.neg != fn then 0xFF800000 else 0x7F800000, noFlags)
    | v => roundVal fmtF32 .rne false ((mulVal lv (.fin false (q + 1) (-8))).bind (fun x => mulVal x v))

/-- Element `j` of a superblock given as 136 bytes. -/
def ql4Decode (sb : List Byte) (j : Nat) : Nat × FpFlags :=
  let byte := (sb.getD (j / 2) 0).toNat
  let c := if j % 2 = 1 then byte / 16 else byte % 16
  ql4Elem c (sb.getD (128 + j / 64) 0).toNat (leBytes ((sb.drop 132).take 4))

/-- The finite magnitude of a binary32 pattern as an integer multiple of 2^-149. -/
def f32Mag (x : Nat) : Nat :=
  match fmtF32.val x with
  | .fin _ m e => m * 2 ^ (e + 149).toNat
  | _ => 0

def f32Int (x : Nat) : Int := if fmtF32.sign x then -(f32Mag x : Int) else f32Mag x

/-- A level of the codebook as an integer multiple of 2^-16. -/
def ql4LevelInt (c : Nat) : Int :=
  match fmtBf16.val (ql4Level c) with
  | .fin s m e =>
    let k : Nat := m * 2 ^ (e + 16).toNat
    if s then -(k : Int) else k
  | _ => 0

/-- The code that minimises |level x s - x|, ties to the smaller level magnitude (03 R77); `s` and `x` are multiples of
2^-157 and levels of 2^-16, so all products are exact integers. -/
def ql4Code (s : Nat) (x : Int) : Nat :=
  let err (c : Nat) : Nat := (ql4LevelInt c * s - x * 2 ^ 16).natAbs
  let better (c d : Nat) : Bool :=
    decide (err c < err d) || (err c == err d && decide ((ql4LevelInt c).natAbs < (ql4LevelInt d).natAbs))
  (List.range 16).foldl (fun best c => if better c best then c else best) 0

/-- Conversion of 256 binary32 patterns to a superblock (03 R77). -/
def ql4Encode (xs : List Nat) : List Byte × FpFlags :=
  if xs.any (fun x => fmtF32.isNan x || fmtF32.isInf x) then
    (List.replicate 128 0x77 ++ List.replicate 4 0 ++ toBytes 4 0x7FC00000, flagNV)
  else
    let fm := xs.foldl (fun m x => max m (x % 2 ^ 31)) 0
    if fm = 0 then (List.replicate 128 0x77 ++ List.replicate 4 0 ++ toBytes 4 0, noFlags)
    else
      let fmag := f32Mag fm
      let q (b : Nat) : Nat :=
        let mb := ((xs.drop (64 * b)).take 64).foldl (fun m x => max m (f32Mag x)) 0
        (256 * mb + fmag - 1) / fmag - 1
      let qs := [q 0, q 1, q 2, q 3]
      let codes := (List.range 256).map fun j =>
        ql4Code ((qs.getD (j / 64) 0 + 1) * fmag) (f32Int (xs.getD j 0) * 256)
      let bytes := (List.range 128).map fun i => BitVec.ofNat 8 (codes.getD (2 * i) 0 + 16 * codes.getD (2 * i + 1) 0)
      let differs := (List.range 256).any fun j =>
        let y := (ql4Elem (codes.getD j 0) (qs.getD (j / 64) 0) fm).1
        cmpVal (fmtF32.val y) (fmtF32.val (xs.getD j 0)) != 0
      (bytes ++ qs.map (BitVec.ofNat 8) ++ toBytes 4 fm, { nx := differs })

end Sys2Proof.Machine
end

