-- ==== Sys2Proof/Machine/Flags.lean ====
section
/-! DEFINITION. Rounding mode, floating flags with their trap enables (02 R62, R63, 03 R88), and the poison trap (19 R419). -/

namespace Sys2Proof.Machine

open Sys2Proof

/-- `FPCTL`.RM (02 R62). -/
def Regs.rm (r : Regs) : Rm := Rm.ofCode (bits r.fpctl 0 2).toNat
/-- `FPCTL`.TEN, in `FPFLAGS` bit order. -/
def Regs.ten (r : Regs) : BitVec 5 := bits r.fpctl 3 5
/-- `FPCTL`.PTRAP. -/
def Regs.ptrap (r : Regs) : Bool := r.fpctl.getLsbD 8

/-- A word's flags (03 R88): FP_EXC with those that are enabled, else all are ORed into `FPFLAGS`. -/
def raiseFlags (f : FpFlags) : Eff := fun s =>
  let hit := f.toBits &&& s.me.src.ten
  if hit != 0 then .error (.trap .fpExc (zextW hit))
  else .ok (s.updCtl fun c => { c with fpflags := c.fpflags ||| f.toBits })

/-- Flags of several results together. -/
def allFlags (l : List FpFlags) : FpFlags := l.foldl FpFlags.or noFlags

/-- A pattern of an element type holds a poison pattern; each part of C64 counts (03 R84). -/
def poisoned (t : EType) (x : Nat) : Bool :=
  match t with
  | .f32 => fmtF32.isPoison x
  | .f64 => fmtF64.isPoison x
  | .c64 => fmtF32.isPoison (x % 2 ^ 32) || fmtF32.isPoison (x / 2 ^ 32)
  | _ => false

/-- The lowest index among the elements that hold poison. -/
def lowestPoison (t : EType) (els : List (Nat × Nat)) : Option Nat :=
  els.foldl (fun m e => if poisoned t e.2 then some (match m with | none => e.1 | some k => min k e.1) else m) none

/-- Under PTRAP, a poison pattern in an active source element raises POISON with its index (19 R419). -/
def needSane (t : EType) (els : List (Nat × Nat)) (s : State) : Except Halt Unit :=
  if s.me.src.ptrap then
    match lowestPoison t els with
    | some k => .error (.trap .poison (BitVec.ofNat 64 k))
    | none => .ok ()
  else .ok ()

/-- What replaces an uncorrectable element of a type (19 R418). -/
def poisonPat (t : EType) : Nat :=
  match t with
  | .f32 => 0x7FC0DEAD
  | .c64 => 0x7FC0DEAD * 2 ^ 32 + 0x7FC0DEAD
  | .f64 => 0x7FF800000000DEAD
  | .bf16 | .f16 | .e4m3 | .e5m2 => (etFmt t).nanPat
  | .i32 | .i16 | .i8 => 0

/-- The replacement of an uncorrectable 8-byte word that a consumer reads as elements of a type. -/
def poisonWord (t : EType) : Nat := leBytes ((List.range (8 / etBytes t)).flatMap fun _ => toBytes (etBytes t) (poisonPat t))

end Sys2Proof.Machine
end

