-- ==== Sys2Proof/Machine/Operands.lean ====
section
/-! DEFINITION. Operand forms: descriptor walks (08 R211, R212), vector and predicate names (02 R46, R47), queues (02 R49),
guards (07 R184), and the forms that V words share. -/

namespace Sys2Proof.Machine

open Sys2Proof

/-- The word that the lane holds, as `TVAL` of a cause that reports it (19 R398). -/
def thisWord (s : State) (l : Lane) (i : Instr) : Word :=
  match encode (s.lane l).frame i with | w :: _ => zextW w | [] => 0

/-! ### Descriptors (08 R211) -/

/-- A word may use the walk: DESC_SHAPE, then DESC_MODE, with the descriptor's number (08 R211, 19 R398). -/
def needWalk (d : Desc) (x : BitVec 4) : Except Halt Unit := do
  check d.shapeOk .descShape (zextW x)
  check (!d.window) .descMode (zextW x)

/-- A descriptor as the word of this cycle reads it (02 R37). -/
def State.rdXd (s : State) (x : XdReg) : Desc := s.me.src.xd.get x.toNat

/-- The cursor advances by `n`; an `XDSET` of the same cycle stands afterwards (06 R183). -/
def State.advance (s : State) (x : XdReg) (n : Nat) : State :=
  if s.me.xdWrote.contains x.toNat then s else
  let d := s.rdXd x
  s.updR fun r => { r with xd := r.xd.set x.toNat { d with cur := d.cur + BitVec.ofNat 32 n } }

/-! ### The shape -/

def State.ety (s : State) : EType := s.me.src.ety
def State.vl (s : State) : Nat := s.me.src.vl.toNat
/-- The word does not accept the shape (07 R186). -/
def badShape (s : State) : Halt := .trap .shapeIllegal (vshape s.me.src)
def needShape (ok : Bool) (s : State) : Except Halt Unit := if ok then .ok () else .error (badShape s)

/-! ### Names (02 R46) -/

/-- Physical vector register of a name. -/
def physV (rbv n : Nat) : Nat := if n < 16 then n else 16 + (n - 16 + rbv) % 44
/-- Physical predicate of a name. -/
def physP (rbp n : Nat) : Nat := if n < 8 then n else 8 + (n - 8 + rbp) % 8
def State.pv (s : State) (v : VReg) : Nat := physV s.me.src.rbv.toNat v.toNat
def State.pp (s : State) (p : PReg) : Nat := physP s.me.src.rbp.toNat p.toNat

/-- A predicate; `p0` reads as all true (02 R47). -/
def State.rdP (s : State) (p : PReg) : BitVec 256 := if p = 0 then BitVec.allOnes 256 else s.me.p.get (s.pp p)

/-- Elements below VL whose guard bit is set (07 R184). -/
def State.active (s : State) (p : PReg) : List Nat := (List.range s.vl).filter fun i => (s.rdP p).getLsbD i

/-- Cycles of the vector engine as control-path pulses (07 R210, 02 R41). -/
def State.vCycles (s : State) (n : Nat) : Nat := s.engCycles (·.vec) n

/-- A predicate is written: bits below VL as given, the rest cleared; a write of `p0` is discarded (02 R47). -/
def State.wrP (s : State) (p : PReg) (on : List Nat) (lat : Nat) : State :=
  if p = 0 then s else
  let k := s.pp p
  let v : BitVec 256 := BitVec.ofNat 256 (on.foldl (fun n i => n + 2 ^ i) 0)
  (s.updMe fun c => { c with p := c.p.set k v }).setReady (kP k) (s.vCycles lat)

/-! ### Elements -/

/-- Element `i` of width `w` bytes. -/
def elemAt (w : Nat) (v : BitVec 2048) (i : Nat) : Nat := v.toNat / 2 ^ (8 * w * i) % 2 ^ (8 * w)

/-- The vector with element `i` of width `w` replaced. -/
def setElem (w : Nat) (v : BitVec 2048) (i x : Nat) : BitVec 2048 :=
  BitVec.ofNat 2048 (v.toNat - elemAt w v i * 2 ^ (8 * w * i) + x % 2 ^ (8 * w) * 2 ^ (8 * w * i))

/-- The vector with several elements replaced. -/
def setElems (w : Nat) (v : BitVec 2048) (l : List (Nat × Nat)) : BitVec 2048 := l.foldl (fun v e => setElem w v e.1 e.2) v

/-! ### Reading vectors -/

/-- Uncorrectable words among a vector's are replaced for a consumer of type `t` and counted once (19 R418, R420). -/
def scrubWords (t : EType) (bad : List Nat) (v : BitVec 2048) : BitVec 2048 :=
  bad.foldl (fun v k => setElem 8 v k (poisonWord t)) v

/-- A physical vector register's uncorrectable words are replaced where a word reads it. -/
def State.scrubV (s : State) (k : Nat) : State :=
  if s.me.vUe.isEmpty then s else
  let bad := (s.me.vUe.filter fun u => u.1 == k).map Prod.snd
  let t := s.ety
  s.updMe fun c => { c with v := c.v.upd k (scrubWords t bad), vUe := c.vUe.filter fun u => u.1 != k, uedata := c.uedata + bad.length }

/-- The head of a queue is popped (02 R49). An empty queue has no head entry: it is an underflow in a timed region too (log 47). -/
def popQueue (q : Nat) (s : State) : Except Halt (BitVec 2048 × State) :=
  match s.me.q.get q with
  | [] => .error (.trap .fifoUnderflow (BitVec.ofNat 64 q))
  | e :: t =>
    if e.filled && decide (e.ready ≤ s.now) then
      .ok (scrubWords s.ety e.bad e.data, s.updMe fun c => { c with q := c.q.set q t, uedata := c.uedata + e.bad.length })
    else .error s.notReady

/-- A vector source: a register, or the head of a queue for the codes 60-63 (04 R109). -/
def readSrc (v : VReg) (s : State) : Except Halt (BitVec 2048 × State) :=
  if v.toNat < 60 then
    let s := s.scrubV (s.pv v)
    .ok (s.me.v.get (s.pv v), s)
  else popQueue (v.toNat - 60) s

/-- Sources in order; a queue named twice yields two entries (02 R49). -/
def readSrcs : List VReg → State → Except Halt (List (BitVec 2048) × State)
  | [], s => .ok ([], s)
  | v :: t, s => do
    let (x, s) ← readSrc v s
    let (xs, s) ← readSrcs t s
    .ok (x :: xs, s)

/-- Keys of the registers among vector codes. -/
def vKeys (s : State) (vs : List VReg) : List Nat := (vs.filter fun v => decide (v.toNat < 60)).map fun v => kV (s.pv v)

/-- The old value of a destination. -/
def State.oldV (s : State) (d : VReg) : BitVec 2048 := (s.scrubV (s.pv d)).me.v.get (s.pv d)

/-- Bytes of a queued load that a newer result of its register has written are no longer its to write. -/
def Acc.overtaken (k : Nat) (ws : List (Nat × Nat)) (a : Acc) : Acc :=
  match a.dest with
  | .vec p o sk =>
    if p != k then a else
    let sk := (List.range a.n).filter fun i => sk.contains i || ws.any fun w => decide (w.1 ≤ o + i) && decide (o + i < w.1 + w.2)
    { a with dest := if sk.length = a.n then .none else .vec p o sk }
  | _ => a

/-- Elements `els` of width `w` of a vector register are written, readable after `lat` vector cycles. What the word leaves of the
register is readable when it was to be (07 R210). -/
def State.wrV (s : State) (d : VReg) (w : Nat) (els : List (Nat × Nat)) (lat : Nat) : State :=
  let k := s.pv d
  let s := s.scrubV k
  let at_ := s.now + s.vCycles lat
  let part := decide (els.length < s.vl) && w != 256
  let ws := els.map fun e => (w * e.1, w)
  let s := s.updMe fun c => { c with v := c.v.upd k fun v => setElems w v els, lq := c.lq.upd (laneIdx .v) fun q => q.map (Acc.overtaken k ws) }
  let more := s.me.loading (kV k)
  s.updR fun r => r.join (kV k) at_ more part

/-- A scalar written by the V lane: readable by the S lane 2 lane cycles later (07 R204), by the V lane after one V cycle, as `PCOUNT`'s
is (07 R210; of `VMOVS`: log 46). -/
def State.wrSv (s : State) (d : SReg) (v : Word) : State :=
  if d = 0 then s else (s.wrS d v (s.vCycles 1)).setReady (kSv d.toNat) 2

/-! ### Shared forms of V words -/

/-- The queue entries that a word pops are there, or it cannot issue (02 R49). -/
def needQueues (srcs : List VReg) (s : State) : Except Halt Unit :=
  (readSrcs (srcs.filter fun v => decide (60 ≤ v.toNat)) s).map fun _ => ()

/-- A guarded V word: the shape and the guard alone are read when no element is active, and the word has no effect (07 R184; 03 R96
names a result of a reduction with no element, which is then never written: log 48); else its queue entries must be there, the
shape is checked and the sources are read, and `eff` gets them with the active elements. `more` are further keys. -/
def vGuarded (p : PReg) (srcs : List VReg) (more : State → List Nat) (ok : State → Bool)
    (eff : List (BitVec 2048) → List Nat → Eff) : State → Out :=
  wordK .v (fun s => kShape :: kP (s.pp p) :: if (s.active p).isEmpty then [] else vKeys s srcs ++ more s) fun s =>
    if (s.active p).isEmpty then .ok s else do
      needQueues srcs s
      needShape (ok s) s
      let (vs, s1) ← readSrcs srcs s
      eff vs (s.active p) s1

def noKeys : State → List Nat := fun _ => []

/-- The results of the active elements go to the destination: POISON, then FP_EXC, before anything is written (19 R419,
03 R88). `used` are the source elements consumed, `w` the width of the result's elements. -/
def vWrite (d : VReg) (w lat : Nat) (used : List (Nat × Nat)) (res : List (Nat × Nat × FpFlags)) : Eff := fun s => do
  needSane s.ety used s
  let s1 ← raiseFlags (allFlags (res.map fun r => r.2.2)) s
  .ok (s1.wrV d w (res.map fun r => (r.1, r.2.1)) lat)

/-- Elements of a vector at indexes. -/
def pick (t : EType) (v : BitVec 2048) (l : List Nat) : List (Nat × Nat) := l.map fun i => (i, elemAt (etBytes t) v i)

/-- Two sources, element by element. -/
def vBin (d a b : VReg) (p : PReg) (lat : Nat) (ok : EType → Bool) (f : EType → Rm → Nat → Nat → Nat × FpFlags) : State → Out :=
  vGuarded p [a, b] noKeys (fun s => ok s.ety) fun vs act s =>
    let t := s.ety
    let x := vs.getD 0 0
    let y := vs.getD 1 0
    vWrite d (etBytes t) lat (pick t x act ++ pick t y act)
      (act.map fun i => (i, f t s.me.src.rm (elemAt (etBytes t) x i) (elemAt (etBytes t) y i))) s

/-- Two sources and the old destination, element by element. -/
def vTri (d a b : VReg) (p : PReg) (lat : Nat) (ok : EType → Bool) (f : EType → Rm → Nat → Nat → Nat → Nat × FpFlags) : State → Out :=
  vGuarded p [a, b] (fun s => [kV (s.pv d)]) (fun s => ok s.ety) fun vs act s =>
    let t := s.ety
    let x := vs.getD 0 0
    let y := vs.getD 1 0
    let o := s.oldV d
    vWrite d (etBytes t) lat (pick t x act ++ pick t y act ++ pick t o act)
      (act.map fun i => (i, f t s.me.src.rm (elemAt (etBytes t) x i) (elemAt (etBytes t) y i) (elemAt (etBytes t) o i))) s

/-- One source, element by element. -/
def vUn (d a : VReg) (p : PReg) (lat : Nat) (ok : EType → Bool) (f : EType → Nat → Nat × FpFlags) : State → Out :=
  vGuarded p [a] noKeys (fun s => ok s.ety) fun vs act s =>
    let t := s.ety
    let x := vs.getD 0 0
    vWrite d (etBytes t) lat (pick t x act) (act.map fun i => (i, f t (elemAt (etBytes t) x i))) s

end Sys2Proof.Machine
end

