-- ==== Sys2Proof/Machine/Matrix.lean ====
section
/-! DEFINITION. The matrix engine: manifests, the operand FIFOs' consumers, computations and bank commands (08 R213-R225,
03 R89-R93). -/

namespace Sys2Proof.Machine

open Sys2Proof

/-! ### Manifest entries (02 R56, 03 R91) -/

def mfA (m : BitVec 128) : Nat := (bits m 0 4).toNat
def mfB (m : BitVec 128) : Nat := (bits m 4 4).toNat
def mfI96 (m : BitVec 128) : Bool := m.getLsbD 10
def mfSp (m : BitVec 128) : Bool := m.getLsbD 11
def mfDrain (m : BitVec 128) : Nat := (bits m 12 3).toNat
def mfSat (m : BitVec 128) : Bool := m.getLsbD 15
def mfQside (m : BitVec 128) : Word := bits m 64 64

/-- A reserved bit of an entry is set. -/
def mfRsv (m : BitVec 128) : Bool := bits m 20 44 != 0 || m.getLsbD 19 || bits m 8 2 != 0

/-- The combinations that the engine accepts (03 R91). -/
def mfAccepted (m : BitVec 128) : Bool :=
  let a := mfA m
  let b := mfB m
  !mfRsv m &&
  if mfI96 m then
    ((a == 4 && (b == 4 || b == 5)) || (a == 5 && (b == 4 || b == 5) && !mfSp m)) && (mfDrain m == 0 || decide (5 ≤ mfDrain m))
  else
    ((decide (a ≤ 1) && (decide (b ≤ 1) || b == 6)) || ((a == 2 || a == 3) && (b == 2 || b == 3 || b == 6)))
      && decide (mfDrain m ≤ 4)

/-- A drain format is accepted for a bank's mode (03 R91). -/
def drainOk (i96 : Bool) (d : Nat) : Bool := if i96 then d == 0 || decide (5 ≤ d) else decide (d ≤ 4)

/-- Steps that one matrix cycle makes (08 R214). -/
def mfRate (m : BitVec 128) : Nat := if mfA m ≤ 1 then 1 else 2

/-- The entry that a command's operand names (02 R57), for an M-lane counter `mlc`. -/
def mfIndex (r : Regs) (mlc : Nat) (n : MfReg) : Nat :=
  match r.mfsrc.toNat with
  | 0 => n.toNat
  | 1 => ((r.lv.get 10).toNat + r.mfbase.toNat + n.toNat) % 16
  | _ => (mlc + r.mfbase.toNat + n.toNat) % 16

/-! ### The pending manifest (08 R213, R216, R444) -/

inductive Pending where
  /-- the entry's number -/
  | entry (n : Nat)
  /-- the word at this index has not been fetched -/
  | missing (i : Nat)
  /-- the lane comes to a word that is no command or cannot be fetched, or goes round for ever, and meets no matrix command -/
  | unknown
  /-- the lane parks with no matrix command left -/
  | none
deriving DecidableEq, Repr

/-- The next matrix command from a place of the M lane on, in issue order; `fuel` bounds the commands looked at. -/
def scanM (x : LaneSt) (clen : Nat) (r : Regs) : Nat → Nat → Option LoopRec → Nat → Pending
  | 0, _, _, _ => .unknown
  | fuel + 1, pc, loop, mlc =>
    if clen ≤ pc + 1 then .none else
    match x.buf.get pc, x.buf.get (pc + 1) with
    | none, _ => .missing pc
    | _, none => .missing (pc + 1)
    | some w0, some w1 =>
      match decodeM w0.toNat w1.toNat with
      | .error _ => .unknown
      | .ok (.mma _ _ n _ _) | .ok (.mmasp _ _ n _ _) | .ok (.mmv _ _ n _) => .entry (mfIndex r mlc n)
      | .ok .mstop => .none
      | .ok (.mloop n off) =>
        let t := (BitVec.ofNat 32 pc + off.signExtend 32).toNat
        match loop with
        | some l =>
          if l.addr.toNat = pc then
            if l.rem = 1 then scanM x clen r fuel (pc + 2) none 0
            else scanM x clen r fuel t (some { l with rem := l.rem - 1 }) (mlc + 1)
          else if 1 < n.toNat then scanM x clen r fuel t (some { addr := BitVec.ofNat 32 pc, rem := n.toNat - 1 }) 1
          else scanM x clen r fuel (pc + 2) loop mlc
        | none =>
          if 1 < n.toNat then scanM x clen r fuel t (some { addr := BitVec.ofNat 32 pc, rem := n.toNat - 1 }) 1
          else scanM x clen r fuel (pc + 2) none mlc
      | .ok _ => scanM x clen r fuel (pc + 2) loop mlc

/-- Places that the M lane can stand in: a command, and a loop record. After more commands than these it goes round for ever. -/
def Core.placesM (c : Core) : Nat := let n := c.clen .m / 2 + 1; n * (n * 4096 + 1)

/-- The pending manifest as the words of the cycle see it: from the place of the M lane before the cycle. -/
def Core.pendingM (c : Core) : Pending :=
  let x := c.lane .m
  if x.parked && c.mview.isNone then .none else
  match c.mview with
  | some (pc, l, n) => scanM x (c.clen .m) c.src c.placesM pc.toNat l n
  | none => scanM x (c.clen .m) c.src c.placesM x.pc.toNat c.mloop c.mlc

/-- The same, with missing words fetched as the machine's eager mode fetches them. -/
def pendingFetch : Nat → State → Pending × State
  | 0, s => (.unknown, s)
  | fuel + 1, s =>
    match s.me.pendingM with
    | .missing i =>
      if s.eager then match ensureCode .m i s with
        | .ok t => pendingFetch fuel t
        | .error _ => (.unknown, s)
      else (.missing i, s)
    | p => (p, s)

/-- The pending manifest, every word of the section fetched that it takes. -/
def State.pending (s : State) : Pending × State := pendingFetch (s.me.clen .m + 1) s

/-! ### Operands of the FIFO entries (08 R215, R220) -/

/-- Bytes of an element of a format code in an entry: two INT4 elements share one; QL4 stands as binary32. -/
def fmtBytes (code : Nat) : Nat := if code ≤ 1 then 2 else if code = 6 then 4 else 1

/-- Float format of a code. -/
def fmtOf (code : Nat) : Fmt := match code with | 0 => fmtBf16 | 1 => fmtF16 | 2 => fmtE4m3 | 3 => fmtE5m2 | _ => fmtF32

def x96Poison : Nat := 0x7FFF8000000000000000DEAD

/-- Bytes of an entry. -/
def FifoEntry.at_ (e : FifoEntry) (o n : Nat) : Nat := leBytes ((e.data.drop o).take n)
def FifoEntry.bad (e : FifoEntry) (o n : Nat) : Bool := !e.lost.isEmpty && (List.range n).any fun i => e.lost.contains (o + i)

/-- A float operand at byte `o`; lost data is the poison pattern of X96 (19 R418). -/
def FifoEntry.flt (e : FifoEntry) (code o : Nat) : Fmt × Nat :=
  let w := fmtBytes code
  if e.bad o w then (fmtX96, x96Poison) else (fmtOf code, e.at_ o w)

/-- The integer element `i` of an entry; lost data is zero. -/
def FifoEntry.int (e : FifoEntry) (code i : Nat) : Int :=
  if code = 5 then
    if e.bad (i / 2) 1 then 0 else natSigned 4 (e.at_ (i / 2) 1 / (if i % 2 = 1 then 16 else 1))
  else if e.bad i 1 then 0 else natSigned 8 (e.at_ i 1)

/-- Positions of the two values of row `i` in a 2:4 entry of element width `w` (08 R220). -/
def FifoEntry.meta_ (e : FifoEntry) (w i : Nat) : Nat × Nat :=
  let n := e.at_ (128 * w + i / 2) 1 / (if i % 2 = 1 then 16 else 1) % 16
  (n % 4, n / 4)

/-! ### What a computation does to the banks (03 R92, 08 R218-R221) -/

/-- Pairs of an A entry with the element it gives, and of a B entry, whose products make up output row `i`: the entries and
the element index of A. For 2:4 entries also whether the group is illegal. -/
def MatRun.pairs (m : MatRun) (i : Nat) : List (FifoEntry × Nat × FifoEntry) :=
  match m.kind with
  | .mma => (m.a.zip m.b).map fun p => (p.1, i, p.2)
  | .mmv => m.b.zipIdx.map fun p => (m.a.getD (i * ((m.k + 63) / 64) + p.2 / 64) { tag := 0, data := [], lost := [], ready := 0 }, p.2 % 64, p.1)
  | .mmasp =>
    let w := fmtBytes (mfA m.man)
    m.a.zipIdx.flatMap fun g =>
      let (p0, p1) := g.1.meta_ w i
      if p1 ≤ p0 then [] else
        (m.b.drop (4 * g.2 + p0)).take 1 |>.map (fun b => (g.1, 2 * i, b)) |>.append
          ((m.b.drop (4 * g.2 + p1)).take 1 |>.map fun b => (g.1, 2 * i + 1, b))

/-- Illegal 2:4 groups of the command. -/
def MatRun.illegal (m : MatRun) : Nat :=
  match m.kind with
  | .mmasp => ((List.range m.rows).map fun i => (m.a.filter fun e => let (p0, p1) := e.meta_ (fmtBytes (mfA m.man)) i; decide (p1 ≤ p0)).length).foldl (· + ·) 0
  | _ => 0

/-- The new value of an output entry from its old one. -/
def MatRun.entry (m : MatRun) (ps : List (FifoEntry × Nat × FifoEntry)) (j old : Nat) : Nat :=
  let a := mfA m.man
  let b := mfB m.man
  if mfI96 m.man then
    let sum : Int := ps.foldl (fun t p => t + p.1.int a p.2.1 * p.2.2.int b j) 0
    ((natSigned 96 old + sum) % (2 ^ 96 : Nat)).toNat
  else
    let fs := ps.map fun p => (p.1.flt a (fmtBytes a * p.2.1), p.2.2.flt b (fmtBytes b * j))
    (fpSum fmtX96 .rne ((fmtX96, old) :: fs.flatMap fun f => [f.1, f.2])
      (some (fmtX96.val old) :: fs.map fun f => mulVal (f.1.1.val f.1.2) (f.2.1.val f.2.2))).1

/-- An accumulator entry as a command reads it: lost data is X96 poison, or 0 (19 R418). -/
def State.accEntry (s : State) (key : Nat) (i96 : Bool) : Nat :=
  if (s.badWords key 12).isEmpty then s.peekN key 12 else if i96 then 0 else x96Poison

/-- One output row is written; gives the entries that have become NaNs. -/
def MatRun.row (m : MatRun) (c : CoreId) (i : Nat) (s : State) : Nat × State :=
  let key := keyAcc c m.bank (i * 384)
  let ps := m.pairs i
  let olds := (List.range m.cols).map fun j => s.accEntry (key + 12 * j) (mfI96 m.man)
  let news := olds.zipIdx.map fun o => m.entry ps o.2 o.1
  let nan := if mfI96 m.man then 0 else ((olds.zip news).filter fun p => fmtX96.isNan p.2 && !fmtX96.isNan p.1).length
  let bad := s.badWords key (12 * m.cols)
  let s := s.updCore c fun x => { x with uedata := x.uedata + bad.length }
  (nan, s.poke key (news.flatMap fun n => toBytes 12 n))

/-- A matrix exception counter, saturating (03 R89). -/
def satAdd (x : BitVec 32) (n : Nat) : BitVec 32 := BitVec.ofNat 32 (min (x.toNat + n) 0xFFFFFFFF)

/-! ### Late traps of the M lane -/

def Core.mUndo (c : Core) : MUndo := { lmf := c.lmf, moff := c.moff, loop := c.mloop, mlc := c.mlc }

/-- The core's lanes run, outside a handler. -/
def Core.lanesRun (c : Core) : Bool := c.mode == .running && !c.inHandler

/-- A cause of an M command that has issued is raised, with `EPC_M` naming it; while the lanes are stopped it waits. -/
def State.raiseM (s : State) (t : MTrap) : State :=
  if s.me.lanesRun then
    let s := s.updMe fun c =>
      let c := match t.undo with
        | some u => { c with lmf := u.lmf, moff := u.moff, mloop := u.loop, mlc := u.mlc }
        | none => c
      c.updLane .m fun x => { x with pc := t.pc, npc := none, prog := .none }
    s.takeTrap .m t.cause t.tval
  else s.updMe fun c => { c with mTraps := c.mTraps ++ [t] }

/-! ### The steps of a computation (08 R214, R218-R221) -/

/-- Steps, and engine cycles in all. -/
def MatRun.steps (m : MatRun) : Nat :=
  match m.kind with | .mma => m.k | .mmasp => m.k / 4 | .mmv => m.rows * ((m.k + 63) / 64) + m.k
def MatRun.busy (m : MatRun) : Nat :=
  match m.kind with
  | .mma => (m.k + mfRate m.man - 1) / mfRate m.man
  | .mmasp => m.k / (2 * mfRate m.man)
  | .mmv => m.rows * ((m.k + 63) / 64) + (m.k + 3) / 4

/-- Engine cycle of step `i`, and the A and B entries that it pops. -/
def MatRun.cycle (m : MatRun) (i : Nat) : Nat :=
  match m.kind with
  | .mma => i / mfRate m.man
  | .mmasp => 2 * i / mfRate m.man
  | .mmv => let n := m.rows * ((m.k + 63) / 64); if i < n then i else n + (i - n) / 4
def MatRun.needs (m : MatRun) (i : Nat) : Nat × Nat :=
  match m.kind with
  | .mma => (1, 1)
  | .mmasp => (1, 4)
  | .mmv => if i < m.rows * ((m.k + 63) / 64) then (1, 0) else (0, 1)

/-- Tags that the command takes (08 R215). -/
def MatRun.tagA (m : MatRun) : BitVec 5 := BitVec.ofNat 5 (mfA m.man + boolNat (mfSp m.man) * 16)
def MatRun.tagB (m : MatRun) : BitVec 5 := BitVec.ofNat 5 (mfB m.man)

/-- The tag of the first popped entry that has another one. -/
def badTag (t : BitVec 5) (l : List FifoEntry) : Option (BitVec 5) := (l.find? fun e => e.tag != t).map (·.tag)

/-- The first entries of a FIFO, when all of them may be popped. -/
def poppable (f : List FifoEntry) (n now : Nat) : Bool := decide (n ≤ f.length) && (f.take n).all fun e => decide (e.ready ≤ now)

/-- A feed into the FIFO is outstanding (08 R216, R234). -/
def Core.feeding (c : Core) (b : Bool) : Bool := c.feeds.any fun f => f.fifoB == b

/-- Busy engine cycles are charged (21 R432). -/
def matCharge : Nat := 6400

/-- Pulse of a step. -/
def MatRun.pulse (m : MatRun) (s : State) (i : Nat) : Nat := s.matPulse m.at_ (m.cycle i - m.base)

/-- The step that is due is made, or its cause is raised, or the engine waits (08 R219). -/
def State.matStep (s : State) (m : MatRun) : State :=
  let now := s.now
  let c := s.me
  let (na, nb) := m.needs m.step
  let due := m.pulse s m.step
  -- the pulse of the step: the one on which it is due, or on which its last entry arrived
  let at_ := (c.fifoA.take na ++ c.fifoB.take nb).foldl (fun p e => max p e.ready) due
  let by_ := if m.timed && c.ctl.timed then due else now
  let lateA := !poppable c.fifoA na by_
  let lateB := !poppable c.fifoB nb by_
  let fail (cause : Cause) (v : Word) (t : State) : State :=
    (t.updMe fun c => { c with mrun := none, mBusy := now, mPaid := now }).raiseM { pc := m.pc, cause := cause, tval := v, undo := some m.undo }
  if lateA || lateB then
    if !c.lanesRun then s
    else if m.timed && c.ctl.timed then fail .schedMiss m.cyc s
    else if lateA && decide (c.fifoA.length < na) && !c.feeding false then fail .fifoUnderflow 4 s
    else if lateB && decide (c.fifoB.length < nb) && !c.feeding true then fail .fifoUnderflow 5 s
    else s
  else
    let a := c.fifoA.take na
    let b := c.fifoB.take nb
    let s1 := s.updMe fun c => { c with fifoA := c.fifoA.drop na, fifoB := c.fifoB.drop nb }
    match badTag m.tagA a, badTag m.tagB b with
    | some t, _ | none, some t => fail .feedFormat (zextW t) s1
    | none, none =>
      let m' := { (if due < at_ then { m with at_ := at_, base := m.cycle m.step } else m) with step := m.step + 1, a := m.a ++ a, b := m.b ++ b }
      let m' := if m'.step = m.steps then { m' with done := some (s.matPulse m'.at_ (m.busy - m'.base)) } else m'
      let first := m.step = 0 ∨ m.cycle m.step != m.cycle (m.step - 1)
      (s1.updMe fun c => { c with mrun := some m' }).spend s.focus (if first then matCharge else 0)

/-- The computation commits (03 R90): its results are written, its counts are added, and an enabled cause is raised with
the results standing (R89). -/
def State.matCommit (s : State) (m : MatRun) : State :=
  let (nan, s) := (List.range m.rows).foldl (fun (r : Nat × State) i => let (n, t) := m.row r.2.focus i r.2; (r.1 + n, t)) (0, s)
  let bad := m.illegal
  let now := s.now
  let s := s.updMe fun c => { c with mrun := none, mBusy := now, mPaid := now,
                                     ctl := { c.ctl with mxnan := satAdd c.ctl.mxnan nan, mspbad := satAdd c.ctl.mspbad bad } }
  let undo := some { m.undo with lmf := some m.man }
  if bad != 0 && m.man.getLsbD 18 then s.raiseM { pc := m.pc, cause := .sparseMeta, tval := BitVec.ofNat 64 bad, undo := undo }
  else if nan != 0 && m.man.getLsbD 16 then s.raiseM { pc := m.pc, cause := .mxFp, tval := 1, undo := undo }
  else s

/-- The running computation is brought up to now; `fuel` bounds its steps. -/
def matAdvance : Nat → State → State
  | 0, s => s
  | fuel + 1, s =>
    match s.me.mrun with
    | none => s
    | some m =>
      match m.done with
      | some p => if p ≤ s.now then s.matCommit m else s
      | none =>
        if m.pulse s m.step ≤ s.now then
          let t := s.matStep m
          if t.me.mrun = some m then t else matAdvance fuel t
        else s

/-- A bank command whose completion cycle has come takes effect (12 R307). -/
def State.bankSettle (s : State) : State :=
  match s.me.bankNext with
  | none => s
  | some b =>
    if s.now < b.at_ then s else
    let s := s.updMe fun c => { c with banks := b.banks, bankNext := none }
    match b.zero with
    | some (k, n) => s.poke (keyAcc s.focus k 0) (List.replicate (12288 * n) 0)
    | none => s

/-- Everything that time alone brings to the core's matrix engine: its gate, its bank commands, its steps, its charge, and traps that
have waited for the lanes. -/
def State.matSettle (s : State) : State :=
  let s := (s.gateIdle s.focus).bankSettle
  let now := s.now
  let s := s.updMe fun c => match c.matGate with | .waking p => if p ≤ now then { c with matGate := .awake } else c | _ => c
  let c := s.me
  let upto := min now c.mBusy
  let k := s.myCluster.clk
  let s := if c.mPaid < upto then
      (s.updMe fun c => { c with mPaid := upto }).spend s.focus (matCharge * ((upto - c.mPaid) * k.ctl / k.mat)) else s
  let s := match s.me.mTraps with
    | t :: ts => if s.me.lanesRun then (s.updMe fun c => { c with mTraps := ts }).raiseM t else s
    | [] => s
  matAdvance 400 s

/-- Next pulse on which the core's matrix engine has something to do; `none` while it waits for others. -/
def State.matNext (s : State) : Option Nat :=
  match s.me.mrun with
  | none => s.me.bankNext.map BankNext.at_
  | some m => match m.done with
    | some p => some p
    | none =>
      let (na, nb) := m.needs m.step
      let c := s.me
      let due := m.pulse s m.step
      let late := (c.fifoA.take na ++ c.fifoB.take nb).foldl (fun p e => max p e.ready) due
      if due < s.now && (!c.lanesRun || late < s.now) then none else some (if s.now ≤ due then due else late)

/-! ### Issue of M commands -/

/-- Transfers of M commands that have issued and not completed. -/
def Transfer.ofM (t : Transfer) : Bool := match t.kind with | .drain _ _ | .load _ | .fmt _ => true | _ => false

/-- The engine is free: no computation, no busy cycles left, no load under way (08 R214). -/
def Core.engineFree (c : Core) (now : Nat) : Bool :=
  c.mrun.isNone && c.bankNext.isNone && decide (c.mBusy ≤ now) && c.xfers.all fun t => match t.kind with | .load _ | .fmt _ => false | _ => true

/-- The command can have the engine: free, and awake, else it starts to wake (08 R214, 21 R435). -/
def needEngine (s : State) : Except Halt Unit := do
  needThat (s.me.engineFree s.now) s
  if s.me.matGate = .awake then .ok ()
  else if s.timed then .error (.trapIn .schedMiss s.cycIn (s.wakeEngine s.focus))
  else .error (.holdIn (s.wakeEngine s.focus))

/-- No drain that has not completed reads a bank of the command (08 R214). -/
def needBanks (b n : Nat) (s : State) : Except Halt Unit :=
  needThat (s.me.xfers.all fun t => match t.kind with
    | .drain d man => let k := t.a.len.toNat / (1024 * drainBytes man); decide (b + n ≤ d) || decide (d + k ≤ b)
    | _ => true) s

/-- The engine is busy for `n` of its cycles from now on. -/
def State.engineBusy (s : State) (n : Nat) : State :=
  let now := s.now
  let e := s.engCycles (·.mat) n
  s.updMe fun c => { c with mBusy := now + e, mPaid := now }

/-- Banks b .. b + n - 1 that fail a test. -/
def firstBank (c : Core) (b n : Nat) (bad : Bank → Bool) : Option Nat := ((List.range n).map (b + ·)).find? fun i => bad (c.banks.get i)

def needAlloc (b n : Nat) (s : State) : Except Halt Unit :=
  match firstBank s.me b n fun k => !k.alloc with
  | some i => .error (.trap .accUnalloc (BitVec.ofNat 64 i))
  | none => .ok ()

/-- A matrix computation issues: the checks of 08 R219 that precede its steps. -/
def mCompute (kind : MatKind) (i : Instr) (ab : AbReg) (k : Nat) (n : MfReg) (banks rows cols : Nat) : State → Out :=
  word .m [] fun s => do
    let idx := mfIndex s.me.src s.me.mlc n
    let m := s.me.mf.get idx
    let e : Word := BitVec.ofNat 64 idx
    let b := ab.toNat
    needEngine s
    needBanks b banks s
    check (mfAccepted m && (mfSp m == (kind == .mmasp))) .manifest e
    check (decide (b + banks ≤ 32)) .accRange (zextW ab)
    needAlloc b banks s
    check (firstBank s.me b banks fun x => x.i96 != mfI96 m).isNone .manifest e
    check (kind != .mmasp || k % 4 == 0) .reservedField (thisWord s .m i)
    let run : MatRun :=
      { kind := kind, pc := (s.lane .m).pc, man := m, bank := b, k := k, rows := rows, cols := cols, at_ := s.now, step := 0,
        a := [], b := [], timed := s.timed, cyc := s.cycIn, done := none, undo := s.me.mUndo }
    .ok (s.updMe fun c => { c with mrun := some run, lmf := some m, lmfNo := some (BitVec.ofNat 4 idx) })

/-- `MMA` (08 R218). -/
def execMma (ab : AbReg) (k1 : BitVec 8) (mf : MfReg) (rh : Bool) (ncol1 : BitVec 5) : State → Out :=
  mCompute .mma (.mma ab k1 mf rh ncol1) ab (k1.toNat + 1) mf (if rh then 1 else 2) (if rh then 32 else 64) (ncol1.toNat + 1)
/-- `MMASP` (08 R220). -/
def execMmasp (ab : AbReg) (k1 : BitVec 8) (mf : MfReg) (rh : Bool) (ncol1 : BitVec 5) : State → Out :=
  mCompute .mmasp (.mmasp ab k1 mf rh ncol1) ab (k1.toNat + 1) mf (if rh then 1 else 2) (if rh then 32 else 64) (ncol1.toNat + 1)
/-- `MMV` (08 R221). -/
def execMmv (ab : AbReg) (k1 : BitVec 8) (mf : MfReg) (nv1 : BitVec 3) : State → Out :=
  mCompute .mmv (.mmv ab k1 mf nv1) ab (k1.toNat + 1) mf 1 (nv1.toNat + 1) 32

/-- What a bank command does to each of its banks; none: their contents become 0. -/
abbrev BankChange := Option (Bank → Bank)

/-- Banks b .. b + n - 1 with a change. -/
def Core.changed (c : Core) (b n : Nat) (f : Bank → Bank) : Tab Bank := (List.range n).foldl (fun t i => t.upd (b + i) f) c.banks

/-- The change of a bank command takes effect `busy` matrix cycles from now (08 R214, 12 R307). -/
def State.bankLater (s : State) (b n busy : Nat) (f : BankChange) : State :=
  let next (c : Core) : BankNext :=
    { at_ := c.mBusy, banks := match f with | some f => c.changed b n f | none => c.banks, zero := if f.isNone then some (b, n) else none }
  (s.engineBusy busy).updMe fun c => { c with bankNext := some (next c) }

/-- A bank command (08 R222): its own check, then the change that it makes on its completion cycle. -/
def mBanks (ab : AbReg) (count : BitVec 6) (busy : Nat) (ok : State → Except Halt Unit) (change : State → Except Halt (BankChange × State)) :
    State → Out :=
  word .m [] fun s => do
    needEngine s
    needBanks ab.toNat count.toNat s
    check (decide (ab.toNat + count.toNat ≤ 32)) .accRange (zextW ab)
    ok s
    let (f, t) ← change s
    .ok (t.bankLater ab.toNat count.toNat busy f)

/-- `MZERO` (08 R222). -/
def execMzero (ab : AbReg) (count : BitVec 6) : State → Out :=
  mBanks ab count count.toNat (needAlloc ab.toNat count.toNat) fun s => .ok (none, s)
/-- `MALLOC` (08 R222): the mode of the pending manifest; X96 also where the lane meets no matrix command for any other reason than
that it parks (log 54). -/
def execMalloc (ab : AbReg) (count : BitVec 6) : State → Out :=
  mBanks ab count 1 (fun s => match firstBank s.me ab.toNat count.toNat (·.alloc) with
      | some i => .error (.trap .accRealloc (BitVec.ofNat 64 i))
      | none => .ok ()) fun s =>
    let mode (i96 : Bool) : BankChange := some fun _ => { alloc := true, i96 := i96, holder := s.focus }
    match s.pending with
    | (.entry n, t) => .ok (mode (mfI96 (s.me.mf.get n)), t)
    | (.missing _, _) => .error s.notReady
    | (_, t) => .ok (mode false, t)
/-- `MFREE` (08 R222). -/
def execMfree (ab : AbReg) (count : BitVec 6) : State → Out :=
  mBanks ab count 1 (needAlloc ab.toNat count.toNat) fun s => .ok (some fun k => { k with alloc := false }, s)
/-- `MHAND` (08 R222). -/
def execMhand (ab : AbReg) (count : BitVec 6) (core : CoreId) : State → Out :=
  mBanks ab count 1 (fun s => do
      needAlloc ab.toNat count.toNat s
      check (bits core 3 8 == bits s.focus 3 8 && coreOk core) .accBand (zextW ab)) fun s =>
    .ok (some fun k => { k with holder := core }, s)

/-- An ended transfer or feed is reported once, by the first `MWAIT` or `XWAIT` that meets it (08 R234). -/
def reportLost (s : State) : Except Halt State :=
  match s.me.xfaults with
  | [] => .ok s
  | t :: ts => .error (.trapIn .xferFault (recordAddr (dieOf s.focus) t) (s.updMe fun c => { c with xfaults := ts }))

/-- `MWAIT` (08 R225). -/
def execMwait : State → Out :=
  word .m [] fun s =>
    if s.me.mrun.isNone && s.me.bankNext.isNone && decide (s.me.mBusy ≤ s.now) && s.me.xfers.all fun t => !t.ofM then reportLost s else .error (.wait s)

/-- `MSTOP` (08 R225): the lane goes on behind its section, that is, nowhere. -/
def execMstop : State → Out :=
  word .m [] fun s => .ok (s.updLane .m fun x => { x with npc := some (BitVec.ofNat 32 (s.me.clen .m)) })

/-- Stamp of the command at a word index. -/
def stampAt (s : State) (i : Nat) : Option (BitVec 24) :=
  ((s.lane .m).buf.get (i + 1)).map fun w => (frameOfM w.toNat).stamp

/-- `MLOOP` (08 R225). -/
def execMloop (n : BitVec 12) (off : BitVec 16) : State → Out :=
  word .m [] fun s =>
    let a := (s.lane .m).pc
    let t := a + off.signExtend 32
    let back (rec_ : LoopRec) (mlc : Nat) : Except Halt State := do
      let s1 ← jumpTo .m t s
      let s1 := s1.updMe fun c => { c with mloop := some rec_, mlc := mlc }
      if s.timed then do
        let s2 ← ensureCode .m (t.toNat + 1) s1
        match stampAt s2 t.toNat with
        | some st => .ok (s2.updMe fun c => { c with moff := c.moff + (s.lane .m).frame.stamp + 1 - st })
        | none => .error s.notReady
      else .ok s1
    match s.me.mloop with
    | some r =>
      if r.addr = a then
        if r.rem = 1 then .ok (s.updMe fun c => { c with mloop := none, mlc := 0 })
        else back { r with rem := r.rem - 1 } (s.me.mlc + 1)
      else if 1 < n.toNat then back { addr := a, rem := n.toNat - 1 } 1
      else .ok s
    | none => if 1 < n.toNat then back { addr := a, rem := n.toNat - 1 } 1 else .ok s

/-- `M_COMMAND_COMMIT` (03 R90): the computation of a core whose last cycle has passed commits. -/
def execMCommandCommit : State → Out := event fun s =>
  match s.me.mrun with
  | some m => match m.done with
    | some p => if p ≤ s.now then s.matCommit m else s
    | none => s
  | none => s

/-- `MATRIX_GATE` (21 R435): an engine idle for long enough gates. -/
def execMatrixGate : State → Out := event fun s => s.gateIdle s.focus

/-- `MATRIX_WAKE_DONE` (21 R435). -/
def execMatrixWakeDone : State → Out := event fun s =>
  s.updMe fun c => match c.matGate with | .waking p => if p ≤ s.now then { c with matGate := .awake } else c | _ => c

end Sys2Proof.Machine
end

