-- ==== Sys2Proof/Machine/Scalar.lean ====
section
/-! DEFINITION. S lane: arithmetic, constants, control flow, calls, macros, loads and stores (05). -/

namespace Sys2Proof.Machine

open Sys2Proof

/-! ### Values (05 R121-R124, R145, R146) -/

def opAdd (a b : Word) : Word := a + b
def opSub (a b : Word) : Word := a - b
def opAnd (a b : Word) : Word := a &&& b
def opOr (a b : Word) : Word := a ||| b
def opXor (a b : Word) : Word := a ^^^ b
def opAndn (a b : Word) : Word := a &&& ~~~b
def opShl (a b : Word) : Word := a <<< (b.toNat % 64)
def opShr (a b : Word) : Word := a >>> (b.toNat % 64)
def opSra (a b : Word) : Word := a.sshiftRight (b.toNat % 64)
def opSlt (a b : Word) : Word := if a.toInt < b.toInt then 1 else 0
def opSltu (a b : Word) : Word := if a.toNat < b.toNat then 1 else 0
def opMin (a b : Word) : Word := if a.toInt ≤ b.toInt then a else b
def opMax (a b : Word) : Word := if b.toInt ≤ a.toInt then a else b
def opMinu (a b : Word) : Word := if a.toNat ≤ b.toNat then a else b
def opMaxu (a b : Word) : Word := if b.toNat ≤ a.toNat then a else b
def opMul (a b : Word) : Word := a * b
def opMulh (a b : Word) : Word := BitVec.ofInt 64 (a.toInt * b.toInt / (2 ^ 64 : Nat))
def opMulhu (a b : Word) : Word := BitVec.ofNat 64 (a.toNat * b.toNat / 2 ^ 64)
def opDiv (a b : Word) : Word := if b = 0 then BitVec.allOnes 64 else BitVec.ofInt 64 (a.toInt.tdiv b.toInt)
def opDivu (a b : Word) : Word := if b = 0 then BitVec.allOnes 64 else BitVec.ofNat 64 (a.toNat / b.toNat)
def opRem (a b : Word) : Word := if b = 0 then a else BitVec.ofInt 64 (a.toInt.tmod b.toInt)
def opRemu (a b : Word) : Word := if b = 0 then a else BitVec.ofNat 64 (a.toNat % b.toNat)
def opSel (c a b : Word) : Word := if c != 0 then a else b
/-- Zero bits above the highest one bit; 64 for 0. -/
def opClz (a : Word) : Word := if a = 0 then 64 else BitVec.ofNat 64 (63 - Nat.log2 a.toNat)
/-- Zero bits below the lowest one bit; 64 for 0. -/
def opCtz (a : Word) : Word := if a = 0 then 64 else BitVec.ofNat 64 (Nat.log2 (a &&& -a).toNat)
def opPopc (a : Word) : Word := BitVec.ofNat 64 ((List.range 64).filter fun i => a.getLsbD i).length
/-- A 16-bit value at bit 16k: bits below are cleared, bits above stay. -/
def opLis (old : Word) (k : BitVec 2) (imm : BitVec 16) : Word :=
  let keep : Word := if k = 3 then 0 else (old >>> (16 * (k.toNat + 1))) <<< (16 * (k.toNat + 1))
  keep ||| (zextW imm <<< (16 * k.toNat))
def opAptoPkg (me : CoreId) (x : Word) : Word :=
  let w := (bits x 0 48).toNat
  if bits x 48 16 == 0xFF00 && decide (w < 0xC0000) then 0xFF03000000000000 + BitVec.ofNat 64 (posOf me * 2 ^ 20 + w)
  else if bits x 48 16 == 0xFF01 && decide (w < 0x400000) then 0xFF02000000000000 + BitVec.ofNat 64 (me.toNat * 2 ^ 22 + w)
  else x
def opAptoOwn (me : CoreId) (x : Word) : Word :=
  let w := (bits x 0 48).toNat
  if bits x 48 16 == 0xFF02 && decide (w < 2 ^ 33) && w / 2 ^ 22 == me.toNat then 0xFF01000000000000 + BitVec.ofNat 64 (w % 2 ^ 22)
  else if bits x 48 16 == 0xFF03 && decide (w < 2 ^ 23) && w / 2 ^ 20 == posOf me then
    0xFF00000000000000 + BitVec.ofNat 64 (w % 2 ^ 20)
  else x
/-- Whether a one-byte read decodes to the window (05 R146). -/
def inWindow : Window → Target → Bool
  | .ownSpad, .spad _ own _ => own
  | .ownVault, .vault _ across _ => !across
  | .anyVault, .vault _ across _ => across
  | .peerSpad, .spad _ own _ => !own
  | .peerAcc, .acc _ _ => true
  | .global, .global _ => true
  | _, _ => false
def opApis (s : State) (w : Window) (x : Word) : Word :=
  match decodeByte s s.focus x false with
  | some t => if inWindow w t then 1 else 0
  | none => 0

/-! ### Shared forms -/

/-- One source, one destination, readable after `lat` cycles. -/
def sOp1 (d a : SReg) (lat : Nat) (f : Word → Word) : State → Out :=
  word .s [kS a] fun s => .ok (s.wrS d (f (s.rdS a)) lat)

/-- Two sources, one destination. -/
def sOp2 (d a b : SReg) (lat : Nat) (f : Word → Word → Word) : State → Out :=
  word .s [kS a, kS b] fun s => .ok (s.wrS d (f (s.rdS a) (s.rdS b)) lat)

/-- The divider takes a new word once the previous division's result is readable (05 R125, R126). -/
def sDiv (d a b : SReg) (f : Word → Word → Word) : State → Out :=
  word .s [kS a, kS b, kDiv] fun s => .ok ((s.wrS d (f (s.rdS a) (s.rdS b)) 34).setReady kDiv 34)

/-- A conditional branch (05 R128, R129). -/
def sBranch (a b : SReg) (off : BitVec 11) (taken : Word → Word → Bool) : State → Out :=
  word .s [kS a, kS b] fun s =>
    if taken (s.rdS a) (s.rdS b) then jumpTo .s ((s.lane .s).pc + off.signExtend 32) s else .ok s

/-- What a load leaves: lost words are counted, and trap under PTRAP (19 R418, R419). -/
def finishLoad (s : State) (a : Word) (r : Loaded) : Except Halt Loaded :=
  let count (t : State) : State := t.updMe fun c => { c with uedata := c.uedata + r.bad.length }
  if r.bad.isEmpty then .ok r
  else if s.me.src.fpctl.getLsbD 8 then .error (.trapIn .poison a (count s))
  else .ok { r with st := count r.st }

/-- A load of `n` bytes into a scalar (05 R141, R142). -/
def sLoad (d : SReg) (n : Nat) (signed : Bool) (keys : List Nat) (addr : State → Word) : State → Out :=
  word .s keys fun s => do
    let r ← laneLoad .s (addr s) n (.sreg d signed) (List.replicate n 0) true id s
    let r ← finishLoad s (addr s) r
    .ok (match r.lat with | some n => if d = 0 then r.st else r.st.setReady (kS d) n | none => r.st)

/-- A store of the low `n` bytes of a scalar. -/
def sStore (n : Nat) (data : SReg) (keys : List Nat) (addr : State → Word) : State → Out :=
  word .s keys fun s => do
    needStore .s s
    laneStore .s (addr s) (toBytes n (s.rdS data).toNat) true s

def loadBytes : LoadSize → Nat
  | .b | .bu => 1 | .h | .hu => 2 | .w | .wu => 4 | .d => 8
def loadSigned : LoadSize → Bool
  | .bu | .hu | .wu => false | _ => true
def storeBytes : StoreSize → Nat
  | .b => 1 | .h => 2 | .w => 4 | .d => 8

/-! ### Meanings -/

/-- `ADD` (05 R121). -/
def execAdd (d a b : SReg) : State → Out := sOp2 d a b 1 opAdd

/-- `SUB` (05 R121). -/
def execSub (d a b : SReg) : State → Out := sOp2 d a b 1 opSub

/-- `AND` (05 R121). -/
def execAnd (d a b : SReg) : State → Out := sOp2 d a b 1 opAnd

/-- `OR` (05 R121). -/
def execOr (d a b : SReg) : State → Out := sOp2 d a b 1 opOr

/-- `XOR` (05 R121). -/
def execXor (d a b : SReg) : State → Out := sOp2 d a b 1 opXor

/-- `ANDN` (05 R121). -/
def execAndn (d a b : SReg) : State → Out := sOp2 d a b 1 opAndn

/-- `SHL` (05 R121). -/
def execShl (d a b : SReg) : State → Out := sOp2 d a b 1 opShl

/-- `SHR` (05 R121). -/
def execShr (d a b : SReg) : State → Out := sOp2 d a b 1 opShr

/-- `SRA` (05 R121). -/
def execSra (d a b : SReg) : State → Out := sOp2 d a b 1 opSra

/-- `SLT` (05 R121). -/
def execSlt (d a b : SReg) : State → Out := sOp2 d a b 1 opSlt

/-- `SLTU` (05 R121). -/
def execSltu (d a b : SReg) : State → Out := sOp2 d a b 1 opSltu

/-- `MIN` (05 R121). -/
def execMin (d a b : SReg) : State → Out := sOp2 d a b 1 opMin

/-- `MAX` (05 R121). -/
def execMax (d a b : SReg) : State → Out := sOp2 d a b 1 opMax

/-- `MINU` (05 R121). -/
def execMinu (d a b : SReg) : State → Out := sOp2 d a b 1 opMinu

/-- `MAXU` (05 R121). -/
def execMaxu (d a b : SReg) : State → Out := sOp2 d a b 1 opMaxu

/-- `MUL` (05 R122). -/
def execMul (d a b : SReg) : State → Out := sOp2 d a b 3 opMul

/-- `MULH` (05 R122). -/
def execMulh (d a b : SReg) : State → Out := sOp2 d a b 3 opMulh

/-- `MULHU` (05 R122). -/
def execMulhu (d a b : SReg) : State → Out := sOp2 d a b 3 opMulhu

/-- `DIV` (05 R122). -/
def execDiv (d a b : SReg) : State → Out := sDiv d a b opDiv

/-- `DIVU` (05 R122). -/
def execDivu (d a b : SReg) : State → Out := sDiv d a b opDivu

/-- `REM` (05 R122). -/
def execRem (d a b : SReg) : State → Out := sDiv d a b opRem

/-- `REMU` (05 R122). -/
def execRemu (d a b : SReg) : State → Out := sDiv d a b opRemu

/-- `ADDI` (05 R123). -/
def execAddi (d a : SReg) (imm : BitVec 11) : State → Out := sOp1 d a 1 fun x => opAdd x (sextW imm)

/-- `ANDI` (05 R123). -/
def execAndi (d a : SReg) (imm : BitVec 11) : State → Out := sOp1 d a 1 fun x => opAnd x (zextW imm)

/-- `ORI` (05 R123). -/
def execOri (d a : SReg) (imm : BitVec 11) : State → Out := sOp1 d a 1 fun x => opOr x (zextW imm)

/-- `XORI` (05 R123). -/
def execXori (d a : SReg) (imm : BitVec 11) : State → Out := sOp1 d a 1 fun x => opXor x (zextW imm)

/-- `SHLI` (05 R123). -/
def execShli (d a : SReg) (imm : BitVec 6) : State → Out := sOp1 d a 1 fun x => opShl x (zextW imm)

/-- `SHRI` (05 R123). -/
def execShri (d a : SReg) (imm : BitVec 6) : State → Out := sOp1 d a 1 fun x => opShr x (zextW imm)

/-- `SRAI` (05 R123). -/
def execSrai (d a : SReg) (imm : BitVec 6) : State → Out := sOp1 d a 1 fun x => opSra x (zextW imm)

/-- `SLTI` (05 R123). -/
def execSlti (d a : SReg) (imm : BitVec 11) : State → Out := sOp1 d a 1 fun x => opSlt x (sextW imm)

/-- `CLZ` (05 R122). -/
def execClz (d a : SReg) : State → Out := sOp1 d a 1 opClz

/-- `CTZ` (05 R122). -/
def execCtz (d a : SReg) : State → Out := sOp1 d a 1 opCtz

/-- `POPC` (05 R122). -/
def execPopc (d a : SReg) : State → Out := sOp1 d a 1 opPopc

/-- `SEL` (05 R121): the old destination is the condition. -/
def execSel (d a b : SReg) : State → Out :=
  word .s [kS d, kS a, kS b] fun s => .ok (s.wrS d (opSel (s.rdS d) (s.rdS a) (s.rdS b)) 1)

/-- `LIS` (05 R124): with k = 3 no bit of the old value stays, and it is not read. -/
def execLis (d : SReg) (k : BitVec 2) (imm : BitVec 16) : State → Out :=
  word .s (if k = 3 then [] else [kS d]) fun s => .ok (s.wrS d (opLis (s.rdS d) k imm) 1)

/-- `APTO` with pkg (05 R145). -/
def execAptoPkg (d a : SReg) : State → Out :=
  word .s [kS a] fun s => .ok (s.wrS d (opAptoPkg s.focus (s.rdS a)) 1)

/-- `APTO` with own (05 R145). -/
def execAptoOwn (d a : SReg) : State → Out :=
  word .s [kS a] fun s => .ok (s.wrS d (opAptoOwn s.focus (s.rdS a)) 1)

/-- `APIS` (05 R146). -/
def execApis (w : Window) (d a : SReg) : State → Out :=
  word .s [kS a] fun s => .ok (s.wrS d (opApis s w (s.rdS a)) 1)

/-- `LD.b` (05 R141). -/
def execLdB (d a : SReg) (imm : BitVec 11) : State → Out :=
  sLoad d 1 true [kS a] fun s => s.rdS a + sextW imm

/-- `LD.bu` (05 R141). -/
def execLdBu (d a : SReg) (imm : BitVec 11) : State → Out :=
  sLoad d 1 false [kS a] fun s => s.rdS a + sextW imm

/-- `LD.h` (05 R141). -/
def execLdH (d a : SReg) (imm : BitVec 11) : State → Out :=
  sLoad d 2 true [kS a] fun s => s.rdS a + sextW imm

/-- `LD.hu` (05 R141). -/
def execLdHu (d a : SReg) (imm : BitVec 11) : State → Out :=
  sLoad d 2 false [kS a] fun s => s.rdS a + sextW imm

/-- `LD.w` (05 R141). -/
def execLdW (d a : SReg) (imm : BitVec 11) : State → Out :=
  sLoad d 4 true [kS a] fun s => s.rdS a + sextW imm

/-- `LD.wu` (05 R141). -/
def execLdWu (d a : SReg) (imm : BitVec 11) : State → Out :=
  sLoad d 4 false [kS a] fun s => s.rdS a + sextW imm

/-- `LD.d` (05 R141). -/
def execLdD (d a : SReg) (imm : BitVec 11) : State → Out :=
  sLoad d 8 true [kS a] fun s => s.rdS a + sextW imm

/-- `LDX` (05 R141). -/
def execLdx (sz : LoadSize) (scale : BitVec 2) (d a b : SReg) : State → Out :=
  sLoad d (loadBytes sz) (loadSigned sz) [kS a, kS b] fun s => s.rdS a + (s.rdS b <<< scale.toNat)

/-- `ST.b` (05 R141). -/
def execStB (a b : SReg) (off : BitVec 11) : State → Out :=
  sStore 1 b [kS a, kS b] fun s => s.rdS a + sextW off

/-- `ST.h` (05 R141). -/
def execStH (a b : SReg) (off : BitVec 11) : State → Out :=
  sStore 2 b [kS a, kS b] fun s => s.rdS a + sextW off

/-- `ST.w` (05 R141). -/
def execStW (a b : SReg) (off : BitVec 11) : State → Out :=
  sStore 4 b [kS a, kS b] fun s => s.rdS a + sextW off

/-- `ST.d` (05 R141). -/
def execStD (a b : SReg) (off : BitVec 11) : State → Out :=
  sStore 8 b [kS a, kS b] fun s => s.rdS a + sextW off

/-- `STX` (05 R141): the d register is the data. -/
def execStx (sz : StoreSize) (scale : BitVec 2) (d a b : SReg) : State → Out :=
  sStore (storeBytes sz) d [kS a, kS b, kS d] fun s => s.rdS a + (s.rdS b <<< scale.toNat)

/-- `PREF` (05 R144): a hint without architectural effect. -/
def execPref (_hint : BitVec 2) (a : SReg) (_imm : BitVec 11) : State → Out := word .s [kS a] .ok

/-- `BEQ` (05 R129). -/
def execBeq (a b : SReg) (off : BitVec 11) : State → Out := sBranch a b off fun a b => a == b

/-- `BNE` (05 R129). -/
def execBne (a b : SReg) (off : BitVec 11) : State → Out := sBranch a b off fun a b => a != b

/-- `BLT` (05 R129). -/
def execBlt (a b : SReg) (off : BitVec 11) : State → Out := sBranch a b off fun a b => decide (a.toInt < b.toInt)

/-- `BGE` (05 R129). -/
def execBge (a b : SReg) (off : BitVec 11) : State → Out := sBranch a b off fun a b => decide (b.toInt ≤ a.toInt)

/-- `BLTU` (05 R129). -/
def execBltu (a b : SReg) (off : BitVec 11) : State → Out := sBranch a b off fun a b => decide (a.toNat < b.toNat)

/-- `BGEU` (05 R129). -/
def execBgeu (a b : SReg) (off : BitVec 11) : State → Out := sBranch a b off fun a b => decide (b.toNat ≤ a.toNat)

/-- `LOOP` (05 R130). -/
def execLoop (a : SReg) (off : BitVec 11) : State → Out :=
  word .s [kS a] fun s =>
    let v := s.rdS a
    if v = 0 then .ok s
    else if v - 1 != 0 then (jumpTo .s ((s.lane .s).pc + off.signExtend 32) s).map fun t => t.wrS a (v - 1) 1
    else .ok (s.wrS a (v - 1) 1)

/-- `JMP` (05 R131). -/
def execJmp (off : BitVec 21) : State → Out :=
  word .s [] fun s => jumpTo .s ((s.lane .s).pc + off.signExtend 32) s

/-- The link: the index of the word after the transfer. -/
def State.link (s : State) : Word := zextW ((s.lane .s).pc + 1)

/-- `JAL` (05 R131). -/
def execJal (d : SReg) (off : BitVec 16) : State → Out :=
  word .s [] fun s => (jumpTo .s ((s.lane .s).pc + off.signExtend 32) s).map fun t => t.wrS d s.link 1

/-- `JALR` (05 R131): the base is read before the link is written. -/
def execJalr (d a : SReg) (imm : BitVec 11) : State → Out :=
  word .s [kS a] fun s => (jumpTo .s (bits (s.rdS a) 0 32 + imm.signExtend 32) s).map fun t => t.wrS d s.link 1

/-- Address of byte `o` of the own pool. -/
def ownSpad (o : Nat) : Word := 0xFF00000000000000 + BitVec.ofNat 64 o

/-- The registers that a frame holds: `s24` to `s31`. -/
def frameRegs : List SReg := [24, 25, 26, 27, 28, 29, 30, 31]

/-- `CALL` (05 R132-R134). -/
def execCall (off : BitVec 21) : State → Out :=
  word .s (frameRegs.map kS) fun s => do
    needStore .s s
    let top := s.me.ctl.spillTop
    check (top.toNat % 8 == 0 && decide (s.me.ctl.spillBase.toNat ≤ top.toNat) && decide (top.toNat + 72 ≤ s.me.ctl.spillLim.toNat))
      .spillLimit top
    let frame := s.link :: frameRegs.map s.rdS
    let s1 ← frame.zipIdx.foldlM (fun t w => laneStore .s (ownSpad (top.toNat + 8 * w.2)) (toBytes 8 w.1.toNat) false t) s
    jumpTo .s ((s.lane .s).pc + off.signExtend 32) (s1.updCtl fun c => { c with spillTop := top + 72 })

/-- A word that waits leaves no effect but its progress. -/
def waitsIn {α : Type} (t : State) : Except Halt α → Except Halt α
  | .error (.wait _) => .error (.wait t)
  | r => r

/-- `RET` (05 R132-R134): completes 4 cycles after it issues. -/
def execRet : State → Out :=
  word .s [] fun s => waitsIn (s.setProg .s .returning) do
    let top := s.me.ctl.spillTop
    check (top.toNat % 8 == 0 && decide (top.toNat ≤ s.me.ctl.spillLim.toNat) && decide (s.me.ctl.spillBase.toNat + 72 ≤ top.toNat))
      .spillLimit top
    let (f, s1) ← (List.range 9).foldlM (fun (r : List Word × State) n => do
      let (bs, t) ← readNow .s (ownSpad (top.toNat - 72 + 8 * n)) 8 true r.2
      .ok (r.1 ++ [BitVec.ofNat 64 (leBytes bs)], t)) ([], s)
    let s2 := frameRegs.zipIdx.foldl (fun t r => t.wrS r.1 (f.getD (r.2 + 1) 0) 4) s1
    jumpTo .s (bits (f.getD 0 0) 0 32) ((s2.updCtl fun c => { c with spillTop := top - 72 }).delay .s 4)

/-- `IDLE` (05 R135). -/
def execIdle (n : BitVec 16) : State → Out := word .s [] fun s => .ok (s.delay .s n.toNat)

/-! ### Macros (05 R138-R140) -/

/-- What a macro word does: a result for a register, or a load. -/
inductive MacroOp where
  | alu (d : SReg) (srcs : List SReg) (lat : Nat) (divides : Bool) (v : Word)
  | load (d : SReg) (srcs : List SReg) (n : Nat) (signed : Bool) (a : Word)

/-- The words a macro may hold, over its working copy `r` of the registers. -/
def macroOp (s : State) (r : SReg → Word) : Instr → Option MacroOp
  | .add d a b => some (.alu d [a, b] 1 false (opAdd (r a) (r b)))
  | .sub d a b => some (.alu d [a, b] 1 false (opSub (r a) (r b)))
  | .and_ d a b => some (.alu d [a, b] 1 false (opAnd (r a) (r b)))
  | .or_ d a b => some (.alu d [a, b] 1 false (opOr (r a) (r b)))
  | .xor_ d a b => some (.alu d [a, b] 1 false (opXor (r a) (r b)))
  | .andn d a b => some (.alu d [a, b] 1 false (opAndn (r a) (r b)))
  | .shl d a b => some (.alu d [a, b] 1 false (opShl (r a) (r b)))
  | .shr d a b => some (.alu d [a, b] 1 false (opShr (r a) (r b)))
  | .sra d a b => some (.alu d [a, b] 1 false (opSra (r a) (r b)))
  | .slt d a b => some (.alu d [a, b] 1 false (opSlt (r a) (r b)))
  | .sltu d a b => some (.alu d [a, b] 1 false (opSltu (r a) (r b)))
  | .min_ d a b => some (.alu d [a, b] 1 false (opMin (r a) (r b)))
  | .max_ d a b => some (.alu d [a, b] 1 false (opMax (r a) (r b)))
  | .minu d a b => some (.alu d [a, b] 1 false (opMinu (r a) (r b)))
  | .maxu d a b => some (.alu d [a, b] 1 false (opMaxu (r a) (r b)))
  | .mul d a b => some (.alu d [a, b] 3 false (opMul (r a) (r b)))
  | .mulh d a b => some (.alu d [a, b] 3 false (opMulh (r a) (r b)))
  | .mulhu d a b => some (.alu d [a, b] 3 false (opMulhu (r a) (r b)))
  | .div d a b => some (.alu d [a, b] 34 true (opDiv (r a) (r b)))
  | .divu d a b => some (.alu d [a, b] 34 true (opDivu (r a) (r b)))
  | .rem d a b => some (.alu d [a, b] 34 true (opRem (r a) (r b)))
  | .remu d a b => some (.alu d [a, b] 34 true (opRemu (r a) (r b)))
  | .addi d a imm => some (.alu d [a] 1 false (opAdd (r a) (sextW imm)))
  | .andi d a imm => some (.alu d [a] 1 false (opAnd (r a) (zextW imm)))
  | .ori d a imm => some (.alu d [a] 1 false (opOr (r a) (zextW imm)))
  | .xori d a imm => some (.alu d [a] 1 false (opXor (r a) (zextW imm)))
  | .shli d a imm => some (.alu d [a] 1 false (opShl (r a) (zextW imm)))
  | .shri d a imm => some (.alu d [a] 1 false (opShr (r a) (zextW imm)))
  | .srai d a imm => some (.alu d [a] 1 false (opSra (r a) (zextW imm)))
  | .slti d a imm => some (.alu d [a] 1 false (opSlt (r a) (sextW imm)))
  | .clz d a => some (.alu d [a] 1 false (opClz (r a)))
  | .ctz d a => some (.alu d [a] 1 false (opCtz (r a)))
  | .popc d a => some (.alu d [a] 1 false (opPopc (r a)))
  | .sel d a b => some (.alu d [d, a, b] 1 false (opSel (r d) (r a) (r b)))
  | .lis d k imm => some (.alu d (if k = 3 then [] else [d]) 1 false (opLis (r d) k imm))
  | .aptoPkg d a => some (.alu d [a] 1 false (opAptoPkg s.focus (r a)))
  | .aptoOwn d a => some (.alu d [a] 1 false (opAptoOwn s.focus (r a)))
  | .apis w d a => some (.alu d [a] 1 false (opApis s w (r a)))
  | .ldB d a imm => some (.load d [a] 1 true (r a + sextW imm))
  | .ldBu d a imm => some (.load d [a] 1 false (r a + sextW imm))
  | .ldH d a imm => some (.load d [a] 2 true (r a + sextW imm))
  | .ldHu d a imm => some (.load d [a] 2 false (r a + sextW imm))
  | .ldW d a imm => some (.load d [a] 4 true (r a + sextW imm))
  | .ldWu d a imm => some (.load d [a] 4 false (r a + sextW imm))
  | .ldD d a imm => some (.load d [a] 8 true (r a + sextW imm))
  | .ldx sz sc d a b => some (.load d [a, b] (loadBytes sz) (loadSigned sz) (r a + (r b <<< sc.toNat)))
  | _ => none

def macroMajor (m : Nat) : Bool :=
  m == 0 || m == 1 || (0x08 ≤ m && m ≤ 0x13) || (0x28 ≤ m && m ≤ 0x2E) || m == 0x34 || m == 0x37

/-- Entries of macro `n` from the first up to the one marked LAST, at most 16. -/
def macroEntries (c : Core) (n : Nat) : List MacroEntry :=
  let es := (List.range 16).map fun j => c.macros.get (16 * n + j)
  es.take ((es.takeWhile fun e => !e.last).length + 1)

/-- A well-formed macro (05 R139). -/
def macroOk (c : Core) (n : Nat) : Bool :=
  let es := macroEntries c n
  (es.any fun e => e.last) &&
  es.all fun e => e.valid && fld e.word.toNat 28 4 == 0 && macroMajor (fld e.word.toNat 21 7)

/-- The macro's word with the call's register fields in place. -/
def macroWord (e : MacroEntry) (d a b : SReg) : Nat :=
  let pick (sel : BitVec 2) (x : Nat) : Nat :=
    match sel.toNat with | 0 => x | 1 => d.toNat | 2 => a.toNat | _ => b.toNat
  let w := e.word.toNat
  w / 2 ^ 21 * 2 ^ 21 + pick e.seld (fld w 16 5) * 2 ^ 16 + pick e.sela (fld w 11 5) * 2 ^ 11 + pick e.selb (fld w 6 5) * 2 ^ 6 + fld w 0 6

/-- The cause of a word that is no instruction (04 R117). -/
def decCause : DecErr → Cause
  | .illegalOp => .illegalOp | .illegalFn => .illegalFn | .reservedField => .reservedField | .shapeIllegal => .shapeIllegal

/-- The working state of a macro: registers written so far with the cycle from which each can be read, the cycle of the
next word, and the cycle on which the divider is free. -/
structure MacroRun where
  regs : List (SReg × Word × Nat) := []
  cycle : Nat := 0
  divFree : Nat := 0
  done : Nat := 0

def MacroRun.read (m : MacroRun) (s : State) (n : SReg) : Word :=
  if n = 0 then 0 else match m.regs.find? fun r => r.1 == n with | some r => r.2.1 | none => s.rdS n
/-- Cycles from now until a result of the core can be read. -/
def State.readyIn (s : State) (k : Nat) : Nat := match s.me.src.ready.get k with | some p => p - s.now | none => 0
/-- The macro reads a scalar whose load the core has not performed (05 R126). -/
def MacroRun.awaits (m : MacroRun) (s : State) (n : SReg) : Bool := !(m.regs.any fun r => r.1 == n) && (s.me.src.ready.get (kS n)).isNone
def MacroRun.readyAt (m : MacroRun) (s : State) (n : SReg) : Nat :=
  match m.regs.find? fun r => r.1 == n with | some r => r.2.2 | none => max (s.readyIn (kS n)) (s.readyIn (kSv n.toNat))
def MacroRun.put (m : MacroRun) (d : SReg) (v : Word) (at_ : Nat) : MacroRun :=
  { m with regs := if d = 0 then m.regs else (d, v, at_) :: m.regs.filter fun r => r.1 != d, done := at_ }

/-- One macro word: it waits inside the macro for its sources (05 R140). -/
def macroStep (d a b : SReg) (e : MacroEntry) (m : MacroRun) (s : State) : Except Halt (MacroRun × State) :=
  let w := macroWord e d a b
  match decode (.lane .s) [BitVec.ofNat 32 w] with
  | .error c => .error (.trap (decCause c) (BitVec.ofNat 64 w))
  | .ok i =>
    match macroOp s (m.read s) i with
    | none => .error (.trap .illegalOp (BitVec.ofNat 64 w))
    | some (.alu d srcs lat dv v) =>
      if srcs.any (m.awaits s) then .error (.wait s) else
      let t := max (srcs.foldl (fun t n => max t (m.readyAt s n)) m.cycle) (if dv then m.divFree else 0)
      let m := m.put d v (t + lat)
      .ok ({ m with cycle := t + 1, divFree := if dv then t + lat else m.divFree }, s)
    | some (.load d srcs n sg x) => do
      if srcs.any (m.awaits s) then .error (.wait s) else
      let t := srcs.foldl (fun t n => max t (m.readyAt s n)) m.cycle
      let (loc, s1) ← locate { s.lanes with timed := false } x n false true false s
      let s1 ← register s.focus x loc.key true false loc.global s1
      reached loc x s1
      let q := s1.me.lq.get (laneIdx .s)
      let acc : Acc := { isWrite := false, place := loc.place, key := loc.key, n := n, data := [], dest := .none, repl := [],
                         at_ := s1.now, fig := none }
      if !s1.me.mayLeave .s q.length acc then .error (.wait s)
      else
        let bad := (s1.badWords loc.key n).filter fun k => (bare q loc.key n).any fun i => k ≤ loc.key + i ∧ loc.key + i < k + 8
        let (lat, s2) := loadLat s1 s1.focus loc
        let (bs, s2) := readAcc s2 s2.focus q loc.place loc.key n (List.replicate n 0)
        let r ← finishLoad s x { lat := some lat, bad := bad, st := s2 }
        let v := leBytes bs
        let m := m.put d (if sg then BitVec.ofInt 64 (natSigned (8 * n) v) else BitVec.ofNat 64 v) (t + lat)
        .ok ({ m with cycle := t + 1 }, r.st)

/-- `MCALL` (05 R139, R140): the whole macro as one word; registers change at its end. While a load that it reads, or one that it
would pass, is not performed, the word waits and has no effect. -/
def execMcall (n : BitVec 6) (d a b : SReg) : State → Out :=
  word .s [] fun s => waitsIn s do
    check (macroOk s.me n.toNat) .illegalFn (zextW n)
    let (m, s1) ← (macroEntries s.me n.toNat).foldlM (fun (r : MacroRun × State) e => macroStep d a b e r.1 r.2)
      ({ divFree := s.readyIn kDiv }, s)
    let s2 := m.regs.foldl (fun t r => t.wrS r.1 r.2.1 (max r.2.2 m.done)) s1
    .ok ((s2.setReady kDiv m.divFree).delay .s m.done)

end Sys2Proof.Machine
end

