-- ==== Sys2Proof/Machine/Sync.lean ====
section
/-! DEFINITION. S lane: ordered accesses, atomics, fences, signals, rings, the Lamp (06 R147-R168). -/

namespace Sys2Proof.Machine

open Sys2Proof

/-! ### Ordered loads and stores (06 R148) -/

/-- A word with an acquire role waits: what issues after it stays in the lane queues until its INV (13 R317). -/
def State.waitAcquire (s : State) : Halt := .wait (if (s.lane .s).waiting then s else s.setProg .s (.acquiring s.now))

/-- An access that the S lane performs as a word of its own. -/
def State.sAcc (s : State) (loc : Loc) (n : Nat) (wr : Bool) : Acc :=
  { isWrite := wr, place := loc.place, key := loc.key, n := n, data := [], dest := .none, repl := [], at_ := s.now, fig := none }

/-- What an acquire read gives. -/
structure AcqGot where
  bs : List Byte
  loc : Loc
  lat : Nat
  bad : List Nat
  st : State

/-- An acquire read: from an exclusive own copy, else at the point of coherence (13 R317). Earlier reads of the lane's queue
come first; the lane's own queued writes show. -/
def acquireRead (a : Word) (n : Nat) (s : State) : Except Halt AcqGot := do
  let (loc, s1) ← locate s.lanes a n false true false s
  reached loc a s1
  let q := s1.me.lq.get (laneIdx .s)
  if !s1.me.mayLeave .s q.length (s1.sAcc loc n false) then .error s.waitAcquire
  else
    let (lat, s2) := loadLat s1 s1.focus loc
    let (bs, s2) := match loc.place with
      | .cached => s2.readHome s2.focus loc.key n
      | p => placeRead s2 s2.focus p loc.key n
    let bad := s2.badWords loc.key n
    .ok { bs := overlay q loc.key (replaced loc.key bs (List.replicate n 0) bad), loc := loc, lat := lat,
          bad := bad.filter fun k => (bare q loc.key n).any fun i => k ≤ loc.key + i ∧ loc.key + i < k + 8, st := s2 }

/-- `LDA` of `n` bytes (06 R148), zero-extended. -/
def sLoadAcq (d a : SReg) (imm : BitVec 11) (n : Nat) : State → Out :=
  word .s [kS a] fun s => do
    let va := s.rdS a + sextW imm
    let g ← acquireRead va n s
    let r ← finishLoad s va { lat := some g.lat, bad := g.bad, st := g.st }
    .ok ((acquire g.loc.scope r.st).wrS d (BitVec.ofNat 64 (leBytes g.bs)) g.lat)

/-- The write of a release at its point of coherence (13 R316). -/
def releaseWrite (loc : Loc) (bs : List Byte) (s : State) : State :=
  match loc.place with
  | .cached => s.writeHome s.focus loc.key bs
  | p => placeWrite s s.focus p loc.key bs (s.now + 32)

/-- `STL` of `n` bytes (06 R148). -/
def sStoreRel (a b : SReg) (off : BitVec 11) (n : Nat) : State → Out :=
  word .s [kS a, kS b] fun s => do
    if !(s.lane .s).waiting then needStore .s s
    let va := s.rdS a + sextW off
    let (loc, s1) ← locate s.lanes va n true true false s
    reached loc va s1
    let s2 ← release .s loc.scope false s1
    .ok (releaseWrite loc (toBytes n (s.rdS b).toNat) s2)

/-- `LDA.w` (06 R148). -/
def execLdaW (d a : SReg) (imm : BitVec 11) : State → Out := sLoadAcq d a imm 4
/-- `LDA.d` (06 R148). -/
def execLdaD (d a : SReg) (imm : BitVec 11) : State → Out := sLoadAcq d a imm 8
/-- `STL.w` (06 R148). -/
def execStlW (a b : SReg) (off : BitVec 11) : State → Out := sStoreRel a b off 4
/-- `STL.d` (06 R148). -/
def execStlD (a b : SReg) (off : BitVec 11) : State → Out := sStoreRel a b off 8

/-! ### Atomics (06 R149-R151) -/

/-- The new value of an atomic on patterns of `n` bytes. -/
def atomValue (op : AtomOp) (n old x : Nat) : Nat :=
  let w := 8 * n
  match op with
  | .add => (old + x) % 2 ^ w
  | .and => old &&& x
  | .or => old ||| x
  | .xor => old ^^^ x
  | .min => if natSigned w old ≤ natSigned w x then old else x
  | .max => if natSigned w x ≤ natSigned w old then old else x
  | .minu => if old ≤ x then old else x
  | .maxu => if x ≤ old then old else x
  | .swap => x

/-- The order releases, or acquires. -/
def ordRel : MemOrder → Bool
  | .rel | .sc => true | _ => false
def ordAcq : MemOrder → Bool
  | .acq | .sc => true | _ => false

/-- The read of an AOP (13 R313, R319): on an exclusive copy; with no L1 way, at the home. -/
def aopRead (loc : Loc) (n : Nat) (s : State) : List Byte × State :=
  match loc.place with
  | .cached =>
    if s.me.ways = 0 then s.readHome s.focus loc.key n
    else
      let s := s.excl s.focus (loc.key / 128)
      let (l, s) := s.fetch s.focus (loc.key / 128)
      (lineSlice l.data loc.key n, s)
  | p => placeRead s s.focus p loc.key n

/-- The write of an AOP. -/
def aopWrite (loc : Loc) (bs : List Byte) (s : State) : State :=
  match loc.place with
  | .cached => if s.me.ways = 0 then s.writeHome s.focus loc.key bs else s.writeCached s.focus loc.key bs
  | .vert | .horz _ => s.poke loc.key bs
  | p => placeWrite s s.focus p loc.key bs (s.now + 32)

/-- An atomic on `n` bytes: `next` gives the new value from the old, or none where nothing is written; `relOn` and `acqOn`
say, from the old value, whether the write releases and the read acquires; `acqs`: it may acquire. -/
def sAtomic (d a : SReg) (n : Nat) (keys : List Nat) (acqs : Bool) (relOn acqOn : State → Nat → Bool)
    (next : State → Nat → Option Nat) : State → Out :=
  word .s keys fun s => do
    let va := s.rdS a
    let (loc, s1) ← locate s.lanes va n true true false s
    reached loc va s1
    let hold := if acqs then some s.now else none
    if !(s1.me.lq.get (laneIdx .s)).isEmpty || !s1.me.mayLeave .s 0 (s1.sAcc loc n true) then
      .error (.wait (if (s.lane .s).waiting then s else s.setProg .s (.owning (if loc.place = .cached then some (loc.key / 128) else none) hold)))
    else
      let (lat, s1) := loadLat s1 s1.focus loc
      let first := leBytes (aopRead loc n s1).1
      let s2 ← if relOn s first then release .s loc.scope acqs s1 else .ok s1
      let (bs, s3) := aopRead loc n s2
      let bad := s3.badWords loc.key n
      let r ← finishLoad s va { lat := some lat, bad := bad, st := s3 }
      let old := leBytes (replaced loc.key bs (List.replicate n 0) bad)
      let s4 := match next s old with | some x => aopWrite loc (toBytes n x) r.st | none => r.st
      let s5 := if acqOn s old then acquire loc.scope s4 else s4
      .ok (s5.wrS d (BitVec.ofNat 64 old) (lat + 1))

/-- `ATOM` of `n` bytes (06 R149). -/
def sAtom (op : AtomOp) (ord : MemOrder) (d a b : SReg) (n : Nat) : State → Out :=
  sAtomic d a n [kS a, kS b] (ordAcq ord) (fun _ _ => ordRel ord) (fun _ _ => ordAcq ord)
    fun s old => some (atomValue op n old ((s.rdS b).toNat % 2 ^ (8 * n)))

/-- `CAS` of `n` bytes (06 R149): the destination holds the expected value. -/
def sCas (succ fail : MemOrder) (d a b : SReg) (n : Nat) : State → Out :=
  let hit (s : State) (old : Nat) : Bool := old == (s.rdS d).toNat % 2 ^ (8 * n)
  sAtomic d a n [kS a, kS b, kS d] (ordAcq succ || ordAcq fail) (fun s old => hit s old && ordRel succ) (fun s old => if hit s old then ordAcq succ else ordAcq fail)
    fun s old => if hit s old then some ((s.rdS b).toNat % 2 ^ (8 * n)) else none

/-- `ATOM.w` (06 R149). -/
def execAtomW (op : AtomOp) (ord : MemOrder) (d a b : SReg) : State → Out := sAtom op ord d a b 4
/-- `ATOM.d` (06 R149). -/
def execAtomD (op : AtomOp) (ord : MemOrder) (d a b : SReg) : State → Out := sAtom op ord d a b 8
/-- `CAS.w` (06 R149). -/
def execCasW (succ fail : MemOrder) (d a b : SReg) : State → Out := sCas succ fail d a b 4
/-- `CAS.d` (06 R149). -/
def execCasD (succ fail : MemOrder) (d a b : SReg) : State → Out := sCas succ fail d a b 8

/-- What FAR gives: the old value, the lost words it met, the state. -/
structure FarGot where
  old : Nat
  bad : List Nat
  st : State

/-- FAR (13 R313, R320): the operation at the line's home, after RECALL and the region check; lost words read as zero (19 R418). On a
device page the device performs it (11 R282), and in the cluster scratchpad the L2. -/
def farMove (r : FarReq) (s : State) : Except Halt FarGot :=
  let n := if r.wide then 8 else 4
  if s.farRace s.focus (r.key / 32) then .error (.trap .mmRace r.va)
  else
    let s1 := if r.global then s.recall (r.key / 128) else s
    let bad := s1.badWords r.key n
    let was := match r.dev with
      | some (b, o) => blockRead s1 b o n
      | none => replaced r.key (s1.bytes r.key n) (List.replicate n 0) bad
    let bs := toBytes n (atomValue r.op n (leBytes was) (r.x.toNat % 2 ^ (8 * n)))
    .ok { old := leBytes was, bad := bad,
          st := match r.dev with
            | some (b, o) => blockWrite s1 b o bs
            | none => if r.global then s1.homeWrite (r.key / 128) (linePut (List.replicate 128 0) r.key bs) (maskOf r.key n) none
                      else s1.poke r.key bs }

/-- FAR with the trap of a lost word under PTRAP: nothing is then written (19 R419). -/
def farDone (r : FarReq) (s : State) : Except Halt (Nat × State) := do
  let g ← farMove r s
  let f ← finishLoad s r.va { lat := none, bad := g.bad, st := g.st }
  .ok (g.old, f.st)

/-- `FATOM` (06 R150, R151): the home performs it; in eager mode at once, else when the FAR move is made. -/
def sFatom (op : AtomOp) (d a b : SReg) (wide : Bool) : State → Out :=
  word .s [kS a, kS b] fun s =>
    match s.prog .s with
    | .result v => .ok (s.wrS d v 1)
    | .far => match s.me.far with
      | some r =>
        if s.eager then do
          let (old, s1) ← farDone r s
          .ok ((s1.updMe fun c => { c with far := none }).wrS d (BitVec.ofNat 64 old) 1)
        else .error (.wait s)
      | none => .error (.wait s)
    | _ => do
      let va := s.rdS a
      let n := if wide then 8 else 4
      check (match decodeAddr s s.focus va n true with | some (.global _) => true | _ => false) .aperture va
      let (loc, s1) ← locate s.lanes va n true true false s
      reached loc va s1
      let req : FarReq := { op := op, wide := wide, d := d, x := s.rdS b, key := loc.key, va := va, global := loc.global,
                            dev := match loc.place with | .device b o => some (b, o) | _ => none }
      if !(s1.me.lq.get (laneIdx .s)).isEmpty then .error (.wait s1)
      else if s.eager then do
        let (old, s2) ← farDone req s1
        let (lat, s2) := s2.openLat
        .ok (s2.wrS d (BitVec.ofNat 64 old) (lat + 1))
      else .error (.wait ((s1.updMe fun c => { c with far := some req }).setProg .s .far))

/-- `FATOM.w` (06 R150). -/
def execFatomW (op : AtomOp) (d a b : SReg) : State → Out := sFatom op d a b false
/-- `FATOM.d` (06 R150). -/
def execFatomD (op : AtomOp) (d a b : SReg) : State → Out := sFatom op d a b true

/-! ### Fences (06 R152-R154) -/

/-- `FENCE` (06 R152): 2 cycles at core scope; wider fences are not bounded. -/
def execFence (kind : FenceKind) (scope : Scope) : State → Out :=
  word .s [] fun s => do
    let s1 ← match kind with
      | .acq => match s.prog .s with
        | .acquiring p => if s.me.olderGone p then .ok s else .error (.wait s)
        | _ => if s.me.queuesEmpty then .ok s else .error s.waitAcquire
      | .rel => release .s scope false s
      | _ => release .s scope true s
    let s2 := match kind with | .rel => s1 | _ => acquire scope s1
    let (lat, s3) := if scope = .core then (2, s2) else s2.openLat
    .ok (s3.delay .s lat)

/-- Keys of a vault. -/
def vaultKey (k : Nat) : Bool := decide (2 ^ 54 ≤ k) && decide (k < 2 ^ 55)

/-- No vault write that the core issued before pulse `p` is on its way: none in its queues or paths, none in a transfer not yet
performed (13 R321). -/
def Core.vaultQuiet (c : Core) (p : Nat) : Bool :=
  (lanesAll.all fun l => (c.lq.get (laneIdx l)).all fun a => !(a.isWrite && vaultKey a.key && decide (a.at_ < p)))
    && c.vpath.isEmpty && c.hpath.rows.all (fun r => r.2.isEmpty)
    && c.xfers.all fun t => !(decide (t.iss < p) && t.vaultLeft)

/-- `VFENCE` (06 R154, 13 R321): 1 cycle when nothing is on its way. -/
def execVfence : State → Out := word .s [] fun s =>
  let p := match s.prog .s with | .vfence p => p | _ => s.now
  if s.me.vaultQuiet p then .ok (s.newRegion.delay .s 1) else .error (.wait (s.setProg .s (.vfence p)))

/-! ### Signals (06 R156-R161) -/

/-- Scope of a signal addition: the least that holds both cores (06 R147). -/
def leastScope (a b : CoreId) : Scope := if a = b then .core else if sameCluster a b then .cluster else .package

/-- Additions that have reached a signal are applied before a word that waits on it or arms it (06 R157). -/
def State.settleSig (s : State) (g : SgReg) : State :=
  if s.eager then s.updMe fun c => c.applySigAll g.toNat else s

/-- `SIGADD` (06 R158); `TVAL` of its APERTURE is the whole source (log 64). -/
def execSigadd (g : SgReg) (a : SReg) : State → Out :=
  word .s [kS a] fun s => do
    let x := s.rdS a
    let t : CoreId := if x.getLsbD 47 then bits x 32 11 else s.focus
    check (coreOk t) .aperture x
    let s1 ← release .s (leastScope s.focus t) false s
    .ok (s1.pendSig s.focus.toNat t g.toNat (bits x 0 32).toNat)

/-- `SIGWAIT` (06 R159). -/
def execSigwait (g : SgReg) (a : SReg) : State → Out :=
  word .s [kS a] fun s =>
    let s := s.settleSig g
    let x := s.me.sigs.get g.toNat
    let t : BitVec 32 := if a = 0 then 1 else bits (s.rdS a) 0 32
    if x.byteMode then
      if x.armed then .error s.waitAcquire else .ok (acquire .package s)
    else if x.value.toNat < t.toNat then .error s.waitAcquire
    else .ok (acquire .package (s.updMe fun c => { c with sigs := c.sigs.set g.toNat { x with value := x.value - t } }))

/-- `SIGEXPECT` (06 R160). -/
def Signal.expectWord (g : Signal) (x : Word) : Signal :=
  let g := if x.getLsbD 62 then { g with ovr := false, overcnt := 0 } else g
  if x.getLsbD 63 then { g with byteMode := false, armed := false }
  else { g with byteMode := true, expect := bits x 0 32, armed := true }.add 0

/-- `SIGEXPECT` (06 R160). -/
def execSigexpect (g : SgReg) (a : SReg) : State → Out :=
  word .s [kS a] fun s =>
    let x := s.rdS a
    .ok ((s.settleSig g).updMe fun c => { c with sigs := c.sigs.upd g.toNat fun y => y.expectWord x })

/-- The word that `SIGREAD` gives (06 R161). -/
def Signal.readWord (g : Signal) : Word :=
  BitVec.ofNat 64 (g.value.toNat + boolNat g.byteMode * 2 ^ 32 + boolNat g.armed * 2 ^ 33 + boolNat g.ovr * 2 ^ 34
    + g.overcnt.toNat * 2 ^ 35)

/-- `SIGREAD` (06 R161). -/
def execSigread (d : SReg) (g : SgReg) : State → Out :=
  word .s [] fun s => .ok (s.wrS d (s.me.sigs.get g.toNat).readWord 1)

/-! ### Rings (06 R162, R163, 15 R359-R361) -/

/-- Capacity in entries (15 R359). -/
def Ring.cap (r : Ring) : Nat := if r.valid then 64 * (r.nseg.toNat + 1) else 0

/-- Pool offset of the ring entry of counter `c` (15 R359). -/
def Ring.entry (r : Ring) (x : Core) (c : BitVec 32) : Nat :=
  let i := (c - r.org).toNat
  x.ctl.pbReg + 4096 * (r.slots.get (i % r.cap / 64)).toNat + 64 * (i % 64)

/-- A pending segment link is applied where HEAD stands at the origin's lap (15 R360). -/
def Ring.link (r : Ring) : Ring :=
  if r.pv && r.valid && decide (r.nseg.toNat < 31) && (r.head - r.org).toNat % r.cap == 0 then
    { r with org := r.head, slots := r.slots.set (r.nseg.toNat + 1) r.pend, nseg := r.nseg + 1, pv := false, asked := false }
  else r

/-- A counter moved over the consecutive marked entries; `fuel` bounds the walk. -/
def advanceOver (marks : List (BitVec 32)) : Nat → BitVec 32 → BitVec 32
  | 0, c => c
  | n + 1, c => if marks.contains c then advanceOver marks n (c + 1) else c

/-- The counter in [from, from + n) whose entry has an address. -/
def Ring.find (r : Ring) (x : Core) (off : Nat) (from_ : BitVec 32) (n : Nat) : Option (BitVec 32) :=
  ((List.range n).map fun i => from_ + BitVec.ofNat 32 i).find? fun c => r.entry x c == off

def State.ring (s : State) (c : CoreId) (r : BitVec 4) : Ring := (s.core c).rings.get r.toNat
def State.setRing (s : State) (c : CoreId) (r : BitVec 4) (x : Ring) : State :=
  s.updCore c fun y => { y with rings := y.rings.set r.toNat x }

/-- The ring is configured, else RING_UNCFG with its number (06 R163). -/
def needRing (x : Ring) (r : BitVec 4) : Except Halt Unit := check (x.cap != 0) .ringUncfg (zextW r)

/-- The entry's slot is owned by the lanes (15 R359). -/
def needSlot (x : Core) (off : Nat) (a : Word) : Except Halt Unit := check (x.slotOwner off == .lanes) .ownerViolation a

/-- Window-0x03 address of a pool offset of core `k` of the cluster. -/
def peerSpad (k o : Nat) : Word := 0xFF03000000000000 + BitVec.ofNat 64 (k * 2 ^ 20 + o)

/-- A claim waits its turn behind the others (06 R163). -/
def Ring.arrive (x : Ring) (me : Nat) : Ring := if x.claims.contains me then x else { x with claims := x.claims ++ [me] }

/-- The ring unit grants a claim of core `me` on this pulse: it is the oldest, no other has been granted on the pulse, and the ring
has room. -/
def Ring.grants (x : Ring) (me now : Nat) : Bool :=
  x.claims.headD me == me && x.granted != some now && decide ((x.claim - x.head).toNat + 1 ≤ x.cap)

/-- `RINGCLAIM` (06 R163): claims are granted in the order of their arrival, one per cycle; on a full ring the Yard Controller is
told (15 R360). -/
def execRingclaim (d : SReg) (r : BitVec 4) (a : SReg) : State → Out :=
  word .s [kS a] fun s => do
    let k := (bits (s.rdS a) 0 3).toNat
    let p := peerOf s.focus k
    let x := s.ring p r
    let me := s.focus.toNat
    needRing x r
    if x.grants me s.now then do
      let o := x.entry (s.core p) x.claim
      needSlot (s.core p) o (peerSpad k o)
      .ok ((acquire .cluster (s.setRing p r { x with claim := x.claim + 1, claims := x.claims.drop 1, granted := some s.now })).wrS d
        (peerSpad k o) 1)
    else .error (s.setRing p r { x.arrive me with asked := x.asked || decide (x.cap ≤ (x.claim - x.head).toNat) }).waitAcquire

/-- The core and pool offset that a ring address names, in the cluster of the core in focus. -/
def ringAddr (s : State) (a : Word) : Option (CoreId × Nat) :=
  match decodeByte s s.focus a true with
  | some (.spad c _ o) => some (c, o)
  | _ => none

/-- The Lamp's bookkeeping of a commit into the ring of core `t` (15 R361). -/
def Core.sent (c : Core) (me t : CoreId) : Core :=
  if c.task.lamp.isEmpty then c else
  { c with lamp := { c.lamp with sentRecv := c.lamp.sentRecv + 1,
                                 black := c.lamp.black || (c.task.lamp.contains t && decide (t.toNat < me.toNat)) } }

/-- `RINGCOMMIT` (06 R163). -/
def execRingcommit (r : BitVec 4) (a : SReg) : State → Out :=
  word .s [kS a] fun s => do
    let va := s.rdS a
    match ringAddr s va with
    | none => .error (.trap .ringOrder va)
    | some (p, o) =>
      let x := s.ring p r
      needRing x r
      match x.find (s.core p) o x.tail (x.claim - x.tail).toNat with
      | none => .error (.trap .ringOrder va)
      | some c =>
        if x.committed.contains c then .error (.trap .ringOrder va)
        else do
          needSlot (s.core p) o va
          let s1 ← release .s .cluster false s
          let x := s1.ring p r
          let marks := c :: x.committed
          let tail := advanceOver marks marks.length x.tail
          let x := { x with tail := tail, committed := marks.filter fun m => decide ((m - tail).toNat < 2 ^ 31) }
          .ok ((s1.setRing p r x).updMe fun y => y.sent s.focus p)

/-- `RINGWAITF` (06 R163). -/
def execRingwaitf (r : BitVec 4) (a : SReg) : State → Out :=
  word .s [kS a] fun s => do
    let p := peerOf s.focus (bits (s.rdS a) 0 3).toNat
    let x := s.ring p r
    let m := (bits (s.rdS a) 8 7).toNat
    needRing x r
    check (m != 0) .ringOrder (s.rdS a)
    if (x.claim - x.head).toNat + m ≤ x.cap then .ok s else .error (.wait (s.setRing p r { x with asked := true }))

/-- `RINGWAITE` (06 R163). -/
def execRingwaite (r : BitVec 4) (a : SReg) : State → Out :=
  word .s [kS a] fun s => do
    let x := s.ring s.focus r
    let m := (bits (s.rdS a) 8 7).toNat
    needRing x r
    check (m != 0) .ringOrder (s.rdS a)
    if m ≤ (x.tail - x.take).toNat then .ok s else .error (.wait s)

/-- `RINGTAKE` (06 R163). -/
def execRingtake (d : SReg) (r : BitVec 4) : State → Out :=
  word .s [] fun s => do
    let x := s.ring s.focus r
    needRing x r
    if x.tail = x.take then .error s.waitAcquire
    else do
      let o := x.entry s.me x.take
      needSlot s.me o (ownSpad o)
      let s1 := (s.setRing s.focus r { x with take := x.take + 1 }).updMe fun c =>
        if c.task.lamp.isEmpty then c else { c with lamp := { c.lamp with sentRecv := c.lamp.sentRecv - 1 } }
      .ok ((acquire .cluster s1).wrS d (ownSpad o) 1)

/-- `RINGDONE` (06 R163). -/
def execRingdone (r : BitVec 4) (a : SReg) : State → Out :=
  word .s [kS a] fun s => do
    let va := s.rdS a
    let x := s.ring s.focus r
    needRing x r
    match ringAddr s va with
    | none => .error (.trap .ringOrder va)
    | some (p, o) =>
      match (if p = s.focus then x.find s.me o x.head (x.take - x.head).toNat else none) with
      | none => .error (.trap .ringOrder va)
      | some c =>
        if x.done.contains c then .error (.trap .ringOrder va)
        else do
          needSlot s.me o va
          let s1 ← release .s .cluster false s
          let x := s1.ring s.focus r
          let marks := c :: x.done
          let head := advanceOver marks marks.length x.head
          let x := { x with head := head, done := marks.filter fun m => decide ((m - head).toNat < 2 ^ 31) }
          .ok (s1.setRing s.focus r x.link)

/-! ### Rendezvous (06 R166, R167) -/

/-- `SYNC` (06 R166): the region opens at the end of the cycle on which its group issues (02 R38). -/
def execSync : State → Out :=
  word .s [] fun s => .ok (s.updMe fun c => { c with opens := some s.cyc })

/-- `TICKWAIT` (06 R167): its group forms once `PTIME` has reached the value; found late by more than 64 ns, TICK_LATE. -/
def execTickwait (a : SReg) : State → Out :=
  word .s [kS a] fun s =>
    let v := s.rdS a
    let t := s.ptime
    if t < v.toNat then .error .hold
    else if s.prog .s != .ticking && decide (v.toNat + 64 < t) then .error (.trap .tickLate (BitVec.ofNat 64 t))
    else .ok (s.updMe fun c => { c with opens := some v })

/-! ### The Lamp (06 R168, 15 R361) -/

/-- The participant after `c`, the lowest after the last. -/
def nextLamp (l : List CoreId) (c : CoreId) : CoreId :=
  match l.find? fun x => decide (c.toNat < x.toNat) with
  | some x => x
  | none => match l with | x :: _ => x | [] => c

/-- What `LAMPSEND` does on a core that holds the Lamp: its new state, and the colour and sum that it forwards. -/
def Lamp.send (l : Lamp) : Lamp × Bool × BitVec 32 :=
  let (lb, ls) := if l.init then (false, 0) else (l.lb || l.black, l.ls + l.sentRecv)
  ({ l with lb := lb, ls := ls, black := false, hold := false }, lb, ls)

/-- A forwarded Lamp is on its way to the participant after `c`. -/
def State.passLamp (s : State) (c : CoreId) (id : Nat) (to_ : List CoreId) (lb : Bool) (ls : BitVec 32) : State :=
  s.updCore (nextLamp to_ c) fun y => { y with lampIn := y.lampIn ++ [{ id := id, to_ := to_, lb := lb, ls := ls }] }

/-- The Lamp of a core is forwarded to the next participant. -/
def State.sendLamp (s : State) (c : CoreId) : State :=
  let x := s.core c
  if x.lamp.hold && !x.task.lamp.isEmpty then
    let (l, lb, ls) := x.lamp.send
    (s.updCore c fun y => { y with lamp := l }).passLamp c x.task.lampOf x.task.lamp lb ls
  else s

/-- `LAMPSEND` (06 R168). -/
def execLampsend : State → Out := word .s [] fun s => .ok (s.sendLamp s.focus)

/-- The word that `LAMPTEST` gives (06 R168). -/
def Lamp.testWord (l : Lamp) : Word :=
  let done := l.init && l.hold && !l.lb && !l.black && l.ls + l.sentRecv == 0
  BitVec.ofNat 64 (boolNat l.hold + 2 * boolNat l.lb + 4 * boolNat done + 8 * boolNat l.init)

/-- `LAMPTEST` (06 R168); 0 outside a Lamp OPB (15 R361). -/
def execLamptest (d : SReg) : State → Out :=
  word .s [] fun s => .ok (s.wrS d (if s.me.task.lamp.isEmpty then 0 else s.me.lamp.testWord) 1)

end Sys2Proof.Machine
end

