-- ==== Sys2Proof/Machine/Transfer.lean ====
section
/-! DEFINITION. The copy engine: checks of walks, transfers, feeds, drains and loads, their faults and their ends
(08 R216, R217, R223-R234, R444, 17 R391, R392). -/

namespace Sys2Proof.Machine

open Sys2Proof

/-! ### Checks at issue (08 R227) -/

/-- The contiguous runs of walk bytes [c, c + n): address and length. -/
def Desc.spans (d : Desc) (c n : Nat) : List (Word × Nat) := (d.runs (n + 1) c n).map fun r => (d.addr r.1, r.2)

/-- A run cut where what owns its bytes may change: at slots, through window 0x04 at banks. -/
def cutSpan (r : Word × Nat) : List (Word × Nat) :=
  let a := r.1.toNat
  if bits r.1 48 16 == 0xFF04 then
    let o := a % 2 ^ 19
    (cuts 12288 (r.2 / 12288 + 2) o r.2).map fun p => (r.1 + BitVec.ofNat 64 (p.1 - o), p.2)
  else (cuts 4096 (r.2 / 4096 + 2) a r.2).map fun p => (BitVec.ofNat 64 p.1, p.2)

/-- A piece of a walk that a word checks: written or read. -/
structure Piece where
  wr : Bool
  a : Word
  n : Nat

def pieces4 (wr : Bool) (rs : List (Word × Nat)) : List Piece := (rs.flatMap cutSpan).map fun p => { wr := wr, a := p.1, n := p.2 }

/-- Row APERTURE. -/
def rowAperture (s : State) (ps : List Piece) : Except Halt Unit :=
  match ps.find? fun p => (decodeAddr s s.focus p.a p.n p.wr).isNone with
  | some p => .error (.trap .aperture p.a)
  | none => .ok ()

/-- Row of window 0x04: ACC_UNALLOC, ACC_BAND, the 12-byte rule of 02 R68. -/
def rowAcc (s : State) : List Piece → Except Halt Unit
  | [] => .ok ()
  | p :: t => do
    match decodeAddr s s.focus p.a p.n p.wr with
    | some (.acc c o) => do
      check ((s.core c).banks.get (o / 12288)).alloc .accUnalloc p.a
      check (((s.core c).banks.get (o / 12288)).holder == s.focus) .accBand p.a
      check (o % 12 == 0 && p.n % 12 == 0) .misalign p.a
    | _ => .ok ()
    rowAcc s t

/-- Row MISALIGN: each run is made of whole elements of `w` bytes at multiples of `w`. -/
def rowAlign (w : Nat) (rs : List (Word × Nat)) : Except Halt Unit :=
  match rs.find? fun r => r.1.toNat % w != 0 || r.2 % w != 0 with
  | some r => .error (.trap .misalign r.1)
  | none => .ok ()

/-- Row OWNER_VIOLATION. -/
def rowOwner (s : State) (ps : List Piece) : Except Halt Unit :=
  match ps.find? fun p => match decodeAddr s s.focus p.a p.n p.wr with
      | some (.spad c _ o) => (s.core c).slotOwner o != .xe
      | _ => false with
  | some p => .error (.trap .ownerViolation p.a)
  | none => .ok ()

/-- Rows DESC_SHAPE and DESC_MODE for several walks. -/
def needWalks (ds : List (Desc × BitVec 4)) : Except Halt Unit := do
  match ds.find? fun d => !d.1.shapeOk with
  | some d => .error (.trap .descShape (zextW d.2))
  | none => .ok ()
  match ds.find? fun d => d.1.window with
  | some d => .error (.trap .descMode (zextW d.2))
  | none => .ok ()

/-- The rows below the length rule for walks given as written and read runs; `align` is the MISALIGN row. -/
def needRuns (wr rd : List (Word × Nat)) (align : Except Halt Unit) (s : State) : Except Halt Unit := do
  let ps := pieces4 true wr ++ pieces4 false rd
  rowAperture s ps
  rowAcc s ps
  align
  rowOwner s ps

/-! ### Fault records and ends (08 R227, R234) -/

/-- Why an access of an engine failed: the cause, the address, the descriptor. -/
structure XFail where
  cause : Cause
  addr : Word
  desc : Nat

/-- An access made through a descriptor. -/
def via {α : Type} (d : Nat) : Except Halt α → Except XFail α
  | .ok x => .ok x
  | .error (.trap c a) => .error { cause := c, addr := a, desc := d }
  | .error (.trapIn c a _) => .error { cause := c, addr := a, desc := d }
  | .error (.unreached _ a) => .error { cause := .fabricErr, addr := a, desc := d }
  | .error .hold => .error { cause := .aperture, addr := 0, desc := d }
  | .error (.holdIn _) => .error { cause := .aperture, addr := 0, desc := d }
  | .error (.wait _) => .error { cause := .aperture, addr := 0, desc := d }

/-- Posts a record of an engine of the core in focus. -/
def State.xRecord (s : State) (src : Nat) (f : XFail) (resolvable : Bool) (off : Nat) : Nat × State :=
  s.postRecord (dieOf s.focus) src f.cause s.focus.toNat s.me.ctl.vfid f.desc resolvable f.addr off

def Transfer.src (t : Transfer) : Nat :=
  match t.kind with | .drain _ _ | .load _ | .fmt _ => 1 | .halo _ _ true => 5 | _ => 0

/-- Item `id` has ended without completing, with the record of token `tok`: later `XSIG`s add nothing. -/
def Core.lose (c : Core) (id tok : Nat) (x : Bool) : Core :=
  { c with xfaults := c.xfaults ++ [tok], xLost := c.xLost || x,
           xfers := if x then c.xfers.map fun t => if id < t.id then { t with dead := true } else t else c.xfers }

def State.updXfer (s : State) (id : Nat) (f : Transfer → Transfer) : State :=
  s.updMe fun c => { c with xfers := c.xfers.map fun t => if t.id = id then f t else t }
def State.dropXfer (s : State) (id : Nat) : State := s.updMe fun c => { c with xfers := c.xfers.filter fun t => t.id != id }

/-- Item `id` ends without completing, once its record of token `tok` stands in the ring: while the ring is full it waits (19 R406). -/
def State.loseXfer (s : State) (t : Transfer) (tok : Nat) : State :=
  if (s.die (dieOf s.focus)).posted tok then (s.dropXfer t.id).updMe fun c => c.lose t.id tok (!t.ofM)
  else s.updXfer t.id fun x => { x with st := .ending tok }

/-- A transfer meets a failure: the record, and it waits for the answer or ends. -/
def State.failXfer (s : State) (t : Transfer) (f : XFail) (resolvable : Bool) : State :=
  let s := match t.kind with | .halo _ _ true => s.updPkg fun p => { p with fab := p.fab.upd 6 fun n => min (n + 1) (2 ^ 64 - 1) } | _ => s
  let (tok, s) := s.xRecord t.src f resolvable t.wrote
  if resolvable then s.updXfer t.id fun x => { x with st := .faulted tok } else s.loseXfer t tok

/-! ### The units of transfers -/

/-- The engine's view of an item: an X-engine access of the core. -/
def State.xWho (s : State) (sys : Bool) : Who := { s.engine with sys := sys, pays := true }

/-- One access that reads: the bytes taken from it, lost ones replaced, and their places; `at_` is the place of the first in what the
unit reads. -/
def reqRead (w : Who) (r : Req) (at_ : Nat) (s : State) : Except XFail EngGot := do
  let g ← via r.desc (engineRead w r.a r.n s)
  .ok { bs := ((g.carried r.a).drop r.skip).take r.take,
        lost := (g.lost.filter fun i => decide (r.skip ≤ i) && decide (i < r.skip + r.take)).map fun i => at_ + (i - r.skip), st := g.st }

/-- An access that reads is made for a part. -/
def Part.read (p : Part) (w : Who) (r : Req) (s : State) : Except XFail (Part × State) := do
  let g ← reqRead w r p.bs.length s
  .ok ({ p with reads := p.reads + 1, bs := p.bs ++ g.bs, lost := p.lost ++ g.lost }, g.st)

/-- The bytes of a part with the lost ones zero (19 R418: descriptors, table entries, indexes). -/
def Part.zeroed (p : Part) : List Byte :=
  if p.lost.isEmpty then p.bs else p.bs.zipIdx.map fun b => if p.lost.contains b.2 then 0 else b.1

/-- A drained entry (08 R228, 03 R94): X96 becomes binary32, I96 becomes INT32. -/
def bandValue (i96 : Bool) (x : Nat) : Nat := if i96 then cvtII 96 32 true x else (cvtFF fmtX96 fmtF32 .rne true x).1

/-- The accumulator entry in 12 bytes of a part, lost data replaced (19 R418). -/
def Part.entry (p : Part) (o : Nat) (i96 : Bool) : Nat :=
  if p.lost.any fun i => decide (o ≤ i) && decide (i < o + 12) then (if i96 then 0 else x96Poison) else leBytes ((p.bs.drop o).take 12)

/-- The bank that an address of window 0x04 names holds I96. -/
def State.bandI96 (s : State) (a : Word) : Bool :=
  match decodeByte s s.focus a false with
  | some (.acc c o) => ((s.core c).banks.get (o / 12288)).i96
  | _ => false

/-- Integer 0, or +0 or -0 read as floating, is absent from a ZC stream (03 R78). -/
def zcAbsent (w x : Nat) : Bool := x == 0 || x == 2 ^ (8 * w - 1)

/-- Elements of `w` bytes. -/
def elems (w : Nat) (bs : List Byte) : List Nat := (List.range (bs.length / w)).map fun i => leBytes ((bs.drop (w * i)).take w)

/-- The stream group of up to 64 elements (03 R78). -/
def zcGroup (w : Nat) (es : List Nat) : List Byte :=
  let m := es.zipIdx.foldl (fun m e => if zcAbsent w e.1 then m else m + 2 ^ e.2) 0
  let body := (es.filter fun x => !zcAbsent w x).flatMap fun x => toBytes w x
  toBytes 8 m ++ body ++ List.replicate ((8 - body.length % 8) % 8) 0

/-- The first `n` elements of a group from its mask and present elements. -/
def zcElems (m : Nat) : Nat → Nat → List Nat → List Nat
  | _, 0, _ => []
  | i, n + 1, ps =>
    if natBit m i then ps.headD 0 :: zcElems m (i + 1) n ps.tail else 0 :: zcElems m (i + 1) n ps

/-- `to_f32` of 08 R233. -/
def toF32 (t : EType) (x : Nat) : Nat := (cvtElem t .f32 .rne false x).1

/-- The running result of 08 R233: an infinity or NaN met, and the largest magnitude as a pattern. -/
def deltaStep (t : EType) (r : Bool × Nat) (x y : Nat) : Bool × Nat :=
  let a := toF32 t x
  let b := toF32 t y
  if fmtF32.isNan a || fmtF32.isNan b then (true, r.2)
  else
    let e := (fpSub fmtF32 .rne a b).1 % 2 ^ 31
    if 0x7F800000 ≤ e then (true, r.2) else (r.1, max r.2 e)

/-- Elements that a measurement reads: lost ones are replaced for their type (19 R418). -/
def typed (t : EType) (p : Part) : List Nat :=
  let w := etBytes t
  (elems w p.bs).zipIdx.map fun e => if (List.range w).any fun j => p.lost.contains (w * e.2 + j) then poisonPat t else e.1

/-- Offset of a member's destination in its pool. -/
def Core.slotAt (c : Core) (slot : Nat) : Nat := c.ctl.pbReg + 4096 * slot

/-- The drained form of an entry, and whether it overflowed (03 R89, R94). -/
def drainValue (man : BitVec 128) (i96 : Bool) (x : Nat) : Nat × Bool :=
  let d := mfDrain man
  let sat := mfSat man
  if i96 then
    if d = 0 then let r := cvtIF 96 fmtF32 .rne sat x; (r.1, r.2.of)
    else
      let w := match d with | 5 => 32 | 6 => 16 | _ => 8
      let i := natSigned 96 x
      (cvtII 96 w sat x, decide (i < -(2 ^ (w - 1) : Nat) ∨ ((2 ^ (w - 1) : Nat) : Int) ≤ i))
  else
    let f := match d with | 0 => fmtF32 | 1 => fmtBf16 | 2 => fmtF16 | 3 => fmtE4m3 | _ => fmtE5m2
    let r := cvtFF fmtX96 f .rne sat x
    (r.1, !fmtX96.isInf x && r.2.of)

/-- Bytes of a row of a gather (08 R231). -/
def Transfer.gatherRow (t : Transfer) : Nat := t.a.len.toNat / (t.c.len.toNat / 4)

/-- Bytes of a unit of a copy or a gather. -/
def Transfer.unitLen (t : Transfer) (u : Nat) : Nat :=
  match t.kind with
  | .gather => t.a.unitLen t.gatherRow t.a.len.toNat u
  | _ => t.a.unitLen 0 t.b.len.toNat u

/-- The accesses that read what unit `u` needs, as far as its part `p` shows them; a failure is one that no access meets. `cnt` of a
gather is the number of its index descriptor. -/
def Transfer.reqs (t : Transfer) (u : Nat) (p : Part) : Except XFail (List Req) :=
  let da := t.da.toNat
  let db := t.db.toNat
  match t.kind with
  | .copy | .halo false _ _ => .ok (t.b.reqs db u (t.unitLen u))
  | .band | .halo true _ _ => .ok (t.b.reqs db (12 * u) 12)
  | .mcast _ _ _ => let o := 32 * (u % ((t.b.len.toNat + 31) / 32)); .ok (t.b.reqs db o (min 32 (t.b.len.toNat - o)))
  | .gather =>
    let r := t.gatherRow
    let ix := t.c.reqs t.cnt (4 * (u / r)) 4
    if p.bs.length < 4 then .ok ix else
      let x := leBytes (p.zeroed.take 4)
      .ok (if x < t.b.len.toNat / r then ix ++ t.b.reqs db (x * r + u % r) (t.unitLen u) else ix)
  | .zce ew => .ok (t.b.reqs db (64 * ew * u) (ew * min 64 (t.b.len.toNat / ew - 64 * u)))
  | .zcd ew =>
    let short : XFail := { cause := .zcShort, addr := t.b.addr t.pos, desc := db }
    if t.b.len.toNat < t.pos + 8 then .error short
    else
      let m := t.b.reqs db t.pos 8
      if p.bs.length < 8 then .ok m else
        let k := ((List.range 64).filter fun i => natBit (leBytes (p.bs.take 8)) i).length
        if t.b.len.toNat < t.pos + 8 + k * ew then .error short else .ok (m ++ t.b.reqs db (t.pos + 8) (k * ew))
  | .delta _ => .ok (t.b.reqs db 0 t.b.len.toNat ++ t.a.reqs da 0 t.b.len.toNat)
  | .load _ => .ok (t.a.reqs da (96 * u) 96)
  | .fmt _ => .ok (t.a.reqs da 0 16)
  | .drain _ _ | .sig _ => .ok []

/-- Everything that unit `u` needs has been read: what it writes, what that makes of the transfer, and what it does at once. -/
def Transfer.make (t : Transfer) (u : Nat) (p : Part) (s : State) : Except XFail (List Byte × Transfer × State) :=
  match t.kind with
  | .copy | .halo false _ _ | .mcast _ _ _ => .ok (p.bs, t, s)
  | .band | .halo true _ _ => let i96 := s.bandI96 (t.b.addr (12 * u)); .ok (toBytes 4 (bandValue i96 (p.entry 0 i96)), t, s)
  | .gather => let bs := p.bs.drop 4; .ok (if bs.isEmpty then List.replicate (t.unitLen u) 0 else bs, t, s)
  | .zce ew =>
    let bs := zcGroup ew (elems ew p.bs)
    if t.a.len.toNat < t.pos + bs.length then .error { cause := .zcOverrun, addr := t.a.addr t.pos, desc := t.da.toNat } else .ok (bs, t, s)
  | .zcd ew =>
    let n := min 64 (t.a.len.toNat / ew - 64 * u)
    let es := elems ew (p.bs.drop 8)
    .ok ((zcElems (leBytes (p.bs.take 8)) 0 n es).flatMap fun x => toBytes ew x,
      { t with pos := t.pos + 8 + (es.length * ew + 7) / 8 * 8 }, s)
  | .delta ty =>
    let es := typed ty p
    let n := es.length / 2
    let r := ((es.take n).zip (es.drop n)).foldl (fun r p => deltaStep ty r p.1 p.2) (false, 0)
    .ok (toBytes 4 (if r.1 then 0x7F800000 else r.2), t, s)
  | .drain b man =>
    let i96 := (s.me.banks.get (b + u / 128)).i96
    let es := (List.range 8).map fun i => drainValue man i96 (s.accEntry (keyAcc s.focus b (12 * (8 * u + i))) i96)
    let bad := s.badWords (keyAcc s.focus b (96 * u)) 96
    .ok (es.flatMap fun e => toBytes (drainBytes man) e.1, { t with cnt := t.cnt + (es.filter (·.2)).length },
      s.updMe fun c => { c with uedata := c.uedata + bad.length })
  | .load b =>
    let i96 := (s.me.banks.get (b + u / 128)).i96
    .ok ([], { t with wrote := t.wrote + 96 },
      s.poke (keyAcc s.focus b (96 * u)) ((List.range 8).flatMap fun i => toBytes 12 (p.entry (12 * i) i96)))
  | .fmt k =>
    let m : BitVec 128 := BitVec.ofNat 128 (leBytes p.zeroed)
    .ok ([], if mfRsv m then { t with cnt := 1 } else t, if mfRsv m then s else s.updMe fun c => { c with mf := c.mf.set k m })
  | .sig _ => .ok ([], t, s)

/-- The accesses that write `n` bytes of unit `u`. -/
def Transfer.writes (t : Transfer) (u n : Nat) (s : State) : List Req :=
  match t.kind with
  | .mcast ms slot _ =>
    let p := peerOf s.focus (ms.getD (u / ((t.b.len.toNat + 31) / 32)) 0)
    runReqs (peerSpad (posOf p) ((s.core p).slotAt slot + 32 * (u % ((t.b.len.toNat + 31) / 32)))) 0 n 0xFF
  | _ => t.a.reqs t.da.toNat (t.unitAt u) n

/-- The part of a unit, as far as it has come. -/
def Transfer.part (t : Transfer) (u : Nat) : Part := match t.parts.find? fun p => p.unit == u with | some p => p | none => { unit := u }
def Transfer.setPart (t : Transfer) (p : Part) : Transfer := { t with parts := p :: t.parts.filter fun q => q.unit != p.unit }

/-- A unit has been performed. -/
def Transfer.finish (t : Transfer) (u : Nat) : Transfer :=
  let n := match (t.part u).out with | some o => o.length | none => 0
  { t with left := t.left.erase u, parts := t.parts.filter fun q => q.unit != u, pos := match t.kind with | .zce _ => t.pos + n | _ => t.pos }

/-- Everything that unit `u` needs is there. -/
def Transfer.made (t : Transfer) (u : Nat) (p : Part) (s : State) : Except XFail (Transfer × State) := do
  let (bs, t, s) ← t.make u p s
  let t := t.setPart { p with out := some bs }
  .ok (if bs.isEmpty then t.finish u else t, s)

/-- One access of unit `u` of a transfer, to one granule: what it leaves of the transfer and of the state (13 R313 ENG). -/
def xMove (t : Transfer) (u : Nat) (s : State) : Except XFail (Transfer × State) := do
  let w := s.xWho t.sys
  let p := t.part u
  match p.out with
  | none => do
    let rs ← t.reqs u p
    match rs[p.reads]? with
    | none => t.made u p s
    | some r => do
      let (p, s) ← p.read w r s
      let rs ← t.reqs u p
      if rs.length ≤ p.reads then t.made u p s else .ok (t.setPart p, s)
  | some bs =>
    let ws := t.writes u bs.length s
    match ws[p.writes]? with
    | none => .ok (t.finish u, s)
    | some r => do
      let o := (ws.take p.writes).foldl (fun n r => n + r.n) 0
      let s ← via r.desc (engineWrite w r.a ((bs.drop o).take r.n) s)
      let t := { t with wrote := t.wrote + r.n }.setPart { p with writes := p.writes + 1 }
      .ok (if ws.length ≤ p.writes + 1 then t.finish u else t, s)

/-- The units of ZC transfers and loads come in order; others in any order (08 R226). -/
def Transfer.mayDo (t : Transfer) (u : Nat) : Bool :=
  match t.kind with
  | .zce _ | .zcd _ => t.left.head? == some u
  | _ => t.left.contains u

/-- Up to four transfers of the X lane run at once, in issue order (08 R226); one that issued after a `VFENCE` is not performed before
that completes (06 R154). -/
def Core.runs (c : Core) (t : Transfer) : Bool :=
  passes c.vfencing t.iss
    && (t.ofM || ((c.xfers.filter fun x => !x.ofM && !(x.kind matches .sig _)).take 4).any fun x => x.id == t.id)

/-- A member of a multicast is skipped with a report (08 R230): its units go. -/
def State.skipMember (s : State) (t : Transfer) (m : Nat) (f : XFail) : State :=
  let nc := (t.b.len.toNat + 31) / 32
  match t.kind with
  | .mcast ms slot _ =>
    let p := peerOf s.focus (ms.getD m 0)
    let addr : Word := BitVec.ofNat 64 (p.toNat * 2 ^ 48 + (s.core p).slotAt slot)
    let (tok, s) := s.xRecord 0 { f with addr := addr, desc := 0xFF } false 0
    s.updXfer t.id fun x => { x with left := x.left.filter fun u => u / nc != m, parts := x.parts.filter fun q => q.unit / nc != m, skip := some tok }
  | _ => s

/-- One access of unit `u` of an item is made, or its failure is recorded (08 R227). -/
def State.doUnit (s : State) (t : Transfer) (u : Nat) : State :=
  match xMove t u s with
  | .ok (t', s1) =>
    let s1 := s1.updXfer t.id fun _ => t'
    match t.kind with
    | .mcast ms _ sig =>
      let nc := (t.b.len.toNat + 31) / 32
      if t'.left.any fun v => v / nc == u / nc then s1
      else s1.pendDone s.focus.toNat (peerOf s.focus (ms.getD (u / nc) 0)) sig t.b.len.toNat
    | _ => s1
  | .error f =>
    match t.kind with
    | .mcast _ _ _ => if f.desc = 0xFF then s.skipMember t (u / ((t.b.len.toNat + 31) / 32)) f else s.failXfer t f true
    | .zce _ | .zcd _ => s.failXfer t f (f.cause != .zcOverrun && f.cause != .zcShort)
    | _ => s.failXfer t f true

/-- An item that came before `id` on the X lane is outstanding. -/
def Core.beforeX (c : Core) (id : Nat) : Bool :=
  c.xfers.any (fun t => decide (t.id < id) && !t.ofM && !(t.kind matches .sig _)) || c.feeds.any fun f => decide (f.id < id)

/-- The item can complete now (DONE of 13 R313, 08 R226, R234); an `XSIG` that issued after a `VFENCE` waits for it (06 R154). -/
def Core.mayEnd (c : Core) (t : Transfer) : Bool :=
  t.st == .active && t.left.isEmpty && passes c.vfencing t.iss && (match t.kind with | .sig _ => !c.beforeX t.id | _ => true)

/-- An item completes: its signal is added once (06 R157), counts and late causes of M commands follow (03 R89, 08 R224). -/
def State.endXfer (s : State) (t : Transfer) : State :=
  let s1 := s.dropXfer t.id
  let own (s : State) : State := match t.sg with | some g => s.pendDone s.focus.toNat s.focus g.toNat t.wrote | none => s
  match t.kind with
  | .sig n => if t.dead then s1 else match t.sg with | some g => s1.pendSig s1.focus.toNat s1.focus g.toNat n | none => s1
  | .halo _ dst _ => match dst, t.sg with | some c, some g => s1.pendDone s1.focus.toNat c g.toNat t.wrote | _, _ => s1
  | .mcast ms _ sig =>
    match t.skip with
    | some tok => s1.updMe fun c => c.lose t.id tok true
    | none =>
      -- a copy of no byte is performed at every member as the item completes
      let s1 := if t.b.len = 0 then ms.foldl (fun s k => s.pendDone s.focus.toNat (peerOf s.focus k) sig 0) s1 else s1
      match t.sg with | some g => s1.pendDone s1.focus.toNat s1.focus g.toNat t.b.len.toNat | none => s1
  | .drain _ man =>
    let s2 := (own s1).updCtl fun c => { c with mxovf := satAdd c.mxovf t.cnt }
    if t.cnt != 0 && man.getLsbD 17 then s2.raiseM { pc := t.pc, cause := .mxFp, tval := 2, undo := none } else s2
  | .fmt _ =>
    if t.cnt != 0 then
      let w := match (s.lane .m).buf.get t.pc.toNat with | some w => zextW w | none => 0
      s1.raiseM { pc := t.pc, cause := .reservedField, tval := w, undo := none }
    else s1
  | _ => own s1

/-- The next access of an item is made, or, with none left, it completes. -/
def State.itemMove (s : State) (t : Transfer) : State :=
  match t.left with
  | [] => if s.me.mayEnd t then s.endXfer t else s
  | u :: _ => s.doUnit t u

/-- All the units of an item are performed in order; `fuel` bounds the accesses. -/
def runItem : Nat → Nat → State → State
  | 0, _, s => s
  | fuel + 1, id, s =>
    match s.me.xfers.find? fun t => t.id == id with
    | none => s
    | some t =>
      if t.st != .active then s else
      let s' := s.itemMove t
      if t.left.isEmpty then s' else runItem fuel id s'

/-- More accesses than the rest of an item can take. -/
def Transfer.fuel (t : Transfer) : Nat := (t.left.length + 1) * (t.a.len.toNat + t.b.len.toNat + t.c.len.toNat + 2000)

/-- In eager mode every item whose time has come is performed and completes. -/
def State.xferSettle (s : State) : State :=
  let now := s.now
  (s.me.xfers.map Transfer.id).foldl (fun s id =>
    match s.me.xfers.find? fun t => t.id == id with
    | some t => if s.me.runs t && decide (t.at_ ≤ now) || t.kind matches .sig _ then runItem t.fuel id s else s
    | none => s) s

/-- Next pulse on which an item may be performed. -/
def State.xferNext (s : State) : Option Nat :=
  s.me.xfers.foldl (fun m t =>
    if t.st == .active && s.me.runs t then some (match m with | some p => min p t.at_ | none => t.at_) else m) none

/-! ### Feeds (08 R216, R217, R444) -/

/-- A feed of FIFO A or B has a format with a row in the table of 08 R216. -/
def fmtRow (b : Bool) (code : Nat) : Bool := if b then decide (code ≤ 6) else decide (code ≤ 5)

/-- The format that an entry of the manifest gives a FIFO. -/
def feedFmt (b : Bool) (m : BitVec 128) : FeedFmt :=
  { code := BitVec.ofNat 4 (if b then mfB m else mfA m), sparse := !b && mfSp m, qside := mfQside m }

/-- Walk bytes of one entry; of eight for QL4. -/
def FeedFmt.bytes (f : FeedFmt) (b : Bool) : Nat :=
  let c := f.code.toNat
  if b then
    if c = 6 then (if f.qside = 0 then 136 else 128) else if c = 5 then 16 else 32 * fmtBytes c
  else if c = 5 then 32 else if f.sparse then 128 * fmtBytes c + 32 else 64 * fmtBytes c

def FeedFmt.ql4 (f : FeedFmt) (b : Bool) : Bool := b && f.code == 6

/-- Walk bytes that `n` entries use. -/
def FeedFmt.uses (f : FeedFmt) (b : Bool) (n : Nat) : Nat := if f.ql4 b then f.bytes b * ((n + 7) / 8) else f.bytes b * n

/-- Parameters of a window walk (08 R217). -/
structure Win where
  c1 : Nat
  pad : Nat
  dil : Nat
  str : Nat
  kh : Nat
  kw1 : Nat
  ow1 : Nat

def Desc.winOf (d : Desc) : Win :=
  { c1 := (bits d.win 24 8).toNat + 1, pad := (bits d.win 20 4).toNat, dil := (bits d.win 18 2).toNat + 1,
    str := (bits d.win 16 2).toNat + 1, kh := (bits d.win 12 4).toNat, kw1 := (bits d.win 8 4).toNat + 1,
    ow1 := (bits d.win 0 6).toNat + 1 }

/-- Address of element `i` of column `kc`, none for a zero element (08 R217). -/
def Desc.winElem (d : Desc) (w kc i : Nat) : Option Word :=
  let p := d.winOf
  let c := kc % p.c1
  let kx := kc / p.c1 % p.kw1
  let ky := kc / (p.c1 * p.kw1)
  let y : Int := ((i / p.ow1 * p.str + ky * p.dil : Nat) : Int) - p.pad
  let x : Int := ((i % p.ow1 * p.str + kx * p.dil : Nat) : Int) - p.pad
  if p.kh < ky ∨ y < 0 ∨ (d.cnt1.toNat : Int) ≤ y ∨ x < 0 ∨ (d.cnt2.toNat : Int) ≤ x then none
  else some (d.base + BitVec.ofInt 64 y * sextW d.str1 + BitVec.ofInt 64 x * sextW d.str2 + BitVec.ofNat 64 (c * w))

/-- Addresses that `n` entries of a window walk read. -/
def Desc.winAddrs (d : Desc) (w n : Nat) : List Word :=
  (List.range n).flatMap fun e => (List.range 64).filterMap fun i => d.winElem w (d.cur.toNat / (64 * w) + e) i

/-- Cycles from the issue of a feed to its first entry (08 R216). -/
def feedLat (s : State) (d : Desc) : Nat × State :=
  match decodeByte s s.focus d.base false with
  | some (.spad _ true _) => (24, s)
  | some (.vault _ false _) => (40, s)
  | some (.spad _ false _) => (44, s)
  | _ => s.openLat

/-- The checks of a feed that hold for every format (08 R211, R217). -/
def feedShape (b : Bool) (x : XdReg) (d : Desc) : Except Halt Unit :=
  if d.window then check (!b && !d.win.getLsbD 6) .descMode (zextW x) else check d.shapeOk .descShape (zextW x)

/-- The checks of `n` entries of a feed through walk `d` whose format is known (08 R216, R444). -/
def feedCheck (b : Bool) (x : XdReg) (d : Desc) (f : FeedFmt) (n : Nat) (s : State) : Except Halt Unit := do
  let code := f.code.toNat
  feedShape b x d
  if d.window then do
    check (code != 5 && !f.sparse) .descMode (zextW x)
    let w := fmtBytes code
    check (decide (d.cur.toNat + f.uses b n ≤ d.len.toNat)) .descEnd (zextW x)
    let rs := (d.winAddrs w n).map fun a => (a, w)
    needRuns [] rs (rowAlign w rs) s
  else do
    check (!f.ql4 b || (d.cur.toNat % f.bytes b == 0 && n % 8 == 0)) .descShape (zextW x)
    check (decide (d.cur.toNat + f.uses b n ≤ d.len.toNat)) .descEnd (zextW x)
    let rs := d.spans d.cur.toNat (f.uses b n)
    needRuns [] rs (if f.ql4 b || code = 5 then .ok () else rowAlign (fmtBytes code) rs) s

/-- The descriptor's cursor follows a feed that holds its latched copy. -/
def State.moveCur (s : State) (f : Feed) (was now_ : BitVec 32) : State :=
  s.updR fun r =>
    let d := r.xd.get f.xd.toNat
    if { d with cur := 0 } = { f.d with cur := 0 } ∧ d.cur = was then { r with xd := r.xd.set f.xd.toNat { d with cur := now_ } } else r

/-- A feed ends without completing (08 R234, R444), once its record stands in the ring (19 R406). -/
def State.endFeed (s : State) (f : Feed) (tok : Nat) : State :=
  if (s.die (dieOf s.focus)).posted tok then
    s.updMe fun c => { c with feeds := c.feeds.filter fun g => g.id != f.id }.lose f.id tok true
  else s.updMe fun c => { c with feeds := c.feeds.map fun g => if g.id = f.id then { g with st := .ending tok } else g }

/-- A feed ends with a record that no answer resolves. -/
def State.refuseFeed (s : State) (f : Feed) (e : XFail) : State :=
  let (tok, s) := s.xRecord 0 e false 0
  s.endFeed f tok

/-- The format of a feed is settled by entry `n` of the manifest (08 R444): the descriptor's cursor, and feeds behind it that hold the
same one, move. A feed that issued before its format was known and then fails a check of R227 ends with a record (log 55). -/
def State.settleFeed (s : State) (n id : Nat) : State :=
  match s.me.feeds.find? fun f => f.id == id with
  | none => s
  | some f =>
    let t := feedFmt f.fifoB (s.me.mf.get n)
    if !fmtRow f.fifoB t.code.toNat then s.refuseFeed f { cause := .manifest, addr := 0, desc := f.xd.toNat }
    else match via f.xd.toNat (feedCheck f.fifoB f.xd f.d t f.left s) with
    | .error e => s.refuseFeed f e
    | .ok _ =>
      let used := BitVec.ofNat 32 (t.uses f.fifoB f.left)
      let later (g : Feed) : Feed :=
        if f.id < g.id ∧ g.fmt.isNone ∧ g.xd = f.xd ∧ g.d = f.d then { g with d := { g.d with cur := g.d.cur + used } } else g
      (s.moveCur f f.d.cur (f.d.cur + used)).updMe fun c =>
        { c with feeds := c.feeds.map fun g => if g.id = f.id then { g with fmt := some t } else later g }

/-- The formats of the feeds that hold for one are settled by the pending manifest (08 R444); once the M lane has parked with no matrix
command left, they end. -/
def State.settleFormats (s : State) : State :=
  let held (s : State) : List Nat := (s.me.feeds.filter fun f => f.fmt.isNone && f.st == .active).map Feed.id
  if (held s).isEmpty then s else
  let (p, s) := s.pending
  match p with
  | .missing _ | .unknown => s
  | .none =>
    if !(s.lane .m).parked then s else (held s).foldl (fun s id => match s.me.feeds.find? fun f => f.id == id with
      | some f => s.refuseFeed f { cause := .manifest, addr := 0, desc := f.xd.toNat }
      | none => s) s
  | .entry n => (held s).foldl (fun s id => s.settleFeed n id) s

/-- The elements of the next entry of a window walk, none for a zero element. -/
def Feed.window (f : Feed) (ew : Nat) : List (Option Word) :=
  (List.range 64).map fun i => f.d.winElem ew (f.d.cur.toNat / (64 * ew)) i

/-- The accesses that read the next entry of a feed; of QL4, its whole superblock and side entry. -/
def Feed.reqs (f : Feed) (t : FeedFmt) : List Req :=
  let x := f.xd.toNat
  if f.d.window then
    let ew := fmtBytes t.code.toNat
    (f.window ew).flatMap fun e => match e with | some a => runReqs a 0 ew x | none => []
  else f.d.reqs x f.d.cur.toNat (t.bytes f.fifoB)
    ++ if t.ql4 f.fifoB && t.qside != 0 then runReqs t.qside (8 * (f.d.cur.toNat / 128)) 8 x else []

/-- The entry of a window walk from the bytes of its elements that are read, and the places of lost ones. -/
def winEntry (ew : Nat) (p : Part) : List (Option Word) → Nat → Nat → List Byte × List Nat
  | [], _, _ => ([], [])
  | e :: l, o, i =>
    let n := if e.isSome then ew else 0
    let (bs, lost) := winEntry ew p l (o + n) (i + ew)
    if e.isSome then ((p.bs.drop o).take ew ++ bs, (p.lost.filter fun j => decide (o ≤ j) && decide (j < o + ew)).map (fun j => i + (j - o)) ++ lost)
    else (List.replicate ew 0 ++ bs, lost)

/-- The bytes of the next entry of a feed, once all is read, and the places of lost ones. -/
def Feed.entry (f : Feed) (t : FeedFmt) : List Byte × List Nat :=
  let p := f.part
  if f.d.window then let ew := fmtBytes t.code.toNat; winEntry ew p (f.window ew) 0 0
  else if t.ql4 f.fifoB then
    let sub := (8 - f.left % 8) % 8
    let gone (j : Nat) : Bool :=
      !p.lost.isEmpty && (p.lost.contains (j / 2) || p.lost.contains (128 + j / 64) || (List.range 4).any fun k => p.lost.contains (132 + k))
    ((List.range 32).flatMap (fun j => toBytes 4 (ql4Decode p.bs (32 * sub + j)).1),
      (List.range 32).flatMap (fun j => if gone (32 * sub + j) then (List.range 4).map (4 * j + ·) else []))
  else (p.bs, p.lost)

/-- The next access of a feed's entry is made. -/
def Feed.move (f : Feed) (t : FeedFmt) (s : State) : Except XFail (Feed × State) :=
  match (f.reqs t)[f.part.reads]? with
  | none => .ok (f, s)
  | some r => do
    let (p, s) ← f.part.read (s.xWho f.sys) r s
    .ok ({ f with part := p }, s)

/-- What is left of the entry is read; `fuel` bounds the accesses. -/
def Feed.readAll (t : FeedFmt) : Nat → Feed → State → Except XFail (Feed × State)
  | 0, f, s => .ok (f, s)
  | n + 1, f, s => do
    let (f, s) ← f.move t s
    Feed.readAll t n f s

/-- An access of a feed fails (08 R444): the record, and it waits for the answer. -/
def State.failFeed (s : State) (f : Feed) (t : FeedFmt) (e : XFail) : State :=
  let (tok, s) := s.xRecord 0 e true (f.d.cur.toNat)
  let s := s.updMe fun c => { c with feeds := c.feeds.map fun g => if g.id = f.id then { g with st := .faulted tok } else g }
  s.moveCur f (f.d.cur + BitVec.ofNat 32 (t.uses f.fifoB f.left)) f.d.cur

/-- Pulse from which the next entry of a feed may be pushed: one per matrix cycle, one per two above 256 bytes (08 R216). -/
def Feed.due (f : Feed) (s : State) : Nat :=
  let per := match f.fmt with | some t => if !f.fifoB && decide (256 < t.bytes false) then 2 else 1 | none => 1
  s.matPulse f.start (f.n * per)

def Core.fifo_ (c : Core) (b : Bool) : List FifoEntry := if b then c.fifoB else c.fifoA
def Core.setFifo (c : Core) (b : Bool) (l : List FifoEntry) : Core := if b then { c with fifoB := l } else { c with fifoA := l }

/-- The next entry of the oldest feed into a FIFO is pushed, when its time has come and there is room (08 R216). -/
def State.pushEntry (s : State) (b : Bool) : State :=
  match s.me.feeds.find? fun f => f.fifoB == b with
  | none => s
  | some f =>
    match f.fmt with
    | none => s
    | some t =>
      let now := s.now
      let due := f.due s
      if f.st != .active || decide (64 ≤ (s.me.fifo_ b).length) || decide (now < due) then s else
      match Feed.readAll t ((f.reqs t).length - f.part.reads) f s with
      | .error e => s.failFeed f t e
      | .ok (g, s1) =>
        let (bs, lost) := g.entry t
        let e : FifoEntry := { tag := BitVec.ofNat 5 (t.code.toNat + boolNat t.sparse * 16), data := bs, lost := lost, ready := now }
        let step := if t.ql4 b then (if f.left % 8 = 1 then t.bytes b else 0) else t.bytes b
        let f' : Feed := { g with left := f.left - 1, part := {}, d := { f.d with cur := f.d.cur + BitVec.ofNat 32 step },
                                  start := if due < now then now else f.start, n := if due < now then 1 else f.n + 1 }
        s1.updMe fun c =>
          let c := c.setFifo b (c.fifo_ b ++ [e])
          { c with feeds := if f'.left = 0 then c.feeds.filter fun g => g.id != f.id
                            else c.feeds.map fun g => if g.id = f.id then f' else g }

/-- Entries are pushed while their time has come; `fuel` bounds them. -/
def pushAll (b : Bool) : Nat → State → State
  | 0, s => s
  | n + 1, s =>
    let t := s.pushEntry b
    if t.me.fifo_ b = s.me.fifo_ b ∧ t.me.feeds = s.me.feeds then s else pushAll b n t

/-- In eager mode feeds get their formats and push what is due. -/
def State.feedSettle (s : State) : State :=
  if s.me.feeds.isEmpty then s else pushAll true 1024 (pushAll false 1024 s.settleFormats)

/-- Next pulse on which a feed may push. -/
def State.feedNext (s : State) : Option Nat :=
  [false, true].foldl (fun m b =>
    match s.me.feeds.find? fun f => f.fifoB == b with
    | some f => if f.st == .active && f.fmt.isSome && decide ((s.me.fifo_ b).length < 64) then
        some (match m with | some p => min p (f.due s) | none => f.due s) else m
    | none => m) none

/-! ### X words -/

def sgOf (sg : SgReg) (se : Bool) : Option SgReg := if se then some sg else none

/-- Transfers that the queue counts (08 R226). -/
def Core.queued (c : Core) : Nat := (c.xfers.filter fun t => !t.ofM && !(t.kind matches .sig _)).length

/-- There is room in the queue (08 R226). -/
def needRoom (s : State) : Except Halt Unit := needThat (decide (s.me.queued < 16)) s

/-- The item enters the queue; its end is not bounded, or `lat` cycles away. A transfer of no byte completes at once (08 R228), but not
before a `VFENCE` that waits (06 R154). -/
def State.accept (s : State) (t : Transfer) (lat : Option Nat) : State :=
  let (id, s) := s.take
  let none_ := t.left.isEmpty && !(t.kind matches .sig _)
  let (n, s) := if none_ then (0, s) else match lat with | some n => (n, s) | none => s.openLat
  let t := { t with id := id, at_ := s.now + n, sys := s.me.ctl.pl, iss := s.now }
  let s := s.updMe fun c => { c with xfers := c.xfers ++ [t] }
  if none_ && s.me.mayEnd t then s.endXfer t else s

/-- Units of `n` bytes in pieces of `k`. -/
def units (n k : Nat) : List Nat := List.range ((n + k - 1) / k)

/-- Units of a copy of `n` bytes to a walk, whose rows have `row` bytes (0: any). -/
def Desc.units (d : Desc) (row n : Nat) : List Nat := d.unitsFrom row n (n + 1) 0

/-- Descriptor of a number. -/
def numbered (s : State) (x : XdReg) : Desc × BitVec 4 := (s.rdXd x, x)

/-- The walk reads window 0x04: a copy of it is a band drain (08 R228). -/
def Desc.band (d : Desc) : Bool := bits d.base 48 16 == 0xFF04

/-- `XCOPY` (08 R228): a plain copy, or a band drain from window 0x04. -/
def execXcopy (a b : XdReg) (sg : SgReg) (se : Bool) : State → Out :=
  word .x [] fun s => do
    let d := s.rdXd a
    let e := s.rdXd b
    needRoom s
    needWalks [numbered s a, numbered s b]
    let band := e.band
    let n := e.len.toNat
    let out := if band then n / 3 else n
    check (decide (out ≤ d.len.toNat)) .descEnd (zextW a)
    needRuns (d.spans 0 d.len.toNat) (e.spans 0 n) (.ok ()) s
    .ok (s.accept { id := 0, kind := if band then .band else .copy, a := d, b := e, da := a, db := b, sg := sgOf sg se,
                    left := if band then List.range (n / 12) else d.units 0 n } none)

/-- The core whose scratchpad or vault a byte lies in. -/
def Target.owner : Target → Option CoreId
  | .spad c _ _ => some c
  | .vault c _ _ => some c
  | _ => none

/-- The destination of an `XHALO` (08 R229, 17 R391): one core's scratchpad or vault, or the memory of one package; gives the
core whose signal is added, and whether the bytes travel the Crossover. -/
def haloTarget (d : Desc) (ps : List Piece) (s : State) : Except Halt (Option CoreId × Bool) := do
  let home (p : Piece) : Option Target := decodeByte s s.focus p.a true
  let first := if ps.isEmpty then decodeByte s s.focus d.base true else ps.head?.bind home
  match first with
  | none => .ok (none, false)
  | some (.global _) =>
    let pkgOf (p : Piece) : Option Nat :=
      match home p with
      | some (.global va) =>
        match translate s.engine va s with
        | .ok (.ok e, _) =>
          let pa := e.pa + (va - e.va)
          if pa + p.n ≤ hbmSize then some s.pkg.pkgid.toNat
          else (remoteHbm pa p.n).map Prod.fst
        | _ => none
      | _ => none
    let p0 := ps.head?.bind pkgOf
    match ps.find? fun p => pkgOf p != p0 || p0.isNone with
    | some p => .error (.trap .aperture p.a)
    | none => do
      let w := d.win
      let tgt := w.getLsbD 31
      let pkg := (bits w 22 9).toNat
      let core : CoreId := bits w 11 11
      check (bits w 0 11 == 0 && (s.pkg.masks.get s.me.ctl.vfid).getLsbD pkg && coreOk core) .aperture d.base
      .ok (if tgt && pkg == s.pkg.pkgid.toNat then some core else none, true)
  | some t =>
    match ps.find? fun p => (home p).bind Target.owner != t.owner with
    | some p => .error (.trap .aperture p.a)
    | none => .ok (t.owner, false)

/-- `XHALO` (08 R229, 17 R391, R392). -/
def execXhalo (a b : XdReg) (sg : SgReg) (se : Bool) : State → Out :=
  word .x [] fun s => do
    let d := s.rdXd a
    let e := s.rdXd b
    needRoom s
    needWalks [numbered s a, numbered s b]
    let n := e.len.toNat
    check (decide ((if e.band then n / 3 else n) ≤ d.len.toNat)) .descEnd (zextW a)
    let wr := pieces4 true (d.spans 0 d.len.toNat)
    let rd := pieces4 false (e.spans 0 n)
    rowAperture s (wr ++ rd)
    let (dst, cross) ← haloTarget d wr s
    rowAcc s rd
    rowOwner s (wr ++ rd)
    .ok (s.accept { id := 0, kind := .halo e.band dst cross, a := d, b := e, da := a, db := b, sg := sgOf sg se,
                    left := if e.band then List.range (n / 12) else d.units 0 n } none)

/-- The entry of a multicast table (10 R264): core bitmap, slot, signal. -/
def setSlot (e : BitVec 1280) : Nat := (bits e 1152 16).toNat
def setSig (e : BitVec 1280) : Nat := (bits e 1168 8).toNat

/-- `XMCAST` (08 R230): to the set's members in the own cluster, from the context of the core's virtual function (02 R59). -/
def execXmcast (mc : McReg) (b : XdReg) (sg : SgReg) (se : Bool) : State → Out :=
  word .x [] fun s => do
    let e := s.rdXd b
    needRoom s
    needWalks [numbered s b]
    let n := e.len.toNat
    let set := (s.boxes.get s.me.ctl.vfid).mc.get mc.toNat
    let slot := setSlot set
    let ms := (List.range 8).filter fun k => set.getLsbD (denseOf (peerOf s.focus k))
    let dst (k : Nat) : Nat := (s.core (peerOf s.focus k)).slotAt slot
    match ms.find? fun k => decide ((s.core (peerOf s.focus k)).ctl.pbSpad < dst k + n) with
    | some k => .error (.trap .aperture (peerSpad k (dst k)))
    | none => do
      needRuns (ms.map fun k => (peerSpad k (dst k), n)) (e.spans 0 n) (.ok ()) s
      .ok (s.accept { id := 0, kind := .mcast ms slot (setSig set % 64), b := e, db := b, sg := sgOf sg se,
                        left := List.range (ms.length * ((n + 31) / 32)) } none)

/-- `XGATHER` (08 R231). -/
def execXgather (a b c : XdReg) (sg : SgReg) (se : Bool) : State → Out :=
  word .x [] fun s => do
    let da := s.rdXd a
    let db := s.rdXd b
    let dc := s.rdXd c
    needRoom s
    needWalks [numbered s a, numbered s b, numbered s c]
    check (dc.len.toNat % 4 == 0) .descShape (zextW c)
    let n := dc.len.toNat / 4
    check (if n = 0 then da.len == 0 else da.len.toNat % n == 0) .descShape (zextW a)
    let rows := if n = 0 then 0 else da.len.toNat / n
    let ix := dc.spans 0 dc.len.toNat
    needRuns (da.spans 0 da.len.toNat) (db.spans 0 db.len.toNat ++ ix) (rowAlign 4 ix) s
    .ok (s.accept { id := 0, kind := .gather, a := da, b := db, c := dc, da := a, db := b, cnt := c.toNat, sg := sgOf sg se,
                     left := da.units rows da.len.toNat } none)

/-- A ZC transfer (08 R232): `enc` encodes walk B into A, else B is decoded. -/
def xZero (enc : Bool) (w : ZcWidth) (a b : XdReg) (sg : SgReg) (se : Bool) : State → Out :=
  word .x [] fun s => do
    let ew := 2 ^ w.code
    let d := s.rdXd a
    let e := s.rdXd b
    needRoom s
    needWalks [numbered s a, numbered s b]
    check (e.len.toNat % ew == 0) .descShape (zextW b)
    check (d.len.toNat % ew == 0) .descShape (zextW a)
    let wr := d.spans 0 d.len.toNat
    let rd := e.spans 0 e.len.toNat
    needRuns wr rd (rowAlign ew (if enc then rd else wr)) s
    .ok (s.accept { id := 0, kind := if enc then .zce ew else .zcd ew, a := d, b := e, da := a, db := b, sg := sgOf sg se,
                     left := units ((if enc then e.len.toNat else d.len.toNat) / ew) 64 } none)

/-- `XZCE` (08 R232). -/
def execXzce (w : ZcWidth) (a b : XdReg) (sg : SgReg) (se : Bool) : State → Out := xZero true w a b sg se
/-- `XZCD` (08 R232). -/
def execXzcd (w : ZcWidth) (a b : XdReg) (sg : SgReg) (se : Bool) : State → Out := xZero false w a b sg se

/-- `XDELTA` (08 R233). -/
def execXdelta (ty : EType) (a b : XdReg) (sg : SgReg) (se : Bool) : State → Out :=
  word .x [] fun s => do
    let d := s.rdXd a
    let e := s.rdXd b
    let w := etBytes ty
    let n := e.len.toNat
    needRoom s
    needWalks [numbered s a, numbered s b]
    check (n + 4 == d.len.toNat && n % w == 0) .descShape (zextW b)
    let ref := d.spans 0 n
    let cell := d.spans n 4
    let inp := e.spans 0 n
    needRuns cell (ref ++ inp) (do rowAlign 4 cell; rowAlign w (ref ++ inp)) s
    .ok (s.accept { id := 0, kind := .delta ty, a := d, b := e, da := a, db := b, sg := sgOf sg se, left := [0] } none)

/-- A feed (08 R216, R444). -/
def xFeed (b : Bool) (x : XdReg) (n1 : BitVec 8) : State → Out :=
  word .x [] fun s => do
    let n := n1.toNat + 1
    let d := s.rdXd x
    needThat (decide ((s.me.feeds.filter fun f => f.fifoB == b).length < 8)) s
    let (lat, s1) := feedLat s d
    let (id, s1) := s1.take
    let f : Feed := { id := id, fifoB := b, xd := x, d := d, left := n, fmt := none, start := s.now + lat, n := 0, sys := s.me.ctl.pl }
    let add (s : State) (f : Feed) : State := s.updMe fun c => { c with feeds := c.feeds ++ [f] }
    feedShape b x d
    match s1.pending with
    | (.entry k, s2) =>
      let t := feedFmt b (s.me.mf.get k)
      if !fmtRow b t.code.toNat then .ok ((add s2 f).refuseFeed f { cause := .manifest, addr := 0, desc := x.toNat })
      else do
        feedCheck b x d t n s
        .ok (add (s2.advance x (t.uses b n)) { f with fmt := some t })
    | (_, s2) => .ok (add s2 f)

/-- `XFEEDA` (08 R216). -/
def execXfeeda (a : XdReg) (n1 : BitVec 8) : State → Out := xFeed false a n1
/-- `XFEEDB` (08 R216). -/
def execXfeedb (a : XdReg) (n1 : BitVec 8) : State → Out := xFeed true a n1

/-- `XSIG` (08 R234): the addition is made once every earlier transfer and feed has completed. -/
def execXsig (sg : SgReg) (n : BitVec 8) : State → Out :=
  word .x [] fun s =>
    .ok (s.accept { id := 0, kind := .sig n.toNat, sg := some sg, dead := s.me.xLost } (some 0))

/-- `XLOOP` (08 R234). -/
def execXloop (n : BitVec 10) (off : BitVec 13) : State → Out :=
  word .x [] fun s =>
    let a := (s.lane .x).pc
    let back (r : LoopRec) : Except Halt State :=
      (jumpTo .x (a + off.signExtend 32) s).map fun t => t.updMe fun c => { c with xloop := some r }
    match s.me.xloop with
    | some r =>
      if r.addr = a then
        if r.rem = 1 then .ok (s.updMe fun c => { c with xloop := none }) else back { r with rem := r.rem - 1 }
      else if 1 < n.toNat then back { addr := a, rem := n.toNat - 1 } else .ok s
    | none => if 1 < n.toNat then back { addr := a, rem := n.toNat - 1 } else .ok s

/-- `X_NOP` (04 R99). -/
def execXnop : State → Out := word .x [] fun s => .ok s

/-- `XWAIT` (08 R234). -/
def execXwait : State → Out :=
  word .x [] fun s => if s.me.beforeX s.fresh then .error (.wait s) else reportLost s

/-! ### Drains and loads of the M lane -/

/-- `MDRAIN` (08 R223). -/
def execMdrain (ab : AbReg) (count : BitVec 6) (x : XdReg) (sg : SgReg) (se : Bool) : State → Out :=
  word .m [] fun s => do
    let b := ab.toNat
    let n := count.toNat
    let d := s.rdXd x
    let no : BitVec 4 := match s.me.lmfNo with | some k => k | none => Config.entryOfNoLmf
    needEngine s
    needBanks b n s
    match s.me.lmf with
    | none => .error (.trap .manifest (zextW no))
    | some m => do
      check (firstBank s.me b (min n (32 - b)) fun k => !drainOk k.i96 (mfDrain m)).isNone .manifest (zextW no)
      check (decide (b + n ≤ 32)) .accRange (zextW ab)
      needAlloc b n s
      match firstBank s.me b n fun k => k.holder != s.focus with
      | some i => .error (.trap .accBand (BitVec.ofNat 64 i))
      | none => do
        needWalks [numbered s x]
        let wd := drainBytes m
        check (decide (n * 1024 * wd ≤ d.len.toNat)) .descEnd (zextW x)
        let rs := d.spans 0 (n * 1024 * wd)
        needRuns rs [] (rowAlign wd rs) s
        let s1 := s.engineBusy (16 * n)
        .ok (s1.accept { id := 0, kind := .drain b m, a := { d with len := BitVec.ofNat 32 (n * 1024 * wd) }, da := x, sg := sgOf sg se,
                          pc := (s.lane .m).pc, left := List.range (n * 128) } (some (s.engCycles (·.mat) (16 * n))))

/-- `MLOAD` (08 R224). -/
def execMload (ab : AbReg) (count : BitVec 6) (x : XdReg) : State → Out :=
  word .m [] fun s => do
    let b := ab.toNat
    let n := count.toNat
    let d := s.rdXd x
    needEngine s
    needBanks b n s
    check (decide (b + n ≤ 32)) .accRange (zextW ab)
    needAlloc b n s
    needWalks [numbered s x]
    check (decide (n * 12288 ≤ d.len.toNat)) .descEnd (zextW x)
    let rs := d.spans 0 (n * 12288)
    match rs.find? fun r => bits r.1 48 16 == 0xFF04 with
    | some r => .error (.trap .aperture r.1)
    | none => .ok ()
    needRuns [] rs (.ok ()) s
    .ok (s.accept { id := 0, kind := .load b, a := d, da := x, pc := (s.lane .m).pc, left := List.range (n * 128) } none)

/-- `MFMT` (08 R224). -/
def execMfmt (mf : MfReg) (x : XdReg) : State → Out :=
  word .m [] fun s => do
    let d := s.rdXd x
    needEngine s
    needWalks [numbered s x]
    check (decide (16 ≤ d.len.toNat)) .descEnd (zextW x)
    needRuns [] (d.spans 0 16) (.ok ()) s
    .ok (s.accept { id := 0, kind := .fmt mf.toNat, a := d, da := x, pc := (s.lane .m).pc, left := [0] } none)

/-! ### Events of the engines -/

/-- ENG of a feed: the next access of the next entry of the oldest feed into its FIFO. -/
def State.engFeed (s : State) (id : Nat) : State :=
  match s.me.feeds.find? fun f => f.id == id with
  | none => s
  | some f =>
    match f.fmt, s.me.feeds.find? fun g => g.fifoB == f.fifoB with
    | some t, some g =>
      if g.id != id || f.st != .active then s else
      match f.move t s with
      | .ok (f', s1) => s1.updMe fun c => { c with feeds := c.feeds.map fun g => if g.id = id then f' else g }
      | .error e => s.failFeed f t e
    | _, _ => s

/-- `ENG` (13 R313): one granule access of an item, or of a feed, is performed at its target. -/
def execEvEng : State → Out := event fun s =>
  match s.me.xfers.find? fun t => t.id == s.arg.n with
  | some t => if t.st == .active && s.me.runs t && t.mayDo s.arg.m then s.doUnit t s.arg.m else s
  | none => s.engFeed s.arg.n

/-- Items and feeds of a core whose records have entered the ring end (19 R406). -/
def State.endPosted (s : State) : State :=
  let s := s.me.xfers.foldl (fun s t => match t.st with | .ending tok => s.loseXfer t tok | _ => s) s
  s.me.feeds.foldl (fun s f => match f.st with | .ending tok => s.endFeed f tok | _ => s) s

/-- `DONE` (08 R226): an item whose units are all performed completes. -/
def execEvDone : State → Out := event fun s =>
  match s.me.xfers.find? fun t => t.id == s.arg.n with
  | some t => if s.me.mayEnd t then s.endXfer t else s
  | none => s

/-- `FEED_ENTRY_PUSH` (08 R216). -/
def execFeedEntryPush : State → Out := event fun s => s.pushEntry s.arg.flag

/-- `MANIFEST_RESOLVE` (08 R444): feeds that hold for a format get the pending manifest's. -/
def execManifestResolve : State → Out := event fun s => s.settleFormats

/-- The transfer or feed that waits for the answer to a token, with its core. -/
def State.waiting (s : State) (die : Bool) (tok : Nat) : Option (CoreId × (Transfer ⊕ Feed)) :=
  if !(s.die (boolNat die)).posted tok then none else
  (s.cores.rows.filter fun r => dieOf (BitVec.ofNat 11 r.1) == boolNat die).findSome? fun r =>
    let c : CoreId := BitVec.ofNat 11 r.1
    match r.2.xfers.find? fun t => t.st == .faulted tok with
    | some t => some (c, .inl t)
    | none => match r.2.feeds.find? fun f => f.st == .faulted tok with
      | some f => some (c, .inr f)
      | none => none

/-- `RETRY` (19 R407): the transfer or feed goes on at the failing place. -/
def execRetry : State → Out := event fun s =>
  match s.waiting s.arg.flag s.arg.n with
  | none => s
  | some (c, .inl t) =>
    let s1 := { s with focus := c }
    { s1.updXfer t.id fun x => { x with st := .active, at_ := s1.now } with focus := s.focus }
  | some (c, .inr f) =>
    let s1 := { s with focus := c }
    let used := match f.fmt with | some t => BitVec.ofNat 32 (t.uses f.fifoB f.left) | none => 0
    let s2 := s1.moveCur f f.d.cur (f.d.cur + used)
    let now := s1.now
    { s2.updMe fun x => { x with feeds := x.feeds.map fun g => if g.id = f.id then { g with st := .active, start := now, n := 0 } else g } with
      focus := s.focus }

/-- `ABANDON` (19 R407): the transfer or feed ends without completing; the next `XWAIT` or `MWAIT` reports it. -/
def execAbandon : State → Out := event fun s =>
  match s.waiting s.arg.flag s.arg.n with
  | none => s
  | some (c, .inl t) =>
    let s1 := { s with focus := c }
    { (s1.dropXfer t.id).updMe fun x => x.lose t.id s.arg.n (!t.ofM) with focus := s.focus }
  | some (c, .inr f) =>
    let s1 := { s with focus := c }
    { s1.endFeed f s.arg.n with focus := s.focus }

end Sys2Proof.Machine
end

