-- ==== Sys2Proof/Machine/Trans.lean ====
section
/-! DEFINITION. The correctly rounded transcendentals of 03 R95 and 07 R190, and the atan2 of 09 R251. Each is evaluated
in integers scaled by a power of two, with far more bits than the hardest binary32 case needs, and rounded once. -/

namespace Sys2Proof.Machine

open Sys2Proof

/-- Bits below the point of the fixed-point evaluation. -/
def fixBits : Nat := 700

/-- pi x 2^700, truncated. -/
def piFix : Nat := 0x3243f6a8885a308d313198a2e03707344a4093822299f31d0082efa98ec4e6c89452821e638d01377be5466cf34e90c6cc0ac29b7c97c50dd3f84d5b5b54709179216d5d98979fb1bd1310ba698dfb5ac2ffd72dbd01adfb

/-- ln 2 x 2^700, truncated. -/
def ln2Fix : Nat := 0xb17217f7d1cf79abc9e3b39803f2f6af40f343267298b62d8a0d175b8baafa2be7b876206debac98559552fb4afa1b10ed2eae35c138214427573b291169b8253e96ca16224ae8c51acbda11317c387eb9ea9bc3b136603

def oneFix : Nat := 2 ^ fixBits

/-- Newton's iteration for the square root, at most `fuel` steps. -/
def isqrtLoop (n : Nat) : Nat → Nat → Nat
  | 0, x => x
  | fuel + 1, x =>
    let y := (x + n / x) / 2
    if y < x then isqrtLoop n fuel y else x

/-- Integer square root. -/
def isqrt (n : Nat) : Nat := if n = 0 then 0 else isqrtLoop n 64 (2 ^ (Nat.log2 n / 2 + 1))

/-- Sum of t^k / k! from the term `term` of index `k` on, in fixed point. -/
def expLoop (t : Nat) : Nat → Nat → Nat → Nat → Nat
  | 0, _, _, acc => acc
  | fuel + 1, k, term, acc =>
    let nt := term * t / oneFix / k
    if nt = 0 then acc else expLoop t fuel (k + 1) nt (acc + nt)

/-- 2^f for a fixed-point f in [0, 1). -/
def exp2Frac (f : Nat) : Nat := expLoop (f * ln2Fix / oneFix) 200 1 oneFix oneFix

/-- Alternating (`alt`) or plain sum of z^(2k+1) / (2k+1) from the power `pw` on: atan or atanh. -/
def atanLoop (alt : Bool) (z2 : Nat) : Nat → Nat → Nat → Int → Bool → Int
  | 0, _, _, acc, _ => acc
  | fuel + 1, k, pw, acc, minus =>
    let t : Int := pw / k
    let acc' := if minus then acc - t else acc + t
    let pw' := pw * z2 / oneFix
    if pw' = 0 then acc' else atanLoop alt z2 fuel (k + 2) pw' acc' (alt && !minus)

/-- Sum of the sine (`k` starts at 1) or cosine (at 0) series, in fixed point. -/
def trigLoop (t2 : Nat) : Nat → Nat → Nat → Int → Bool → Int
  | 0, _, _, acc, _ => acc
  | fuel + 1, k, term, acc, minus =>
    let acc' := if minus then acc - (term : Int) else acc + term
    let nt := term * t2 / oneFix / ((k + 1) * (k + 2))
    if nt = 0 then acc' else trigLoop t2 fuel (k + 2) nt acc' (!minus)

/-- sin(pi r) for a fixed-point r in [0, 1/2]. -/
def sinPiFix (r : Nat) : Nat :=
  if r ≤ oneFix / 4 then
    let t := r * piFix / oneFix
    (trigLoop (t * t / oneFix) 200 1 t 0 false).toNat
  else
    let t := (oneFix / 2 - r) * piFix / oneFix
    (trigLoop (t * t / oneFix) 200 0 oneFix 0 false).toNat

/-- A fixed-point magnitude rounded to binary32 in RNE as an inexact result. -/
def fixF32 (neg : Bool) (m : Nat) (e : Int) : Nat × FpFlags := roundMag fmtF32 .rne false neg m (e - fixBits) true

/-- A magnitude m x 2^e as fixed point, truncated. -/
def toFix (m : Nat) (e : Int) : Nat :=
  let k : Int := e + fixBits
  if 0 ≤ k then m * 2 ^ k.toNat else m / 2 ^ (-k).toNat

def nanF32 : Nat := 0x7FC00000
def oneF32 : Nat := 0x3F800000
def infF32 : Nat := 0x7F800000
def sgnF32 : Nat := 0x80000000

/-- NaN operands of a binary32 operation (03 R83). -/
def nan1 (x : Nat) (k : Nat × FpFlags) : Nat × FpFlags :=
  match nanResult fmtF32 [(fmtF32, x)] with
  | some p => p
  | none => k

/-- `VRCP` (07 R190). -/
def fpRcp (x : Nat) : Nat × FpFlags := fpDiv fmtF32 .rne oneF32 x

/-- `VSQRT`. -/
def fpSqrt (x : Nat) : Nat × FpFlags := nan1 x <|
  match fmtF32.val x with
  | .fin neg m e =>
    if m = 0 then (x, noFlags)
    else if neg then (nanF32, flagNV)
    else
      let odd := e % 2 != 0
      let m1 := (if odd then 2 * m else m) * 2 ^ 128
      let e1 : Int := (if odd then e - 1 else e) / 2 - 64
      let r := isqrt m1
      roundMag fmtF32 .rne false false r e1 (r * r != m1)
  | .inf neg => if neg then (nanF32, flagNV) else (infF32, noFlags)
  | .nan => (nanF32, noFlags)

/-- `VRSQRT`. -/
def fpRsqrt (x : Nat) : Nat × FpFlags := nan1 x <|
  match fmtF32.val x with
  | .fin neg m e =>
    if m = 0 then ((if neg then sgnF32 else 0) + infF32, flagDZ)
    else if neg then (nanF32, flagNV)
    else
      let odd := e % 2 != 0
      let m1 := if odd then 2 * m else m
      let e1 : Int := (if odd then e - 1 else e) / 2
      let r := isqrt (2 ^ 256 / m1)
      roundMag fmtF32 .rne false false r (-e1 - 128) (r * r * m1 != 2 ^ 256)
  | .inf neg => if neg then (nanF32, flagNV) else (0, noFlags)
  | .nan => (nanF32, noFlags)

/-- `VEXP2`. -/
def fpExp2 (x : Nat) : Nat × FpFlags := nan1 x <|
  match fmtF32.val x with
  | .fin neg m e =>
    if m = 0 then (oneF32, noFlags)
    else if 12 < (Nat.log2 m : Int) + e then
      (if neg then roundMag fmtF32 .rne false false 1 (-4096) false else roundMag fmtF32 .rne false false 1 4096 false)
    else
      let a := toFix m e
      let q := a / oneFix
      let f := a % oneFix
      if f = 0 then roundMag fmtF32 .rne false false 1 (if neg then -(q : Int) else q) false
      else if neg then fixF32 false (exp2Frac (oneFix - f)) (-(q : Int) - 1)
      else fixF32 false (exp2Frac f) q
  | .inf neg => if neg then (0, noFlags) else (infF32, noFlags)
  | .nan => (nanF32, noFlags)

/-- log2 of m x 2^e (m not 0) as a fixed-point integer. -/
def log2Fix (m : Nat) (e : Int) : Int :=
  let l := Nat.log2 m
  -- y in [1, 2), then in [2/3, 4/3)
  let y0 := m * 2 ^ (fixBits - l)
  let big := decide (4 * oneFix < 3 * y0)
  let y := if big then y0 / 2 else y0
  let k : Int := (l : Int) + e + (if big then 1 else 0)
  let up := decide (oneFix ≤ y)
  let d := if up then y - oneFix else oneFix - y
  let z := d * oneFix / (y + oneFix)
  let ln := 2 * atanLoop false (z * z / oneFix) 400 1 z 0 false
  let lg : Int := ln * oneFix / ln2Fix
  k * oneFix + (if up then lg else -lg)

/-- log2 of a positive magnitude, correctly rounded in RNE; +0 for 1. -/
def log2Mag (m : Nat) (e : Int) : Nat × FpFlags :=
  if m = 2 ^ Nat.log2 m then
    let k : Int := (Nat.log2 m : Int) + e
    roundMag fmtF32 .rne false (decide (k < 0)) k.natAbs 0 false
  else
    let r := log2Fix m e
    fixF32 (decide (r < 0)) r.natAbs 0

/-- `VLOG2`. -/
def fpLog2 (x : Nat) : Nat × FpFlags := nan1 x <|
  match fmtF32.val x with
  | .fin neg m e =>
    if m = 0 then (sgnF32 + infF32, flagDZ)
    else if neg then (nanF32, flagNV)
    else log2Mag m e
  | .inf neg => if neg then (nanF32, flagNV) else (infF32, noFlags)
  | .nan => (nanF32, noFlags)

/-- x mod 2 of a finite magnitude, as fixed point in [0, 2): exact for binary32. -/
def mod2Fix (m : Nat) (e : Int) : Nat := toFix m e % (2 * oneFix)

/-- `VSINPI`. -/
def fpSinpi (x : Nat) : Nat × FpFlags := nan1 x <|
  match fmtF32.val x with
  | .fin neg m e =>
    if m = 0 then (x, noFlags)
    else
      let r := mod2Fix m e
      let a := r % oneFix
      let minus := neg != decide (oneFix ≤ r)
      if a = 0 then (if neg then sgnF32 else 0, noFlags)
      else if a = oneFix / 2 then ((if minus then sgnF32 else 0) + oneF32, noFlags)
      else fixF32 minus (sinPiFix (if a < oneFix / 2 then a else oneFix - a)) 0
  | .inf _ => (nanF32, flagNV)
  | .nan => (nanF32, noFlags)

/-- `VCOSPI`. -/
def fpCospi (x : Nat) : Nat × FpFlags := nan1 x <|
  match fmtF32.val x with
  | .fin _ m e =>
    let r := mod2Fix m e
    -- cos(pi r) = sin(pi (r + 1/2))
    let r1 := (r + oneFix / 2) % (2 * oneFix)
    let a := r1 % oneFix
    let minus := decide (oneFix ≤ r1)
    if a = 0 then (0, noFlags)
    else if a = oneFix / 2 then ((if minus then sgnF32 else 0) + oneF32, noFlags)
    else fixF32 minus (sinPiFix (if a < oneFix / 2 then a else oneFix - a)) 0
  | .inf _ => (nanF32, flagNV)
  | .nan => (nanF32, noFlags)

/-- `VSIG`: 1 / (1 + e^-x). -/
def fpSig (x : Nat) : Nat × FpFlags := nan1 x <|
  match fmtF32.val x with
  | .fin neg m e =>
    if m = 0 then (0x3F000000, noFlags)
    else if 8 < (Nat.log2 m : Int) + e then
      (if neg then roundMag fmtF32 .rne false false 1 (-200) true else roundMag fmtF32 .rne false false (2 ^ 200 - 1) (-200) true)
    else
      -- E = e^-|x| = 2^-(q + f)
      let a := toFix m e * oneFix / ln2Fix
      let q := a / oneFix
      let f := a % oneFix
      let g := exp2Frac (oneFix - f)
      let ee := g / 2 ^ (q + 1)
      let num := if neg then ee else oneFix
      fixF32 false (num * oneFix / (oneFix + ee)) 0
  | .inf neg => if neg then (0, noFlags) else (oneF32, noFlags)
  | .nan => (nanF32, noFlags)

/-- atan of a fixed-point t in [0, 1], by halving the argument three times. -/
def atanFix (t : Nat) : Nat :=
  let half (u : Nat) : Nat := u * oneFix / (oneFix + isqrt (oneFix * oneFix + u * u))
  let z := half (half (half t))
  (8 * atanLoop true (z * z / oneFix) 400 1 z 0 false).toNat

/-- atan2 of finite non-zero magnitudes; `xn`: x is negative. The sign is that of y. -/
def atan2Fin (yn : Bool) (m : Nat) (e : Int) (xn : Bool) (n : Nat) (d : Int) : Nat × FpFlags :=
  let le := decide (cmpFin false m e false n d ≤ 0)
  let r := if le then divMag m e n d else divMag n d m e
  -- the ratio of the lesser to the greater magnitude, truncated
  let tiny := decide ((Nat.log2 r.1 : Int) + r.2.1 < -200)
  if tiny && le && !xn then
    -- atan t lies just below t
    let k := r.1 * 2 ^ 200
    let m1 := if r.2.2 then k else k - 1
    roundMag fmtF32 .rne false yn m1 (r.2.1 - 200) true
  else
    let t := if le then toFix' m e n d else toFix' n d m e
    let a := atanFix t
    let b := if le then a else piFix / 2 - a
    let c := if xn then piFix - b else b
    fixF32 yn c 0
where
  /-- the ratio as fixed point -/
  toFix' (m : Nat) (e : Int) (n : Nat) (d : Int) : Nat :=
    let k : Int := e - d + fixBits
    if 0 ≤ k then m * 2 ^ k.toNat / n else m / (n * 2 ^ (-k).toNat)

/-- A multiple num / den of pi with a sign. -/
def piTimes (neg : Bool) (num den : Nat) : Nat × FpFlags := fixF32 neg (piFix * num / den) 0

/-- atan2(y, x) correctly rounded in RNE, with IEEE 754 at zero and infinite operands (09 R251 `clog`). -/
def fpAtan2 (y x : Nat) : Nat × FpFlags :=
  match nanResult fmtF32 [(fmtF32, y), (fmtF32, x)] with
  | some p => p
  | none =>
    match fmtF32.val y, fmtF32.val x with
    | .fin yn m e, .fin xn n d =>
      if m = 0 then (if xn then piTimes yn 1 1 else (if yn then sgnF32 else 0, noFlags))
      else if n = 0 then piTimes yn 1 2
      else atan2Fin yn m e xn n d
    | .fin yn _ _, .inf xn => if xn then piTimes yn 1 1 else (if yn then sgnF32 else 0, noFlags)
    | .inf yn, .fin _ _ _ => piTimes yn 1 2
    | .inf yn, .inf xn => if xn then piTimes yn 3 4 else piTimes yn 1 4
    | _, _ => (nanF32, noFlags)

end Sys2Proof.Machine
end

