-- ==== Sys2Proof/Machine/Vector.lean ====
section
/-! DEFINITION. V lane: shape, element arithmetic, compares, predicates, conversions, QL4, reductions, permutations, the
denoising words and loop control (07 R187-R199, R203, R205-R207). -/

namespace Sys2Proof.Machine

open Sys2Proof

/-! ### Element operations -/

/-- An operation on both parts of a C64 pattern (03 R72). -/
def parts (f : Nat → Nat → Nat × FpFlags) (a b : Nat) : Nat × FpFlags :=
  let r := f (a % 2 ^ 32) (b % 2 ^ 32)
  let i := f (a / 2 ^ 32) (b / 2 ^ 32)
  (r.1 + i.1 * 2 ^ 32, r.2.or i.2)

/-- Types that the binary words accept (07 R186, R188). -/
def etFC (t : EType) : Bool := etF t || t == .c64

def elAdd (t : EType) (rm : Rm) (a b : Nat) : Nat × FpFlags :=
  if t = .c64 then parts (fpAdd fmtF32 rm) a b else fpAdd (etFmt t) rm a b
def elSub (t : EType) (rm : Rm) (a b : Nat) : Nat × FpFlags :=
  if t = .c64 then parts (fpSub fmtF32 rm) a b else fpSub (etFmt t) rm a b
def elMul (t : EType) (rm : Rm) (a b : Nat) : Nat × FpFlags :=
  if t = .c64 then parts (fpMul fmtF32 rm) a b else fpMul (etFmt t) rm a b
def elDiv (t : EType) (rm : Rm) (a b : Nat) : Nat × FpFlags := fpDiv (etFmt t) rm a b
def elMin (t : EType) (_ : Rm) (a b : Nat) : Nat × FpFlags := fpMin (etFmt t) a b
def elMax (t : EType) (_ : Rm) (a b : Nat) : Nat × FpFlags := fpMax (etFmt t) a b

/-- +-(a x b) +- o, rounded once (07 R188). -/
def elFused (np no : Bool) (t : EType) (rm : Rm) (a b o : Nat) : Nat × FpFlags :=
  let f := etFmt t
  let neg (on : Bool) (v : Option Val) : Option Val := if on then v.map negVal else v
  fpSum f rm [(f, a), (f, b), (f, o)] [neg np (mulVal (f.val a) (f.val b)), neg no (some (f.val o))]

/-- Complex product (07 R188): each part is the exact sum of two products, rounded once. -/
def cMul (rm : Rm) (a b : Nat) : Nat × FpFlags :=
  let f := fmtF32
  let ar := a % 2 ^ 32; let ai := a / 2 ^ 32; let br := b % 2 ^ 32; let bi := b / 2 ^ 32
  let ops := [(f, ar), (f, ai), (f, br), (f, bi)]
  let r := fpSum f rm ops [mulVal (f.val ar) (f.val br), (mulVal (f.val ai) (f.val bi)).map negVal]
  let i := fpSum f rm ops [mulVal (f.val ar) (f.val bi), mulVal (f.val ai) (f.val br)]
  (r.1 + i.1 * 2 ^ 32, r.2.or i.2)

/-- The element width in bits. -/
def etBits (t : EType) : Nat := 8 * etBytes t

/-- `VABS` (07 R189). -/
def elAbs (t : EType) (a : Nat) : Nat × FpFlags :=
  let w := etBits t
  if etI t then ((natSigned w a).natAbs % 2 ^ w, noFlags) else (a % 2 ^ (w - 1), noFlags)

/-- `VNEG` (07 R189). -/
def elNeg (t : EType) (a : Nat) : Nat × FpFlags :=
  let w := etBits t
  if etI t then ((2 ^ w - a) % 2 ^ w, noFlags)
  else if t = .c64 then ((a ^^^ (2 ^ 63 + 2 ^ 31)), noFlags)
  else (a ^^^ 2 ^ (w - 1), noFlags)

/-- Integer and bitwise words (07 R191): results wrap, no flag. -/
def elInt (f : Nat → Nat → Nat → Nat) (t : EType) (_ : Rm) (a b : Nat) : Nat × FpFlags :=
  (f (etBits t) a b % 2 ^ etBits t, noFlags)

def iAdd (_ a b : Nat) : Nat := a + b
def iSub (w a b : Nat) : Nat := a + 2 ^ w - b
def iMul (_ a b : Nat) : Nat := a * b
def iAnd (_ a b : Nat) : Nat := a &&& b
def iOr (_ a b : Nat) : Nat := a ||| b
def iXor (_ a b : Nat) : Nat := a ^^^ b
def iShl (w a b : Nat) : Nat := a * 2 ^ (b % w)
def iShr (w a b : Nat) : Nat := a / 2 ^ (b % w)
def iSra (w a b : Nat) : Nat := (natSigned w a / (2 ^ (b % w) : Nat) % (2 ^ w : Nat)).toNat

/-- Any type. -/
def etAny (_ : EType) : Bool := true

/-! ### Shape (07 R187) -/

/-- `VSETSHAPE`: the decoder has refused bad shapes. -/
def execVsetshape (ty : EType) (vl : BitVec 9) : State → Out :=
  word .v [] fun s => .ok ((s.updR fun r => { r with ety := ty, vl := vl }).setReady kShape (s.vCycles 1))

/-! ### Element arithmetic (07 R188) -/

/-- `VADD`. -/
def execVadd (d a b : VReg) (p : PReg) : State → Out := vBin d a b p 3 etFC elAdd
/-- `VSUB`. -/
def execVsub (d a b : VReg) (p : PReg) : State → Out := vBin d a b p 3 etFC elSub
/-- `VMUL`. -/
def execVmul (d a b : VReg) (p : PReg) : State → Out := vBin d a b p 3 etFC elMul
/-- `VDIV`. -/
def execVdiv (d a b : VReg) (p : PReg) : State → Out := vBin d a b p 8 etF elDiv
/-- `VMIN`. -/
def execVmin (d a b : VReg) (p : PReg) : State → Out := vBin d a b p 3 etF elMin
/-- `VMAX`. -/
def execVmax (d a b : VReg) (p : PReg) : State → Out := vBin d a b p 3 etF elMax
/-- `VFMA`. -/
def execVfma (d a b : VReg) (p : PReg) : State → Out := vTri d a b p 3 etF (elFused false false)
/-- `VFMS`. -/
def execVfms (d a b : VReg) (p : PReg) : State → Out := vTri d a b p 3 etF (elFused false true)
/-- `VFNMA`. -/
def execVfnma (d a b : VReg) (p : PReg) : State → Out := vTri d a b p 3 etF (elFused true false)
/-- `VCMUL`. -/
def execVcmul (d a b : VReg) (p : PReg) : State → Out := vBin d a b p 3 (· == .c64) fun _ rm => cMul rm

/-! ### Unary words (07 R189, R190) -/

/-- `VABS`. -/
def execVabs (d a : VReg) (p : PReg) : State → Out := vUn d a p 1 (fun t => etF t || etF8 t || etI t) elAbs
/-- `VNEG`. -/
def execVneg (d a : VReg) (p : PReg) : State → Out := vUn d a p 1 etAny elNeg
/-- A transcendental of binary32. -/
def vTrans (d a : VReg) (p : PReg) (f : Nat → Nat × FpFlags) : State → Out := vUn d a p 8 (· == .f32) fun _ => f
/-- `VRCP`. -/
def execVrcp (d a : VReg) (p : PReg) : State → Out := vTrans d a p fpRcp
/-- `VRSQRT`. -/
def execVrsqrt (d a : VReg) (p : PReg) : State → Out := vTrans d a p fpRsqrt
/-- `VSQRT`. -/
def execVsqrt (d a : VReg) (p : PReg) : State → Out := vTrans d a p fpSqrt
/-- `VEXP2`. -/
def execVexp2 (d a : VReg) (p : PReg) : State → Out := vTrans d a p fpExp2
/-- `VLOG2`. -/
def execVlog2 (d a : VReg) (p : PReg) : State → Out := vTrans d a p fpLog2
/-- `VSINPI`. -/
def execVsinpi (d a : VReg) (p : PReg) : State → Out := vTrans d a p fpSinpi
/-- `VCOSPI`. -/
def execVcospi (d a : VReg) (p : PReg) : State → Out := vTrans d a p fpCospi
/-- `VSIG`. -/
def execVsig (d a : VReg) (p : PReg) : State → Out := vTrans d a p fpSig

/-! ### Integer and bitwise words (07 R191, R210) -/

/-- `VIADD`. -/
def execViadd (d a b : VReg) (p : PReg) : State → Out := vBin d a b p 3 etI (elInt iAdd)
/-- `VISUB`. -/
def execVisub (d a b : VReg) (p : PReg) : State → Out := vBin d a b p 3 etI (elInt iSub)
/-- `VIMUL`. -/
def execVimul (d a b : VReg) (p : PReg) : State → Out := vBin d a b p 3 etI (elInt iMul)
/-- `VAND`. -/
def execVand (d a b : VReg) (p : PReg) : State → Out := vBin d a b p 1 etAny (elInt iAnd)
/-- `VOR`. -/
def execVor (d a b : VReg) (p : PReg) : State → Out := vBin d a b p 1 etAny (elInt iOr)
/-- `VXOR`. -/
def execVxor (d a b : VReg) (p : PReg) : State → Out := vBin d a b p 1 etAny (elInt iXor)
/-- `VSHL`. -/
def execVshl (d a b : VReg) (p : PReg) : State → Out := vBin d a b p 3 etI (elInt iShl)
/-- `VSHR`. -/
def execVshr (d a b : VReg) (p : PReg) : State → Out := vBin d a b p 3 etI (elInt iShr)
/-- `VSRA`. -/
def execVsra (d a b : VReg) (p : PReg) : State → Out := vBin d a b p 3 etI (elInt iSra)

/-! ### Compares (07 R192) -/

/-- A compare of two patterns of a float format and its flags. -/
def fCmp (f : Fmt) (c : Cmp) (a b : Nat) : Bool × FpFlags :=
  let nan := f.isNan a || f.isNan b
  let snan := f.isSnan a || f.isSnan b
  match c with
  | .un => (nan, if snan then flagNV else noFlags)
  | .eq => (!nan && cmpVal (f.val a) (f.val b) == 0, if snan then flagNV else noFlags)
  | .lt => (!nan && cmpVal (f.val a) (f.val b) == -1, if nan then flagNV else noFlags)
  | .le => (!nan && cmpVal (f.val a) (f.val b) != 1, if nan then flagNV else noFlags)

/-- Signed and floating compares. -/
def elCmp (t : EType) (c : Cmp) (a b : Nat) : Bool × FpFlags :=
  if etI t then
    let x := natSigned (etBits t) a
    let y := natSigned (etBits t) b
    (match c with | .eq => x == y | .lt => decide (x < y) | .le => decide (x ≤ y) | .un => false, noFlags)
  else if t = .c64 then
    let r := fCmp fmtF32 c (a % 2 ^ 32) (b % 2 ^ 32)
    let i := fCmp fmtF32 c (a / 2 ^ 32) (b / 2 ^ 32)
    (if c = .un then r.1 || i.1 else r.1 && i.1, r.2.or i.2)
  else fCmp (etFmt t) c a b

/-- The compare is offered for the type. -/
def cmpOk (c : Cmp) (t : EType) : Bool := etF t || etI t || (t == .c64 && (c == .eq || c == .un))

/-- A compare: bits below VL get the result where the guard is set, else 0. -/
def vCompare (d : PReg) (a b : VReg) (p : PReg) (ok : EType → Bool) (f : EType → Nat → Nat → Bool × FpFlags) : State → Out :=
  vGuarded p [a, b] noKeys (fun s => ok s.ety) fun vs act s => do
    let t := s.ety
    let x := vs.getD 0 0
    let y := vs.getD 1 0
    let res := act.map fun i => (i, f t (elemAt (etBytes t) x i) (elemAt (etBytes t) y i))
    needSane t (pick t x act ++ pick t y act) s
    let s1 ← raiseFlags (allFlags (res.map fun r => r.2.2)) s
    .ok (s1.wrP d ((res.filter fun r => r.2.1).map Prod.fst) 3)

/-- `VCMP`. -/
def execVcmp (c : Cmp) (d : PReg) (a b : VReg) (p : PReg) : State → Out := vCompare d a b p (cmpOk c) fun t => elCmp t c
/-- `VCMP`, unsigned. -/
def execVcmpU (c : CmpU) (d : PReg) (a b : VReg) (p : PReg) : State → Out :=
  vCompare d a b p etI fun _ x y => (match c with | .ltu => decide (x < y) | .leu => decide (x ≤ y), noFlags)

/-! ### Predicates (07 R193) -/

/-- Predicate logic on the bits below VL; not guarded. -/
def pLogic (d a b : PReg) (f : Bool → Bool → Bool) : State → Out :=
  wordK .v (fun s => [kShape, kP (s.pp a), kP (s.pp b)]) fun s =>
    .ok (s.wrP d ((List.range s.vl).filter fun i => f ((s.rdP a).getLsbD i) ((s.rdP b).getLsbD i)) 1)

/-- `PAND`. -/
def execPand (d a b : PReg) : State → Out := pLogic d a b (· && ·)
/-- `POR`. -/
def execPor (d a b : PReg) : State → Out := pLogic d a b (· || ·)
/-- `PXOR`. -/
def execPxor (d a b : PReg) : State → Out := pLogic d a b (· ^^ ·)
/-- `PCOUNT`. -/
def execPcount (d : SReg) (a : PReg) : State → Out :=
  wordK .v (fun s => [kShape, kP (s.pp a)]) fun s => .ok (s.wrSv d (BitVec.ofNat 64 (s.active a).length))

/-! ### Conversions (07 R194-R196) -/

/-- A conversion to type `ty` (03 R85-R87): result elements have the target's width. -/
def vConvert (i : Instr) (d a : VReg) (ty : EType) (rm : Rm) (sat : Bool) (p : PReg) : State → Out :=
  vGuarded p [a] noKeys (fun _ => true) fun vs act s => do
    let t := s.ety
    check (t != .c64 && ty != .c64) .illegalFn (thisWord s .v i)
    needShape (decide (s.vl * max (etBytes t) (etBytes ty) ≤ 256)) s
    let x := vs.getD 0 0
    vWrite d (etBytes ty) 3 (pick t x act) (act.map fun i => (i, cvtElem t ty rm sat (elemAt (etBytes t) x i))) s

/-- `VCVT`. -/
def execVcvt (d a : VReg) (ty : EType) (rm : Rm) (p : PReg) : State → Out := vConvert (.vcvt d a ty rm p) d a ty rm false p
/-- `VCVT.s`. -/
def execVcvtS (d a : VReg) (ty : EType) (rm : Rm) (p : PReg) : State → Out := vConvert (.vcvtS d a ty rm p) d a ty rm true p

/-- The shape of the QL4 words. -/
def ql4Shape (s : State) : Bool := s.ety == .f32 && s.vl == 64

/-- `VQL4DEC` (07 R195). A superscale that is poison is no poisoned element (log 65). -/
def execVql4dec (d a : VReg) (blk : BitVec 2) (p : PReg) : State → Out :=
  vGuarded p [a] noKeys ql4Shape fun vs act s =>
    let sb := toBytes 136 (vs.getD 0 0).toNat
    vWrite d 4 8 [] (act.map fun i => (i, ql4Decode sb (64 * blk.toNat + i))) s

/-- Names of the four sources of `VQL4ENC`. -/
def fourFrom (a : VReg) : List VReg := if a.toNat < 60 then [a, a + 1, a + 2, a + 3] else [a, a, a, a]

/-- `VQL4ENC` (07 R196): the whole destination is written whatever the guard. -/
def execVql4enc (d a : VReg) (p : PReg) : State → Out :=
  vGuarded p (fourFrom a) noKeys ql4Shape fun vs act s => do
    let on (i : Nat) : Bool := act.contains i
    let xs := vs.flatMap fun v => (List.range 64).map fun i => if on i then elemAt 4 v i else 0
    needSane .f32 (vs.flatMap fun v => pick .f32 v act) s
    let (bs, fl) := ql4Encode xs
    let s1 ← raiseFlags fl s
    .ok (s1.wrV d 256 [(0, leBytes bs)] 8)

/-! ### Reductions and scans (07 R197, 03 R96, R97) -/

/-- Type of a node of the tree. -/
def nodeType (t : EType) : EType := if t = .f64 then .f64 else if etI t then .i32 else if t = .c64 then .c64 else .f32

/-- A tree over 2^depth leaves from `lo`. -/
def redTree (leaf : Nat → Option (Nat × FpFlags)) (op : Nat → Nat → Nat × FpFlags) : Nat → Nat → Option (Nat × FpFlags)
  | 0, lo => leaf lo
  | k + 1, lo =>
    match redTree leaf op k lo, redTree leaf op k (lo + 2 ^ k) with
    | none, b => b
    | a, none => a
    | some a, some b => let r := op a.1 b.1; some (r.1, (a.2.or b.2).or r.2)

/-- Depth of the least power of two at or above `vl`. -/
def redDepth (vl : Nat) : Nat := if vl ≤ 1 then 0 else Nat.log2 (vl - 1) + 1

inductive RedOp where
  | sum | max | min
deriving DecidableEq, Repr

/-- Combines two nodes. -/
def redCombine (op : RedOp) (n : EType) (rm : Rm) (a b : Nat) : Nat × FpFlags :=
  match op with
  | .sum => if n = .i32 then ((a + b) % 2 ^ 32, noFlags) else elAdd n rm a b
  | .max => if n = .i32 then ((if natSigned 32 a < natSigned 32 b then b else a), noFlags) else fpMax (etFmt n) a b
  | .min => if n = .i32 then ((if natSigned 32 b < natSigned 32 a then b else a), noFlags) else fpMin (etFmt n) a b

/-- The result with no leaf. -/
def redEmpty (op : RedOp) (n : EType) : Nat :=
  match op with
  | .sum => 0
  | .max => if n = .i32 then 2 ^ 31 else (etFmt n).nanPat
  | .min => if n = .i32 then 2 ^ 31 - 1 else (etFmt n).nanPat

/-- A leaf in the node type. -/
def redLeaf (t : EType) (x : Nat) : Nat × FpFlags :=
  if t = .c64 then parts (fun a _ => cvtFF fmtF32 fmtF32 .rne false a) x x else cvtElem t (nodeType t) .rne false x

/-- A reduction: only the low bytes of the destination are written, whatever the guard. -/
def vReduce (op : RedOp) (d a : VReg) (p : PReg) : State → Out :=
  vGuarded p [a] noKeys (fun s => etF s.ety || etI s.ety || (s.ety == .c64 && op == .sum)) fun vs act s =>
    let t := s.ety
    let x := vs.getD 0 0
    let leaf (i : Nat) : Option (Nat × FpFlags) := if act.contains i then some (redLeaf t (elemAt (etBytes t) x i)) else none
    let r := (redTree leaf (redCombine op (nodeType t) s.me.src.rm) (redDepth s.vl) 0).getD (redEmpty op (nodeType t), noFlags)
    vWrite d (etBytes (nodeType t)) 10 (pick t x act) [(0, r)] s

/-- `VREDSUM`. -/
def execVredsum (d a : VReg) (p : PReg) : State → Out := vReduce .sum d a p
/-- `VREDMAX`. -/
def execVredmax (d a : VReg) (p : PReg) : State → Out := vReduce .max d a p
/-- `VREDMIN`. -/
def execVredmin (d a : VReg) (p : PReg) : State → Out := vReduce .min d a p

/-- Prefix sums of the elements, with the sum so far. -/
def scanFrom (add : Nat → Nat → Nat × FpFlags) : Nat → List (Nat × Nat) → List (Nat × Nat × FpFlags)
  | _, [] => []
  | y, (i, x) :: t => let r := add y x; (i, r) :: scanFrom add r.1 t

/-- `VSCAN` (03 R97). -/
def execVscan (d a : VReg) (p : PReg) : State → Out :=
  vGuarded p [a] noKeys (fun s => etF s.ety || etI s.ety || s.ety == .c64) fun vs act s =>
    let t := s.ety
    let x := vs.getD 0 0
    let add : Nat → Nat → Nat × FpFlags := if etI t then elInt iAdd t .rne else elAdd t s.me.src.rm
    vWrite d (etBytes t) 10 (pick t x act) (scanFrom add 0 (pick t x act)) s

/-! ### Permutations (07 R198, R199): patterns are copied, no flag -/

/-- Results without flags. -/
def plain (l : List (Nat × Nat)) : List (Nat × Nat × FpFlags) := l.map fun e => (e.1, e.2, noFlags)

/-- `VPERM`: an index at or beyond VL gives zero bits. -/
def execVperm (d a b : VReg) (p : PReg) : State → Out :=
  vGuarded p [a, b] noKeys (fun _ => true) fun vs act s =>
    let t := s.ety
    let w := etBytes t
    let x := vs.getD 0 0
    let from_ (i : Nat) : Nat := elemAt w (vs.getD 1 0) i % 256
    let res := act.map fun i => (i, if from_ i < s.vl then elemAt w x (from_ i) else 0)
    vWrite d w 1 (pick t x ((act.map from_).filter (· < s.vl))) (plain res) s

/-- `VSLIDE`. -/
def execVslide (d a : VReg) (n : BitVec 6) (p : PReg) : State → Out :=
  vGuarded p [a] noKeys (fun _ => true) fun vs act s =>
    let t := s.ety
    let w := etBytes t
    let x := vs.getD 0 0
    let from_ (i : Nat) : Option Nat :=
      let j := (i : Int) + n.toInt
      if 0 ≤ j ∧ j < s.vl then some j.toNat else none
    let res := act.map fun i => (i, match from_ i with | some j => elemAt w x j | none => 0)
    vWrite d w 1 (pick t x (act.filterMap from_)) (plain res) s

/-- `VBCAST`: the low bits of a scalar. -/
def execVbcast (d : VReg) (a : SReg) (p : PReg) : State → Out :=
  vGuarded p [] (fun _ => [kS a]) (fun _ => true) fun _ act s =>
    vWrite d (etBytes s.ety) 1 [] (plain (act.map fun i => (i, (s.rdSv a).toNat % 2 ^ etBits s.ety))) s

/-- `VCOMPRESS`: active elements to the front, the rest below VL zero. -/
def execVcompress (d a : VReg) (p : PReg) : State → Out :=
  vGuarded p [a] noKeys (fun _ => true) fun vs act s =>
    let t := s.ety
    let x := vs.getD 0 0
    let res := (List.range s.vl).map fun k => (k, match act[k]? with | some i => elemAt (etBytes t) x i | none => 0)
    vWrite d (etBytes t) 1 (pick t x act) (plain res) s

/-- Stable insertion by expert id. -/
def insertId (e : Nat × Nat) : List (Nat × Nat) → List (Nat × Nat)
  | [] => [e]
  | h :: t => if e.1 < h.1 then e :: h :: t else h :: insertId e t

/-- Adds to an expert's use counter, saturating at 2^48 - 1 (07 R199, 10 R270). -/
def State.countExpert (s : State) (e n : Nat) : State :=
  { s with experts := s.experts.upd e fun x => { x with use := BitVec.ofNat 48 (min (x.use.toNat + n) (2 ^ 48 - 1)) } }

/-- `VBUCKET` (07 R199): pairs (id, payload) in order of id, ids from 4,096 up behind them in order, then all ones. -/
def execVbucket (d a b : VReg) (p : PReg) : State → Out :=
  vGuarded p [a, b] noKeys (fun s => s.ety == .i16 || s.ety == .i32) fun vs act s => do
    let w := etBytes s.ety
    let es := act.map fun i => (elemAt w (vs.getD 0 0) i, elemAt w (vs.getD 1 0) i)
    let low := (es.filter fun e => e.1 < 4096).foldl (fun l e => insertId e l) []
    let all := low ++ es.filter fun e => !decide (e.1 < 4096)
    let res := (List.range s.vl).map fun k => (k, match all[k]? with | some e => e.2 | none => 2 ^ (8 * w) - 1)
    let s1 ← vWrite d w 10 [] (plain res) s
    .ok (low.foldl (fun s e => s.countExpert e.1 1) s1)

/-- `VMOVS` (07 R203): 0 at or beyond VL; nothing where the guard bit is clear. -/
def execVmovs (d : SReg) (a : VReg) (n : BitVec 6) (p : PReg) : State → Out :=
  vGuarded p [a] noKeys (fun _ => true) fun vs act s => do
    let t := s.ety
    let i := n.toNat
    if s.vl ≤ i then .ok (s.wrSv d 0)
    else if !act.contains i then .ok s
    else
      let x := elemAt (etBytes t) (vs.getD 0 0) i
      needSane t [(i, x)] s
      .ok (s.wrSv d (if etI t then BitVec.ofInt 64 (natSigned (etBits t) x) else BitVec.ofNat 64 x))

/-! ### Denoising arithmetic (07 R205) -/

def etStep (t : EType) : Bool := t == .f32 || t == .bf16 || t == .f16

/-- u + g c - g u, one rounding. -/
def elGuide (g : Nat) (t : EType) (rm : Rm) (u c : Nat) : Nat × FpFlags :=
  let f := etFmt t
  let gv := fmtF32.val g
  fpSum f rm [(f, u), (f, c), (fmtF32, g)] [some (f.val u), mulVal gv (f.val c), (mulVal gv (f.val u)).map negVal]

/-- a x + b e, one rounding. -/
def elStep (ca cb : Nat) (t : EType) (rm : Rm) (x e : Nat) : Nat × FpFlags :=
  let f := etFmt t
  fpSum f rm [(f, x), (f, e), (fmtF32, ca), (fmtF32, cb)] [mulVal (fmtF32.val ca) (f.val x), mulVal (fmtF32.val cb) (f.val e)]

/-- A loop register of the task's copy. -/
def State.lvNat (s : State) (n : Nat) : Nat := (s.me.src.lv.get n).toNat

/-- `VGUIDE`. -/
def execVguide (d a b : VReg) (p : PReg) : State → Out := fun s => vBin d a b p 3 etStep (elGuide (s.lvNat 4)) s
/-- `VSTEP`. -/
def execVstep (d a b : VReg) (p : PReg) : State → Out := fun s => vBin d a b p 3 etStep (elStep (s.lvNat 6) (s.lvNat 7)) s

/-- `VTEMB`: two roundings. -/
def execVtemb (d a : VReg) (p : PReg) : State → Out :=
  vGuarded p [a] noKeys (fun s => s.ety == .f32) fun vs act s =>
    let x := vs.getD 0 0
    let one (i : Nat) : Nat × FpFlags :=
      let m := fpMul fmtF32 .rne (s.lvNat 2) (elemAt 4 x i)
      let r := if i < s.vl / 2 then fpSinpi m.1 else fpCospi m.1
      (r.1, m.2.or r.2)
    vWrite d 4 8 (pick .f32 x act) (act.map fun i => (i, one i)) s

/-! ### Loop control (07 R206, R207) -/

/-- Register bases after a `VLOOP`, from those of the cycle `o`. -/
def rotate (o r : Regs) : Regs :=
  { r with rbv := BitVec.ofNat 6 ((o.rbv.toNat + 43) % 44), rbp := BitVec.ofNat 3 ((o.rbp.toNat + 7) % 8) }

/-- `VLOOP`: the loop stack holds the innermost loop last. -/
def execVloop (off : BitVec 12) (n : BitVec 10) : State → Out :=
  word .v [] fun s =>
    let pc := (s.lane .v).pc
    let t := pc + off.signExtend 32
    let st := s.me.vloop
    let put (l : List LoopRec) (s : State) : State := s.updMe fun c => { c with vloop := l, r := rotate c.src c.r }
    match st.findIdx? fun r => r.addr == pc with
    | some j =>
      let below := st.take j
      let rem := (match st[j]? with | some r => r.rem | none => 0) - 1
      if rem = 0 then .ok (put below s)
      else (jumpTo .v t s).map (put (below ++ [{ addr := pc, rem := rem }]))
    | none =>
      if n.toNat ≤ 1 then .ok (put st s)
      else if st.length = 4 then .error (.trap .vloopDepth (zextW pc))
      else (jumpTo .v t s).map (put (st ++ [{ addr := pc, rem := n.toNat - 1 }]))

/-- `VBR` over the bits below VL. -/
def execVbr (c : BrCond) (off : BitVec 12) (p : PReg) : State → Out :=
  wordK .v (fun s => [kShape, kP (s.pp p)]) fun s =>
    let n := (s.active p).length
    let take := match c with | .any => n != 0 | .none => n == 0 | .all => n == s.vl
    if take then jumpTo .v ((s.lane .v).pc + off.signExtend 32) s else .ok s

/-- `NOP` of the V lane. -/
def execVnop : State → Out := word .v [] fun s => .ok s

end Sys2Proof.Machine
end

