-- ==== Sys2Proof/Machine/Fabric.lean ====
section
/-! DEFINITION. The fabric: collectives, ports, remote requests without an answer, the time discipline (06 R169,
17 R375-R390). -/

namespace Sys2Proof.Machine

open Sys2Proof

/-- A fabric counter gains 1, saturating (17 R378): 0 DOWNGRADE, 1 AUTH_FAIL, 2 PARK_HOLD, 3 COLL_PEER, 4 FAB_TIMEOUT, 5 WB_FAIL,
6 HALO_FAIL. -/
def State.countFab (s : State) (i : Nat) : State := s.updPkg fun p => { p with fab := p.fab.upd i fun n => min (n + 1) (2 ^ 64 - 1) }

/-! ### Tile tables (17 R385, R386) -/

/-- An entry of a tile table: its 128 bytes. -/
structure TileEntry where
  bs : List Byte

def TileEntry.f (e : TileEntry) (o n : Nat) : Nat := fieldOf e.bs o n
def TileEntry.peers (e : TileEntry) : BitVec 512 := BitVec.ofNat 512 (e.f 0 64)
def TileEntry.src (e : TileEntry) : Word := BitVec.ofNat 64 (e.f 64 8)
def TileEntry.dst (e : TileEntry) : Word := BitVec.ofNat 64 (e.f 72 8)
def TileEntry.len (e : TileEntry) : Nat := e.f 80 4
def TileEntry.dpkg (e : TileEntry) : Nat := e.f 84 2 % 512
def TileEntry.op (e : TileEntry) : Nat := e.f 86 1 % 4
def TileEntry.bf16 (e : TileEntry) : Bool := natBit (e.f 86 1) 2
def TileEntry.insw (e : TileEntry) : Bool := natBit (e.f 86 1) 3
def TileEntry.ready (e : TileEntry) : Bool := natBit (e.f 87 1) 0
def TileEntry.dcore (e : TileEntry) : BitVec 16 := BitVec.ofNat 16 (e.f 88 2)
def TileEntry.dsig (e : TileEntry) : Nat := e.f 90 1 % 64

/-- Packages of a mask, ascending. -/
def packagesOf (m : BitVec 512) : List Nat := (List.range 512).filter fun i => m.getLsbD i

/-- The checks of 17 R386 for a table at `a` with a header, at package `pkg`; the header's zero bytes count as zero fields, and
PEERS and SRC are checked only where they are read (DEDUCED, log 22). -/
def TileEntry.ok (e : TileEntry) (a : Word) (hd : List Byte) (mask : BitVec 512) (pkg : Nat) : Bool :=
  a.toNat % 64 == 0 && decide (fieldOf hd 0 4 ≤ 65536) && (hd.drop 4).all (· == 0)
    && e.f 84 2 < 512 && e.f 86 1 < 16 && e.f 87 1 < 8 && bits e.dcore 11 4 == 0 && (e.bs.drop 91).all (· == 0)
    && e.len % 64 == 0 && decide (64 ≤ e.len) && decide (e.len ≤ 0x1000000) && e.dst.toNat % 64 == 0
    && (e.dpkg == pkg || e.src.toNat % 64 == 0) && mask.getLsbD e.dpkg
    && (e.op != 3 || e.dpkg != pkg || decide ((packagesOf e.peers).length ≤ 1)) && coreOk (bits e.dcore 0 11)

/-- Why a base die cannot access bytes of a virtual function: cause and address. -/
def collFault (s : State) (vf : Nat) (a : Word) (n : Nat) (wr : Bool) : Option (Cause × Word) :=
  match decodeAddr s 0 a n wr with
  | some (.global _) => match boxPieces s vf a n wr with | .ok _ => none | .error b => some (b.asFault a)
  | _ => some (.aperture, a)

/-- Global bytes of a virtual function at their home, read by a base die. -/
def collRead (s : State) (vf : Nat) (a : Word) (n : Nat) : Option (List Byte × State) :=
  if (collFault s vf a n false).isSome then none else match boxRead s vf a n with | .ok r => some r | .error _ => none

/-- Global bytes of a virtual function, written by a base die. -/
def collWrite (s : State) (vf : Nat) (a : Word) (bs : List Byte) : Option State :=
  if (collFault s vf a bs.length true).isSome then none else match boxWrite s vf a bs with | .ok t => some t | .error _ => none

/-- The place that a lane has found at a key: HBM, a cluster scratchpad, a register block (11 R286). -/
def State.atKey (s : State) (k : Nat) : BoxPlace :=
  if k < 0xFE00000000000 then .line k else match s.blockAt k with | some (b, o) => .block b o | none => .plain k

/-- Bits are set in the FLAGS of an entry at a key. -/
def State.setFlags (s : State) (k : Nat) (f : BitVec 8) : State :=
  let (bs, t) := (s.atKey k).read 1 s
  (s.atKey k).write [bs.getD 0 0 ||| f] t

/-- A fault record of a collective unit (19 R406), of the die of the core in focus or die 0. -/
def State.collRecord (s : State) (die core vf : Nat) (c : Cause) (a : Word) : State :=
  (s.postRecord die 4 c core vf 0xFF false a 0).2

/-! ### Reductions (17 R387-R389) -/

/-- One element of a chunk: `acc` combined with `x` (17 R388). -/
def collElem (op : Nat) (bf16 : Bool) (acc x : Nat) : Nat :=
  let t : EType := if bf16 then .bf16 else .f32
  match op with
  | 0 => (elAdd t .rne acc x).1
  | 1 => (redCombine .max t .rne acc x).1
  | 2 => (redCombine .min t .rne acc x).1
  | _ => x

/-- Bytes combined element by element. -/
def collBytes (op : Nat) (bf16 : Bool) : Nat → List Byte → List Byte → List Byte
  | 0, _, _ => []
  | n + 1, a, x =>
    let w := if bf16 then 2 else 4
    toBytes w (collElem op bf16 (leBytes (a.take w)) (leBytes (x.take w))) ++ collBytes op bf16 n (a.drop w) (x.drop w)

/-- The package whose arrival a slot needs next. -/
def CollSlot.next (c : CollSlot) : Option Nat := (packagesOf c.peers).find? fun p => !c.applied.contains p

def State.slotOf (s : State) (vf : Nat) (dst : Word) : Option CollSlot := s.pkg.collSlots.find? fun c => c.vf == vf && c.dst == dst

/-- The slot's last write has been performed: DONE, the slot is unposted, and the signal is added (17 R387). -/
def State.slotDone (s : State) (c : CollSlot) : State :=
  let s := (s.setFlags c.flags 2).updPkg fun p =>
    { p with collSlots := p.collSlots.filter fun x => !(x.vf == c.vf && x.dst == c.dst) }
  if c.dcore.getLsbD 15 then s.pendDone noCore (bits c.dcore 0 11) c.dsig c.len else s

/-- What becomes of an arrival. -/
inductive Fit where
  | apply (c : CollSlot)
  | park
  | discard
deriving DecidableEq, Repr

/-- Why the staging page of an arrival cannot take it now: it does not translate, is not resident, or may not be written. -/
def State.staging (s : State) (a : Parked) : Option (Cause × Word) :=
  match collFault s a.vf a.dst a.bytes.length false with
  | some x => some x
  | none => collFault s a.vf a.dst a.bytes.length true

def State.fits (s : State) (a : Parked) : Fit :=
  match s.slotOf a.vf a.dst with
  | none => .park
  | some c =>
    if !c.peers.getLsbD a.src then .discard
    else if c.next != some a.src || c.cur.isSome || (s.staging a).isSome then .park
    else .apply c

/-- Bytes of a chunk (17 R388). -/
def chunkBytes : Nat := 2048

def State.updSlot (s : State) (c : CollSlot) (f : CollSlot → CollSlot) : State :=
  s.updPkg fun p => { p with collSlots := p.collSlots.map fun x => if x.vf = c.vf ∧ x.dst = c.dst then f x else x }

/-- The next chunk of the arrival that a slot applies: combined with what stands at the home, and written there. -/
def State.chunkStep (s : State) (c : CollSlot) : State :=
  match c.cur with
  | none => s
  | some (a, i) =>
    let o := chunkBytes * i
    let n := min chunkBytes (c.len - o)
    let at_ := c.dst + BitVec.ofNat 64 o
    match collRead s c.vf at_ n with
    | none => s
    | some (old, s) =>
      match collWrite s c.vf at_ (collBytes c.op c.bf16 (n / (if c.bf16 then 2 else 4)) old ((a.bytes.drop o).take n)) with
      | none => s
      | some s =>
        if o + n < c.len then s.updSlot c fun x => { x with cur := some (a, i + 1) }
        else
          let c' := { c with applied := c.applied ++ [a.src], cur := none }
          let s := s.updSlot c fun _ => c'
          if c'.next.isNone then s.slotDone c' else s

/-- The rest of an arrival is applied; `fuel` bounds the chunks. -/
def chunksLeft : Nat → Nat → Word → State → State
  | 0, _, _, s => s
  | fuel + 1, vf, dst, s => match s.slotOf vf dst with
    | some c => if c.cur.isSome then chunksLeft fuel vf dst (s.chunkStep c) else s
    | none => s

/-- An arrival begins to be applied; in eager mode all of its chunks are. -/
def State.applyArrival (s : State) (c : CollSlot) (a : Parked) : State :=
  let s := s.updSlot c fun x => { x with cur := some (a, 0) }
  if s.eager then chunksLeft (c.len / chunkBytes + 1) c.vf c.dst s else s

/-- The staging page of an arrival is named in a fault record, once (17 R389). -/
def State.tellStaging (s : State) (a : Parked) : Parked × State :=
  if a.told then (a, s) else match s.staging a with
  | some (c, v) => ({ a with told := true }, s.collRecord 0 0x7FF a.vf c v)
  | none => (a, s)

/-- A discarded arrival is counted and reported (17 R389). -/
def State.discardArrival (s : State) (a : Parked) : State :=
  (s.countFab 3).collRecord 0 0x7FF a.vf .collEntry a.dst

/-- The parked arrival at a place is taken up again. -/
def State.unpark (s : State) (i : Nat) : State :=
  match s.pkg.parked[i]? with
  | none => s
  | some a =>
    let out : State := s.updPkg fun p => { p with parked := p.parked.eraseIdx i }
    match s.fits a with
    | .apply c => out.applyArrival c a
    | .discard => out.discardArrival a
    | .park => let (b, s) := s.tellStaging a; s.updPkg fun p => { p with parked := p.parked.set i b }

/-- Every parked arrival that can be applied is; `fuel` bounds them. -/
def unparkAll : Nat → State → State
  | 0, s => s
  | fuel + 1, s =>
    match (List.range s.pkg.parked.length).find? fun i => match s.pkg.parked[i]? with | some a => s.fits a != .park | none => false with
    | some i => unparkAll fuel (s.unpark i)
    | none => s

/-- In eager mode parked arrivals are taken up at once. -/
def State.parkSettle (s : State) : State := if s.eager then unparkAll s.pkg.parked.length s else s

/-- Stack of a destination (11 R287): of its physical address, or of the address itself while it does not translate. -/
def State.stackOf (s : State) (vf : Nat) (dst : Word) : Nat :=
  match boxPlace s vf dst 1 false with
  | .ok p => (p.key.getD 0) / 2 ^ 12 % 8
  | .error _ => dst.toNat / 2 ^ 12 % 8

/-- Bytes parked in a stack. -/
def State.parkedIn (s : State) (st : Nat) : Nat :=
  s.pkg.parked.foldl (fun n a => if s.stackOf a.vf a.dst = st then n + a.bytes.length else n) 0

/-- An arrival reaches the base die of its stack (17 R389). -/
def State.arrive (s : State) (a : Parked) : State :=
  match s.fits a with
  | .apply c => (s.applyArrival c a).parkSettle
  | .discard => s.discardArrival a
  | .park =>
    let (b, s) := s.tellStaging a
    if 0x400000 < s.parkedIn (s.stackOf a.vf a.dst) + a.bytes.length then s.countFab 2
    else s.updPkg fun p => { p with parked := p.parked ++ [b] }

/-- `COLL_ARRIVAL` (17 R389). -/
def execCollArrival : State → Out := event fun s =>
  s.arrive { vf := s.arg.n, src := s.arg.m, dst := bits s.arg.value 0 64, bytes := s.arg.bytes }

/-- `PARKED_ARRIVAL_APPLY` (17 R388, R389): a parked arrival is taken up, or the next chunk is applied of the arrival of a slot. -/
def execParkedArrivalApply : State → Out := event fun s =>
  if s.arg.flag then match s.pkg.collSlots[s.arg.n]? with | some c => s.chunkStep c | none => s
  else s.unpark s.arg.n

/-- A contribution has been read at its home and sent; DONE is set (17 R387). One whose source cannot be read stays (log 22). -/
def State.sendDone (s : State) (i : Nat) : State :=
  match s.pkg.collSends[i]? with
  | none => s
  | some c => match collRead s c.vf c.src c.len with
    | none => s
    | some (_, s) => (s.setFlags c.flags 2).updPkg fun p => { p with collSends := p.collSends.eraseIdx i }

/-- `COLL_SEND_DONE` (17 R387). -/
def execCollSendDone : State → Out := event fun s => s.sendDone s.arg.n

/-- An entry whose ready flag has been set fires, or has ERR set (17 R386, R387, R390). -/
def State.fire (s : State) (vf core flags : Nat) (table entry : Word) (hd : List Byte) (e : TileEntry) : State :=
  let pkg := s.pkg.pkgid.toNat
  if !e.ok table hd (s.pkg.masks.get vf) pkg then
    (s.setFlags flags 4).collRecord (dieOf (BitVec.ofNat 11 core)) core vf .collEntry entry
  else
    let s := if e.insw && (e.op == 1 || e.op == 2) && s.pkg.enc.get vf then s.countFab 0 else s
    if e.dpkg != pkg then
      let s := s.updPkg fun p => { p with collSends := p.collSends ++ [{ vf := vf, flags := flags, src := e.src, len := e.len }] }
      if s.eager then s.sendDone (s.pkg.collSends.length - 1) else s
    else
      let c : CollSlot := { vf := vf, dst := e.dst, flags := flags, peers := e.peers, applied := [], len := e.len, op := e.op,
                            bf16 := e.bf16, dcore := e.dcore, dsig := e.dsig }
      let s := s.updPkg fun p => { p with collSlots := p.collSlots ++ [c] }
      if c.next.isNone then s.slotDone c else s.parkSettle

/-- The keys of `n` words of 8 bytes that S-lane reads reach; a word outside global memory fails as its read does. -/
def readWords (a : Word) (n : Nat) (s : State) : Except Halt (List Byte × List Nat × State) :=
  (List.range n).foldlM (fun (r : List Byte × List Nat × State) i => do
    let x := a + BitVec.ofNat 64 (8 * i)
    check (match decodeAddr r.2.2 r.2.2.focus x 8 false with | some (.global _) => true | _ => false) .aperture x
    let (loc, t) ← locate r.2.2.lanes x 8 false true false r.2.2
    let (b, t) ← readNow .s x 8 true t
    .ok (r.1 ++ b, r.2.1 ++ [loc.key], t)) ([], [], s)

/-- The bytes at keys as they stand at the home, where the base die checks an entry (17 R386); lost words read as zero (19 R418). -/
def State.homeWords (s : State) (ks : List Nat) : List Byte × State :=
  ks.foldl (fun (r : List Byte × State) k =>
    let (bs, t) := (s.atKey k).read 8 r.2
    (r.1 ++ replaced k bs (List.replicate 8 0) (t.badWords k 8), t)) ([], s)

/-- `COLLRDY` (06 R169, 17 R386): the ready flag is the one at the home. -/
def execCollrdy (a b : SReg) : State → Out :=
  word .s [kS a, kS b] fun s => do
    let va := s.rdS a
    check (match decodeAddr s s.focus va 1 false with | some (.global _) => true | _ => false) .collTable va
    let s1 ← release .s .package false s
    let (hd, _, s2) ← readWords va 8 s1
    let t := (s.rdS b).toNat
    check (decide (t < fieldOf hd 0 4)) .collTable va
    let entry := va + BitVec.ofNat 64 (64 + 128 * t)
    let (_, ks, s3) ← readWords entry 16 s2
    let (bs, s3) := s3.homeWords ks
    let e : TileEntry := { bs := bs }
    let (lat, s4) := s3.openLat
    let s4 := s4.delay .s lat
    let flags := ks.getD 10 0 + 7
    if e.ready then .ok s4
    else .ok ((s4.setFlags flags 1).fire s4.me.ctl.vfid s4.focus.toNat flags va entry hd e)

/-! ### What other packages do (17 R380, R390, R392) -/

/-- A write from another package is performed at the home of its line: within one granule of this package's HBM. -/
def State.farWrite (s : State) (pa : Nat) (bs : List Byte) : State :=
  if pa % 32 + bs.length ≤ 32 ∧ pa + bs.length ≤ hbmSize then s.homePut pa bs else s

/-- A Crossover transfer from another package has completed (17 R392). -/
def State.farHalo (s : State) (c : CoreId) (sg n : Nat) : State := if coreOk c then s.pendDone noCore c (sg % 64) n else s

/-- A remote access of an item of a core's X engine has no answer: it fails (17 R379, R380). -/
def State.engineTimeout (s : State) (c : CoreId) (id : Nat) : State :=
  let old := s.focus
  let s0 := { s with focus := c }
  match s0.me.xfers.find? fun t => t.id == id with
  | none => s
  | some t =>
    match t.left with
    | [] => s
    | u :: _ =>
      let p := t.part u
      let req : Option Req := match p.out with
        | none => match t.reqs u p with | .ok rs => rs[p.reads]? | .error _ => none
        | some bs => (t.writes u bs.length s0)[p.writes]?
      match req with
      | none => s
      | some r => match locate (s0.xWho t.sys) r.a r.n p.out.isSome false false s0 with
        | .ok (loc, _) =>
          if t.st == .active && loc.global && !keyLocal loc.key then
            { (s0.countFab 4).failXfer t { cause := .fabricErr, addr := r.a, desc := r.desc } true with focus := old }
          else s
        | .error _ => s

/-! ### Ports (17 R376, R377) -/

/-- A flit is replayed: after eight failures of one flit in a row the port retrains. -/
def Port.replayed (p : Port) (other : Bool) : Port :=
  if p.st.toNat < 2 then p else
  let n := if other then 1 else p.fails + 1
  { p with replay := BitVec.ofNat 32 (min (p.replay.toNat + 1) 0xFFFFFFFF), fails := n, st := if 8 ≤ n then 1 else p.st }

/-- Training ends with a number of good lanes; it fails with fewer than two, and where EN no longer lets the port train (17 R377). -/
def Port.trained (p : Port) (lanes : Nat) : Port :=
  if p.st = 1 ∨ (p.st = 0 ∧ p.en) then
    if p.en ∧ 4 ≤ lanes then { p with st := 2, fails := 0 }
    else if p.en ∧ 2 ≤ lanes then { p with st := 3, fails := 0 }
    else { p with st := 0, fails := 0, downs := if p.st = 1 then BitVec.ofNat 16 (min (p.downs.toNat + 1) 0xFFFF) else p.downs }
  else p

def State.updPort (s : State) (i : Nat) (f : Port → Port) : State := s.updPkg fun p => { p with ports := p.ports.upd i f }

/-- `FLIT_REPLAY` (17 R376). -/
def execFlitReplay : State → Out := event fun s => s.updPort (s.arg.n % 24) fun p => p.replayed s.arg.flag
/-- `PORT_RETRAIN` (17 R376). -/
def execPortRetrain : State → Out := event fun s => s.updPort (s.arg.n % 24) fun p => p.trained s.arg.m
/-- `CLEAR` of a port (17 R377). -/
def execPortClear : State → Out := event fun s => s.updPort (s.arg.n % 24) Port.clear
/-- `CLEAR` of the fabric counters (17 R378). -/
def execFabricCountersClear : State → Out := event State.clearFabric

/-! ### Remote requests (17 R380) -/

/-- The dirty bytes of a remote line are lost on their way to its home: the copy leaves the core (DEDUCED, log 22). -/
def State.loseWriteBack (s : State) (c : CoreId) (n : Nat) : State :=
  let s := { s with owner := if s.owner.get n = some c.toNat then s.owner.set n none else s.owner }
  (s.setL1 c n none).updCore c fun x => { x.unqueue n with wbFail := some n }

/-- A core's remote request of a line, or its write-back, has failed: `why` is the counter (17 R380). -/
def State.remoteLost (s : State) (c : CoreId) (n why : Nat) (writeBack : Bool) : State :=
  if lineLocal n then s else
  let s1 := s.countFab why
  if writeBack then
    match s.l1 c n with
    | some l => if isDirty l.dirty then (s1.countFab 5).loseWriteBack c n else s
    | none => s
  else s1.updCore c fun x => { x with remoteFail := n :: x.remoteFail.filter (· != n) }

/-- `REMOTE_TIMEOUT` (17 R380). -/
def execRemoteTimeout : State → Out := event fun s => s.remoteLost s.focus s.arg.n 4 s.arg.flag

/-- An answer on an encrypted flow fails authentication: as a timeout, counted in AUTH_FAIL (17 R380). -/
def State.authFail (s : State) (c : CoreId) (n : Nat) (writeBack : Bool) : State :=
  if s.pkg.enc.get (s.core c).ctl.vfid then s.remoteLost c n 1 writeBack else s

/-! ### Time (17 R382-R384) -/

/-- The discipline's time base is moved to now, with the rate so far. -/
def Package.rebaseTime (p : Package) : Package :=
  let x := (p.ticks - p.ptTick) * 5 * (1000000000 + p.ratePpb).toNat + p.ptFrac
  { p with ptBase := p.ptBase + x / 26000000000, ptFrac := x % 26000000000, ptTick := p.ticks }

/-- The own package wins the best master clock algorithm against the best that others announce: the lower priority1, then priority2,
then package id (log 58). -/
def Package.winsClock (p : Package) (m : PtpMessage) : Bool :=
  let mine : Nat × Nat := match p.img with | some i => (i.prio1.toNat, i.prio2.toNat) | none => (255, 255)
  decide (mine.1 * 2 ^ 17 + mine.2 * 2 ^ 9 + p.pkgid.toNat < m.prio1.toNat * 2 ^ 17 + m.prio2.toNat * 2 ^ 9 + m.master.toNat)

/-- The rate of the discipline: at most 50 ppm either way; a package that has locked and is ahead of its parent slews back at the
maximum rate. -/
def Package.rateFor (p : Package) (m : PtpMessage) : Int :=
  if p.firstLock && decide (0 < m.offs.toInt) then -50000 else max (-50000) (min 50000 m.ratePpb)

/-- A PTP message: the grandmaster runs free; another package takes its rate, and moves `PTIME` forward once, at its first lock. -/
def Package.ptp (p : Package) (m : PtpMessage) : Package :=
  let p := p.rebaseTime
  if p.winsClock m then { p with ratePpb := 0, hops := 0, gm := true, lock := true }
  else
    { p with ratePpb := p.rateFor m, ptBase := if m.lock && !p.firstLock then p.ptBase + m.step else p.ptBase,
             firstLock := p.firstLock || m.lock, offs := m.offs, hops := if m.hops.toNat ≤ 16 then m.hops else 16, gm := false,
             lock := m.lock && decide (m.hops.toNat ≤ 16) }

/-- `PTP_MESSAGE` (17 R382). -/
def execPtpMessage : State → Out := event fun s => s.updPkg fun p => p.ptp s.arg.ptp

end Sys2Proof.Machine
end

