-- ==== Sys2Proof/Machine/System.lean ====
section
/-! DEFINITION. S lane: the reuse cache, loop registers, power, traps and system registers, launches, descriptors
(06 R170-R183, 15 R364-R369). -/

namespace Sys2Proof.Machine

open Sys2Proof

/-- System level, else PRIVILEGE with the word (02 R67). -/
def needSystem (s : State) (i : Instr) : Except Halt Unit := check s.me.ctl.pl .privilege (thisWord s .s i)

/-! ### The reuse cache (06 R170-R172, 15 R364-R369) -/

/-- Set of a tag (15 R364). -/
def tagSet (t : BitVec 44) : Nat :=
  let tile : BitVec 20 := t.extractLsb' 0 20
  let task : BitVec 16 := t.extractLsb' 20 16
  let graph : BitVec 8 := t.extractLsb' 36 8
  (tile.setWidth 11 ^^^ (tile >>> 11).setWidth 11 <<< 2 ^^^ task.setWidth 11 ^^^ (task >>> 11).setWidth 11 <<< 6
    ^^^ graph.setWidth 11 <<< 3 : BitVec 11).toNat

/-- Index of the valid entry that holds a tag. -/
def Die.lookup (d : Die) (t : BitVec 44) : Option Nat :=
  ((List.range 16).map fun w => 16 * tagSet t + w).find? fun i => (d.tags.get i).valid && (d.tags.get i).tag == t

/-- Adds 1 to a reuse counter of 48 bits (15 R368): 0 SKIP, 1 MISS, 2 STALE, 3 CHAIN, 4 DELTA, 5 TAG_UE. -/
def Die.bump (d : Die) (i : Nat) : Die := { d with counters := d.counters.upd i fun n => (n + 1) % 2 ^ 48 }

/-- a < b by value; false when either is a NaN (06 R171). -/
def f32Less (a b : Nat) : Bool := !fmtF32.isNan a && !fmtF32.isNan b && cmpVal (fmtF32.val a) (fmtF32.val b) == -1

inductive ProbeResult where
  | compute (reason : Nat)
  | skip (index : Nat)
  | candidate (index : Nat)
deriving DecidableEq, Repr

/-- The decision of `RPROBE` (06 R171); `delta` is none for a lookup alone. -/
def probe (d : Die) (t : Task) (k : Word) (lv5 : BitVec 32) (tag : BitVec 44) (delta : Option (BitVec 32)) : ProbeResult :=
  match d.lookup tag with
  | none => .compute 1
  | some i =>
    let e := d.tags.get i
    if (t.maxage : Int) < (bits k 0 32 - e.s0).toInt then .compute 2
    else if t.maxchain ≤ e.chain.toNat then .compute 3
    else match delta with
      | none => .candidate i
      | some x => if f32Less x.toNat (if t.thsrc then lv5 else t.theta).toNat then .skip i else .compute 4

def ProbeResult.word : ProbeResult → Word
  | .compute r => BitVec.ofNat 64 (r * 4)
  | .skip i => BitVec.ofNat 64 (1 + i * 32)
  | .candidate i => BitVec.ofNat 64 (2 + i * 32)

def State.myDie (s : State) : Die := s.die (dieOf s.focus)
def State.updMyDie (s : State) (f : Die → Die) : State := s.updDie (dieOf s.focus) f

/-- `RPROBE` (06 R171, 15 R366): its latency is not stated (log 4). -/
def execRprobe (d a b : SReg) : State → Out :=
  word .s [kS a, kS b] fun s =>
    let tag : BitVec 44 := bits (s.rdS a) 0 44
    let r := probe s.myDie s.me.task (zextW (s.me.src.lv.get 0)) (s.me.src.lv.get 5) tag (if b = 0 then none else some (bits (s.rdS b) 0 32))
    let pin (i : Nat) (s : State) : State := acquire .package (s.updMe fun c => { c with pin := some i })
    let s1 := match r with
      | .compute n => s.updMyDie fun x => x.bump n
      | .candidate i => pin i s
      | .skip i =>
        let older (e : TagEntry) : TagEntry := { e with chain := if e.chain = 15 then 15 else e.chain + 1 }
        pin i (s.updMyDie fun x => { x.bump 0 with tags := x.tags.upd i older })
    let (lat, s2) := s1.openLat
    .ok (s2.wrS d r.word lat)

/-- An entry is pinned by another core of the die (15 R366). -/
def State.pinned (s : State) (i : Nat) : Bool :=
  s.cores.rows.any fun r => r.1 != s.focus.toNat && dieOf (BitVec.ofNat 11 r.1) == dieOf s.focus && r.2.pin == some i

/-- The permitted way with the oldest production stamp among the candidates. -/
def oldest (d : Die) : List Nat → Option Nat
  | [] => none
  | i :: t => match oldest d t with
    | none => some i
    | some j => if (d.tags.get i).stamp ≤ (d.tags.get j).stamp then some i else some j

/-- The entry an install takes (15 R365), or none while it must wait. -/
def State.chooseWay (s : State) (tag : BitVec 44) : Option Nat :=
  match s.myDie.lookup tag with
  | some i => if s.pinned i then none else some i
  | none =>
    let ways := (List.range s.me.task.rways).map fun w => 16 * tagSet tag + s.me.task.wbase + w
    match ways.find? fun i => !(s.myDie.tags.get i).valid && !s.pinned i with
    | some i => some i
    | none => oldest s.myDie (ways.filter fun i => !s.pinned i)

/-- Generic address of an entry's data (15 R365). -/
def dataAddr (t : Task) (i : Nat) : Word :=
  t.rdata + BitVec.ofInt 64 ((((i / 16) * t.rways + i % 16 : Nat) - (t.wbase : Int)) * ((t.rout + t.rin : Nat) : Int))

/-- The release and the wait of `RPUT` (15 R366): the pin is released as the way is chosen (log 52). -/
def State.rputWay (s : State) (tag : BitVec 44) : Except Halt (Nat × State) := do
  let s ← if s.prog .s = .choosing then .ok s else release .s .package false s
  match s.chooseWay tag with
  | none => .error (.wait (s.setProg .s .choosing))
  | some i => .ok (i, s.updMe fun c => { c with pin := none })

/-- `RPUT` (06 R172): every byte is checked as an X-engine read and write before any is written. -/
def execRput (a b : SReg) : State → Out :=
  word .s [kS a, kS b] fun s => do
    let tag : BitVec 44 := bits (s.rdS a) 0 44
    let (i, s1) ← s.rputWay tag
    let t := s1.me.task
    let n := t.rout + t.rin
    let (bs, s2) ← engineReadRun s1.engine (s.rdS b) n s1
    let s3 ← engineCheckRun s2.engine (dataAddr t i) n true s2
    let s4 ← engineWriteRun s3.engine (dataAddr t i) bs s3
    let (lat, s5) := s4.openLat
    let put (d : Die) : Die :=
      { d with stampCtr := d.stampCtr + 1
               tags := d.tags.set i { valid := true, tag := tag, s0 := s.me.src.lv.get 0, chain := 0, stamp := d.stampCtr } }
    .ok ((s5.updMyDie put).delay .s lat)

/-- `RDROP` (06 R172). -/
def execRdrop (a : SReg) : State → Out :=
  word .s [kS a] fun s =>
    let s1 := s.updMe fun c => { c with pin := none }
    .ok (match s.myDie.lookup (bits (s.rdS a) 0 44) with
      | some i =>
        let off (e : TagEntry) : TagEntry := { e with valid := false }
        s1.updMyDie fun d => { d with tags := d.tags.upd i off }
      | none => s1)

/-! ### Loop registers, manifest selection (06 R173, R174) -/

/-- `LVREAD`. -/
def execLvread (d : SReg) (n : BitVec 4) : State → Out :=
  word .s [] fun s => .ok (s.wrS d (zextW (s.me.src.lv.get n.toNat)) 1)

/-- `LVWRITE`, at system level. -/
def execLvwrite (n : BitVec 4) (a : SReg) : State → Out :=
  word .s [kS a] fun s => do
    needSystem s (.lvwrite n a)
    .ok (s.updR fun r => { r with lv := r.lv.set n.toNat (bits (s.rdS a) 0 32) })

/-- `MFSEL`. -/
def execMfsel (src : MfSrc) (base : BitVec 4) : State → Out :=
  word .s [] fun s => .ok (s.updR fun r => { r with mfsrc := BitVec.ofNat 2 src.code, mfbase := base })

/-! ### Power (06 R175-R177) -/

/-- `ACQP` (06 R175, 21 R430, R431). -/
def execAcqp (n : BitVec 16) : State → Out :=
  word .s [] fun s =>
    if n = 0 then .ok s else
    match s.prog .s with
    | .granted _ => .ok s
    | .acqp => .error (.wait s)
    | _ =>
      let want := s.me.ctl.pwrdecl + n.toNat
      if 1024 < want ∨ s.myCluster.share.toNat < want then .error (.trap .powerOverdraw (zextW n))
      else .error (.wait ((s.updMyCluster fun k => { k with pend := k.pend ++ [(s.focus.toNat, n.toNat)] }).setProg .s .acqp))

/-- `RELP` (06 R175). -/
def execRelp (n : BitVec 16) : State → Out :=
  word .s [] fun s => .ok (s.updCtl fun c => { c with pwrdecl := c.pwrdecl - min n.toNat c.pwrdecl })

/-- Puts a divisor into effect (02 R66). -/
def Clock.setDiv (c : Clock) (e : Engine) (d : Nat) : Clock :=
  match e with | .ctl => { c with ctl := d } | .mat => { c with mat := d } | .vec => { c with vec := d } | .copy => { c with copy := d }

/-- The ramp of a divisor, of `n` ticks from tick `t`, at most the 104,000 of 20 µs (06 R176). -/
def Clock.startRamp (c : Clock) (k t n : Nat) (e : Engine) (d : Nat) : Clock :=
  { c.rebase k t with ramp := some (t + min n 104000), rampAt := c.pulsesAt k t, target := some (e, d) }

/-- `SETDIV` (06 R176): its ramp starts, or its request is held while another runs. -/
def execSetdiv (e : Engine) (dv : BitVec 7) : State → Out :=
  word .s [] fun s => do
    check (decide (4 ≤ dv.toNat) && decide (dv.toNat ≤ 64)) .divIllegal (zextW dv)
    match s.prog .s with
    | .ramped => .ok s
    | .setdiv _ => .error (.wait s)
    | _ =>
      if s.ramping then
        let me := s.focus.toNat
        .error (.wait ((s.updMyCluster fun k => { k with clk := { k.clk with held := k.clk.held ++ [(me, e, dv.toNat)] } }).setProg .s (.setdiv false)))
      else
        let (n, s1) := s.openLat
        .error (.wait ((s1.updMyCluster fun k => { k with clk := k.clk.startRamp s.pkg.k s.pkg.ticks (n + 1) e dv.toNat }).setProg .s
          (.setdiv true)))

/-- `WAKE` of the matrix engine (06 R177): no architectural effect. -/
def execWake : State → Out := word .s [] fun s => .ok (s.wakeEngine s.focus)

/-! ### Traps (06 R179) -/

/-- `TRAP`: TRAP_SW, with the lane's EPC at the word after it. -/
def execTrap (n : BitVec 16) : State → Out :=
  word .s [] fun s => .error (.trapIn .trapSw (zextW n) (s.updLane .s fun x => { x with pc := x.pc + 1 }))

/-- `ERET`: PL = PPL and every lane goes on at its EPC, elastic. -/
def execEret : State → Out := fun s =>
  answer .s s (mayIssue .s [] s >>= fun _ => needSystem s .eret >>= fun _ =>
    let now := s.now
    .ok (s.updMe fun c => c.returnFromTrap now))

/-! ### System registers (06 R180) -/

/-- `SYSR` (06 R180); `VSHAPE` as a `VSETSHAPE` makes it (07 R210). -/
def execSysr (d : SReg) (n : BitVec 11) : State → Out :=
  word .s (if n = 0x00A then [kShape] else []) fun s =>
    match sysRead s n.toNat with
    | none => .error (.trap .illegalFn (thisWord s .s (.sysr d n)))
    | some v => .ok (s.wrS d v 1)

/-- `SYSW` (06 R180, 02 R61, R67). -/
def execSysw (n : BitVec 11) (a : SReg) : State → Out :=
  word .s [kS a] fun s =>
    let w := thisWord s .s (.sysw n a)
    match sysRead s n.toNat with
    | none => .error (.trap .illegalFn w)
    | some _ =>
      if !s.me.ctl.pl && !taskWrites n.toNat then .error (.trap .privilege w)
      else match sysWrite s n.toNat (s.rdS a) with
        | .ok t => .ok t
        | .error .shapeIllegal => .error (.trap .shapeIllegal (vshape s.me.src))
        | .error c => .error (.trap c w)

/-! ### The L2 (06 R181, 11 R283, R284) -/

/-- Physical address of byte `o` of a cluster's scratchpad. -/
def clusterSpad (ci o : Nat) : Nat := 0xFE00000000000 + ci * 0x200000 + o

/-- `L2CONV` (06 R181): `back` returns scratchpad ways to the cache. -/
def execL2conv (back : Bool) (ways : BitVec 5) : State → Out :=
  word .s [] fun s => do
    needSystem s (.l2conv back ways)
    let ci := clusterOf s.focus
    let c := (s.cluster ci).conv
    let n := ways.toNat
    check (decide (n ≤ if back then c else 15 - c)) .l2convRange (zextW ways)
    if n = 0 then .ok s
    else
      let s1 := if back then s.updCluster ci fun k => { k with conv := c - n }
        else
          let ways := (List.range n).map fun i => 15 - c - i
          let s1 := (s.cleanL2 ci ways).updCluster ci fun k => { k with conv := c + n, gated := k.gated.filter fun w => !ways.contains w }
          s1.zero (clusterSpad ci (c * 0x20000)) (n * 0x20000)
      let (lat, s2) := s1.openLat
      .ok (s2.delay .s lat)

/-! ### Launches (06 R182) -/

/-- The launch record that an `EVENT` posts, as it copies it (06 R182). -/
def eventRecord (va : Word) (s : State) : Except Halt (Launch × State) := do
  check (match decodeAddr s s.focus va 32 false with | some (.global _) => true | _ => false) .aperture va
  check (va.toNat % 8 == 0) .misalign va
  let s1 ← release .s .package false s
  let (bs, s2) ← (List.range 4).foldlM (fun (r : List Byte × State) i => do
    let (b, t) ← readNow .s (va + BitVec.ofNat 64 (8 * i)) 8 true r.2
    .ok (r.1 ++ b, t)) ([], s1)
  .ok (BitVec.ofNat 256 (leBytes bs), s2)

/-- `EVENT`: the 32-byte record at a global address goes to the own die's launch queue of the virtual function; while that is full
the word waits with its copy. -/
def execEvent (a : SReg) : State → Out :=
  word .s [kS a] fun s => do
    let (r, s2) ← match s.prog .s with
      | .posting r => .ok (r, s)
      | _ => eventRecord (s.rdS a) s
    let q := s2.myDie.lq.get s2.me.ctl.vfid
    if q.length < 64 then .ok (s2.updMyDie fun d => { d with lq := d.lq.set s2.me.ctl.vfid (q ++ [r]) })
    else .error (.wait (s2.setProg .s (.posting r)))

/-! ### Descriptors (06 R183) -/

/-- A descriptor write by the S lane; words of other lanes of the cycle do not change it afterwards. -/
def State.setXd (s : State) (x : XdReg) (d : Desc) : State :=
  s.updMe fun c => { c with r := { c.r with xd := c.r.xd.set x.toNat d }, xdWrote := if c.latch.isSome then x.toNat :: c.xdWrote else c.xdWrote }

/-- `XDSET`: a contiguous walk of 32 n bytes. -/
def execXdset (x : XdReg) (a : SReg) (n : BitVec 11) : State → Out :=
  word .s [kS a] fun s => .ok (s.setXd x { base := s.rdS a, len := BitVec.ofNat 32 (32 * n.toNat) })
/-- `XDSET.d1`. -/
def execXdsetD1 (x : XdReg) (a b : SReg) : State → Out :=
  word .s [kS a, kS b] fun s => .ok (s.setXd x { s.rdXd x with cnt1 := bits (s.rdS a) 0 16, str1 := bits (s.rdS b) 0 32, cur := 0 })
/-- `XDSET.d2`. -/
def execXdsetD2 (x : XdReg) (a b : SReg) : State → Out :=
  word .s [kS a, kS b] fun s => .ok (s.setXd x { s.rdXd x with cnt2 := bits (s.rdS a) 0 16, str2 := bits (s.rdS b) 0 32, cur := 0 })
/-- `XDSET.win`. -/
def execXdsetWin (x : XdReg) (a _b : SReg) : State → Out :=
  word .s [kS a] fun s => .ok (s.setXd x { s.rdXd x with win := bits (s.rdS a) 0 32, cur := 0 })
/-- `XDSET.len`. -/
def execXdsetLen (x : XdReg) (a _b : SReg) : State → Out :=
  word .s [kS a] fun s => .ok (s.setXd x { s.rdXd x with len := bits (s.rdS a) 0 32, cur := 0 })

end Sys2Proof.Machine
end

