-- ==== Sys2Proof/Machine/Moves.lean ====
section
/-! DEFINITION. The moves of the ordering machine as events (13 R313), invalidation of translations (11 R304), L2 ways, and
errors of the memories (11 R278, R285, R289-R291, 15 R370, 19 R418-R420). -/

namespace Sys2Proof.Machine

open Sys2Proof

/-! ### Moves of a core (13 R313) -/

/-- `READ`. -/
def execEvRead : State → Out := event fun s => s.readMove s.arg.lane
/-- `WRITE`. -/
def execEvWrite : State → Out := event fun s => s.writeMove s.arg.lane

/-- An access in the core's queues goes through the L1 to a line. -/
def Core.needsLine (c : Core) (n : Nat) : Bool :=
  lanesAll.any fun l => (c.lq.get (laneIdx l)).any fun a => a.place == .cached && a.key / 128 == n

/-- `FETCH`: a line that an access of the core waits for. -/
def execEvFetch : State → Out := event fun s =>
  if s.me.needsLine s.arg.n && decide (s.me.ways != 0) then (s.fetch s.focus s.arg.n).2 else s

/-- `EVICT`. -/
def execEvEvict : State → Out := event fun s =>
  match s.l1 s.focus s.arg.n with
  | some l => if l.ex then s else s.evict s.focus s.arg.n
  | none => s

/-- `DRAIN`. -/
def execEvDrain : State → Out := event fun s =>
  match s.me.fifo with
  | .line n :: _ => s.drainLine s.focus n
  | _ => s

/-- `WB`. -/
def execEvWb : State → Out := event fun s => s.writeBack s.arg.n s.arg.m

/-- Every line drained before a marker has reached where its scope asks (13 R312). -/
def State.reachedBy (s : State) (c : CoreId) (sc : Scope) : Bool :=
  match sc with
  | .core | .cluster => true
  | .package | .domain => (s.core c).drained.all fun n => match s.l2 (clusterOf c) n with | some l => !isDirty l.dirty | none => true

/-- `MARK`. -/
def execEvMark : State → Out := event fun s =>
  match s.me.fifo with
  | .mark id sc :: t =>
    if s.reachedBy s.focus sc then
      s.updMe fun c => { c with fifo := t, marked := id :: c.marked, drained := if sc matches .package | .domain then [] else c.drained }
    else s
  | _ => s

/-- `EXCL`: the line that an `ATOM` or `CAS` of the core waits to own. -/
def execEvExcl : State → Out := event fun s =>
  match s.prog .s with
  | .owning (some n) _ => if n = s.arg.n ∧ s.me.ways ≠ 0 then s.excl s.focus n else s
  | _ => s

/-- `FAR` (13 R313, R320): the core's `FATOM` is performed at the home; a race raises MM_RACE at its word. -/
def execEvFar : State → Out := event fun s =>
  match s.me.far with
  | none => s
  | some r => match farDone r s with
    | .ok (old, t) => (t.updMe fun c => { c with far := none }).setProg .s (.result (BitVec.ofNat 64 old))
    | .error (.trap c v) => s.takeTrap .s c v
    | .error (.trapIn c v t) => t.takeTrap .s c v
    | .error _ => s

/-- `VERT`. -/
def execEvVert : State → Out := event fun s =>
  match s.me.vpath with
  | [] => s
  | w :: t => (s.poke w.1 w.2.1).updMe fun c => { c with vpath := t }

/-- `HORZ`. -/
def execEvHorz : State → Out := event fun s =>
  let t := s.arg.core2.toNat
  match s.me.hpath.get t with
  | [] => s
  | w :: r => (s.poke w.1 w.2).updMe fun c => { c with hpath := c.hpath.set t r }

/-- `SIG` (06 R157): the oldest addition, with those that arrived on its cycle. -/
def execEvSig : State → Out := event fun s => s.updMe fun c => c.applySig s.arg.n

/-! ### Translations (11 R304) -/

/-- The TLBs drop the entries of a virtual function that meet [lo, hi]. -/
def dropEntries (vf lo hi : Nat) (l : List TlbEntry) : List TlbEntry :=
  l.filter fun e => !(e.vf == vf && decide (e.va ≤ hi) && decide (lo < e.va + e.size))

def State.dropTlb (s : State) (vf lo hi : Nat) : State :=
  { s with cores := s.cores.all fun c => { c with tlb := dropEntries vf lo hi c.tlb },
           clusters := s.clusters.all fun k => { k with tlb := dropEntries vf lo hi k.tlb } }

/-- The accesses of the virtual function's cores have been performed: none is left in a queue, and no `FATOM` waits for its home. -/
def State.vfQuiet (s : State) (vf : Nat) : Bool := s.cores.rows.all fun r => r.2.ctl.vfid != vf || (r.2.queuesEmpty && r.2.far.isNone)

/-- A root takes effect (11 R299). -/
def Vf.adopt (f : Vf) (r : Option (BitVec 40 × Bool)) : Vf :=
  match r with
  | none => f
  | some (a, e) => { f with root := a, en := e, rootNext := if f.rootNext = r then none else f.rootNext }

/-- The oldest invalidation completes; a root written before it was posted takes effect (11 R299; log 61). -/
def State.invalidateNext (s : State) : State :=
  match s.pkg.invals with
  | [] => s
  | i :: t =>
    if s.vfQuiet i.vf then
      { (s.dropTlb i.vf i.lo i.hi).updPkg fun p => { p with invals := t } with vfs := s.vfs.upd i.vf fun f => f.adopt i.root }
    else s

/-- `TLB_INVALIDATE`. -/
def execTlbInvalidate : State → Out := event fun s =>
  let i : Inval := { vf := s.arg.n, lo := s.arg.m, hi := s.arg.value.toNat, root := (s.vfs.get s.arg.n).rootNext }
  let s := s.updPkg fun p => { p with invals := p.invals ++ [i] }
  if s.eager then s.invalidateNext else s

/-- `INVALIDATION_COMPLETE`. -/
def execInvalidationComplete : State → Out := event State.invalidateNext

/-! ### L2 ways (11 R285) -/

/-- `L2_WAY_GATE`: never a converted way, and two cache ways stay; dirty lines of the way are written back, its clean copies
dropped. -/
def execL2WayGate : State → Out := event fun s =>
  let ci := s.arg.n
  let w := s.arg.m
  let k := s.cluster ci
  if 16 - k.conv ≤ w ∨ k.gated.contains w ∨ 16 - k.conv ≤ k.gated.length + 2 then s else
  (s.cleanL2 ci [w]).updCluster ci fun k => { k with gated := w :: k.gated }

/-- `L2_WAY_UNGATE`. -/
def execL2WayUngate : State → Out := event fun s => s.updCluster s.arg.n fun k => { k with gated := k.gated.filter (· != s.arg.m) }

/-! ### Errors of the memories -/

def satAdd32 (x : BitVec 32) (n : Nat) : BitVec 32 := BitVec.ofNat 32 (min (x.toNat + n) 0xFFFFFFFF)
def State.updHealth (s : State) (i : Nat) (f : Health → Health) : State := s.updPkg fun p => { p with health := p.health.upd i f }

/-- A single wrong bit has been corrected, in the data and in the array, and is counted: for HBM in its channel's ARRAY_CE (11 R278,
R289). The state holds every word as corrected. -/
def State.corrected (s : State) (key : Nat) : State :=
  if keyLocal key then s.updHealth (hbmChannel key) fun h => { h with ce := satAdd32 h.ce 1 }
  else s.updPkg fun p => { p with corrected := p.corrected + 1 }

/-- `VAULT_SCRUB` (11 R278): the scrubber reads a word of a core's vault. -/
def execVaultScrub : State → Out := event fun s => if s.arg.flag then s.corrected (keyVault s.focus s.arg.n) else s

/-- The keys of the 8-byte words of [key, key + n). -/
def wordsOf (key n : Nat) : List Nat := (List.range ((key % 8 + n + 7) / 8)).map fun i => key / 8 * 8 + 8 * i

/-- The 8-byte words of [key, key + n) become uncorrectable. -/
def State.spoil (s : State) (key n : Nat) : State :=
  { s with ue := (wordsOf key n).foldl (fun l k => if l.contains k then l else k :: l) s.ue }

/-- The flits that carry [key, key + n) fail for the reads of the next turn (log 23). -/
def State.spoilRead (s : State) (key n : Nat) : State := { s with ueNext := wordsOf key n }

/-- `LINK_CRC` (11 R289): a flit of a channel has failed, and then `m` of its replays. When the fourth fails too, a read has no data,
and the lines that a write carried become uncorrectable in the array. -/
def execLinkCrc : State → Out := event fun s =>
  let i := s.arg.n % 256
  let m := min s.arg.m 4
  let key := (bits s.arg.value 0 64 : Word).toNat
  let n := max s.arg.bytes.length 1
  let s := s.updHealth i fun h => { h with crc := satAdd32 h.crc (m + 1) }
  if m < 4 then s else
  let s := s.updHealth i fun h => { h with replayFail := satAdd32 h.replayFail 1, retrain := true }
  if !(keyLocal key && hbmChannel key == i) then s
  else if s.arg.flag then s.spoil (key / 128 * 128) ((key % 128 + n + 127) / 128 * 128)
  else s.spoilRead key n

/-- `REFRESH_WINDOW` (11 R291): it delays accesses, and no more. -/
def execRefreshWindow : State → Out := event fun s => s

/-- `HBM_RETRAIN` (11 R291). -/
def execHbmRetrain : State → Out := event fun s =>
  s.updHealth (s.arg.n % 256) fun h =>
    if s.arg.flag then { h with trained := !h.removed, retrain := false } else { h with trained := false, retrain := false, removed := true }

/-- `RETRAIN` (11 R290). -/
def execRetrain : State → Out := event fun s => s.updHealth (s.arg.n % 256) fun h => { h with retrain := true }

/-- `CLEAR` of a health record (11 R290). -/
def execHealthClear : State → Out := event fun s => s.updHealth (s.arg.n % 256) Health.clear

/-- `UNCORRECTABLE_ERROR` (15 R370, 19 R420; 11 R289 for the array's counter). An uncorrectable scalar reads as zero from the strike
on (log 23). -/
def execUncorrectableError : State → Out := event fun s =>
  match s.arg.ue with
  | .taskEntry d i => s.dropTask (boolNat d) i
  | .depCounter d vf n => s.dropCounter (boolNat d) vf n
  | .tagEntry d i => s.updDie (boolNat d) fun x => { x.bump 5 with tags := x.tags.upd i fun e => { e with valid := false } }
  | .memWord key =>
    let s := s.spoil key 8
    if keyLocal key then s.updHealth (hbmChannel key) fun h => { h with ue := satAdd32 h.ue 1 } else s
  | .scalar c n =>
    if n = 0 then s else s.updCore c fun x => { x with r := { x.r with s := x.r.s.set n.toNat 0 }, uedata := x.uedata + 1 }
  | .vecWord c p w => s.updCore c fun x => if x.vUe.contains (p % 60, w % 32) then x else { x with vUe := (p % 60, w % 32) :: x.vUe }

end Sys2Proof.Machine
end

