-- ==== Sys2Proof/Machine/Tasks.lean ====
section
/-! DEFINITION. Tasks on cores: the core-control path, task entry, how a core ends its task, bind records (15 R355-R361,
05 R136, 11 R274, R275). -/

namespace Sys2Proof.Machine

open Sys2Proof

/-- Runs a state change with another core in focus. -/
def State.at_ (s : State) (c : CoreId) (f : State → State) : State := { f { s with focus := c } with focus := s.focus }

/-! ### The core-control path (15 R358-R360, 05 R138) -/

/-- A macro store entry from its 40 bits (05 R138). -/
def MacroEntry.ofBits (x : BitVec 40) : MacroEntry :=
  { valid := x.getLsbD 39, last := x.getLsbD 38, selb := bits x 36 2, sela := bits x 34 2, seld := bits x 32 2, word := bits x 0 32 }

/-- The configuration of a ring is written (15 R359): ORG is read-only; an empty slot table keeps the old one. A request for a link is
ignored while 32 segments are linked (15 R360). -/
def Ring.configure (r : Ring) (v : Word) (slots : List Byte) : Ring :=
  { r with nseg := bits v 56 5, valid := v.getLsbD 55, pend := bits v 47 8, pv := r.pv || (v.getLsbD 46 && bits v 56 5 != 31),
           slots := slots.zipIdx.foldl (fun t b => t.set b.2 b.1) r.slots }

/-- A request for a link, which takes effect at once (15 R358, R360). -/
def Ring.request (r : Ring) (seg : BitVec 8) : Ring := if r.nseg = 31 then r else { r with pend := seg, pv := true }.link

/-- What a write through the path does to a core. -/
def State.pathApply (s : State) (c : CoreId) (w : PathWrite) : State :=
  match w with
  | .store n e => s.updCore c fun x => { x with macros := x.macros.set (n % 1024) e }
  | .ring n v sl => s.updCore c fun x => { x with rings := x.rings.upd (n % 16) fun r => (r.configure v sl).link }
  | .sysReg n v => s.at_ c fun t => match sysWrite t n v with | .ok t => t | .error _ => t

/-- A write to a core that runs a task takes effect at its next task entry; to a stopped core, at once (15 R358, 19 R404). -/
def State.pathWrite (s : State) (c : CoreId) (w : PathWrite) : State :=
  match (s.core c).mode with
  | .idle | .stopped => s.pathApply c w
  | _ => s.updCore c fun x => { x with late := x.late ++ [w] }

/-- `MACRO_STORE_WRITE` (05 R138). -/
def execMacroStoreWrite : State → Out := event fun s =>
  s.pathWrite s.focus (.store s.arg.n (MacroEntry.ofBits (bits s.arg.value 0 40)))

/-- `RING_CONFIG_WRITE` (15 R359, R360): on a core that runs a task, a request for a link takes effect at once, and the rest at its next
task entry (15 R358). -/
def execRingConfigWrite : State → Out := event fun s =>
  let v : Word := bits s.arg.value 0 64
  let n := s.arg.n % 16
  match (s.core s.focus).mode with
  | .idle | .stopped => s.pathWrite s.focus (.ring n v s.arg.bytes)
  | _ =>
    let s := if v.getLsbD 46 then s.updMe fun x => { x with rings := x.rings.upd n fun r => r.request (bits v 47 8) } else s
    s.pathWrite s.focus (.ring n (v &&& ~~~(0x400000000000 : Word)) s.arg.bytes)

/-- `RING_LINK` (15 R360). -/
def execRingLink : State → Out := event fun s => s.updMe fun x => { x with rings := x.rings.upd (s.arg.n % 16) Ring.link }

/-! ### The Lamp reaches a core (15 R361) -/

/-- The core is in the task of a Lamp. -/
def Core.inLamp (c : Core) (id : Nat) : Bool := c.mode != .idle && !c.task.lamp.isEmpty && c.task.lampOf == id

/-- A forwarded Lamp reaches core `c`: a participant whose task has halted forwards it at once, as its `LAMPSEND` would, while any other
participant still runs; one whose task has not been entered keeps it until then. -/
def State.takeLamp (s : State) (c : CoreId) (m : LampMsg) : State :=
  let x := s.core c
  if x.inLamp m.id then s.updCore c fun x => { x with lamp := { x.lamp with hold := true, lb := m.lb, ls := m.ls } }
  else match x.lampPast.find? fun p => p.id == m.id with
    | some p =>
      if s.cores.rows.any fun r => r.2.inLamp m.id then
        let (l, lb, ls) := { p.lamp with hold := true, lb := m.lb, ls := m.ls }.send
        (s.updCore c fun x => { x with lampPast := { p with lamp := l } :: x.lampPast.filter fun q => q.id != m.id }).passLamp c m.id m.to_ lb ls
      else s
    | none => s.updCore c fun x => { x with lampIn := x.lampIn ++ [m] }

/-- Forwarded Lamps arrive at a core. -/
def State.lampHere (s : State) (c : CoreId) : State :=
  (s.core c).lampIn.foldl (fun s m => s.takeLamp c m) (s.updCore c fun x => { x with lampIn := [] })

/-- `LAMP_ARRIVE` (15 R361). -/
def execLampArrive : State → Out := event fun s => s.lampHere s.focus

/-! ### A core ends its task (05 R136) -/

/-- Energy units of a core are returned, and its waiting request is withdrawn (06 R175). -/
def State.returnUnits (s : State) (c : CoreId) : State :=
  (s.updCore c fun x => { x with ctl := { x.ctl with pwrdecl := 0 } }).updCluster (clusterOf c) fun k =>
    { k with pend := k.pend.filter fun p => p.1 != c.toNat }

/-- Accesses in the core's queues and paths are performed. -/
def State.performAll (s : State) (c : CoreId) : State :=
  (s.at_ c fun s => State.letLeave (fun _ => true) s.me.inQueues s).runPaths c

/-- What a core has asked for outside itself and no longer waits for: its claims of ring entries, and a divisor (19 R401). -/
def State.withdrawAll (s : State) (c : CoreId) : State :=
  (s.dropClaims c).updCluster (clusterOf c) fun k => { k with clk := { k.clk with held := k.clk.held.filter fun h => h.1 != c.toNat } }

/-- The core stops with no task: after a release of package scope, pins and units returned, a pre-emption request cleared
(05 R136, 15 R366, 19 R408). -/
def State.haltCore (s : State) (c : CoreId) : State :=
  let s := ((((s.performAll c).drainAll c .package).closeRegs c .package).returnUnits c).withdrawAll c
  s.updCore c fun x =>
    { x with mode := .idle, inHandler := false, pin := none, preempt := none, debug := false, report := none, released := false,
             xfers := [], feeds := [], mrun := none, bankNext := none, mTraps := [], trapHeld := none, far := none, lq := .fill [],
             region := [], ctl := { x.ctl with timed := false },
             lanes := x.lanes.all fun l => { l.stop with parked := true } }

/-- The Lamp of the core's task, once that has halted (15 R361). -/
def Core.keepLamp (x : Core) : Core :=
  if x.task.lamp.isEmpty then x else
  { x with lampPast := { id := x.task.lampOf, to_ := x.task.lamp, lamp := x.lamp } :: x.lampPast.filter fun p => p.id != x.task.lampOf }

/-- The core ends its task: with a cause code, or as `HALT` does. A Lamp that it holds goes on. -/
def State.endTask (s : State) (c : CoreId) (fault : Option Nat) : State :=
  (((s.haltCore c).sendLamp c).updCore c Core.keepLamp).leaveTask c fault false

/-- No addition that the core has made is still on its way. -/
def State.sigsDone (s : State) (c : CoreId) : Bool := s.cores.rows.all fun r => r.2.pendSig.all fun p => p.src != c.toNat

/-- No transfer, feed, matrix command or fill of the core is outstanding. -/
def Core.enginesDone (c : Core) (now : Nat) : Bool :=
  c.xfers.isEmpty && c.feeds.isEmpty && c.mrun.isNone && c.bankNext.isNone && decide (c.mBusy ≤ now) && c.mTraps.isEmpty
    && c.q.rows.all fun r => r.2.all (·.filled)

/-- The lane issues nothing more: parked and not inside a word; in a trap handler the stopped lanes count (DEDUCED, log 19). -/
def Core.laneDone (c : Core) (l : Lane) : Bool := c.inHandler || ((c.lane l).parked && !(c.lane l).waiting)

/-- Writes in the vault paths of the core have been performed. -/
def Core.pathsEmpty (c : Core) : Bool := c.vpath.isEmpty && c.hpath.rows.all fun r => r.2.isEmpty

/-- No Turntable command of the core is uncompleted (09 R241). -/
def State.turnDone (s : State) (c : CoreId) : Bool := (s.cluster (clusterOf c)).turn.queue.all fun q => q.core != c

/-- Every word that the core has issued has completed, with what it has started (05 R136). -/
def State.allDone (s : State) : Bool :=
  [Lane.v, Lane.m, Lane.x].all s.me.laneDone && s.me.enginesDone s.now && s.me.queuesEmpty && s.me.pathsEmpty && s.sigsDone s.focus
    && s.turnDone s.focus

/-- `HALT` (05 R136): waits for everything that the core has issued; at system level the task ends with `CAUSE`. -/
def execHalt : State → Out := fun s =>
  answer .s s (mayIssue .s [] s >>= fun _ =>
    let s := s.notePoint .s
    if s.allDone then
      (release .s .package false s).map fun t =>
        t.endTask t.focus (if t.me.ctl.pl then some t.me.ctl.causeCode.toNat else none)
    else .error (.wait s))

/-! ### Task entry (02 R44, 15 R346, R350, R356, 11 R274, R275) -/

/-- What task entry gives the cores of a region. -/
structure Entry where
  task : Task
  vf : Nat
  opb : Opb
  sched : List Byte
  param : List Byte
  mftab : List Byte
  lv : Tab (BitVec 32)
  idx : List Nat

/-- Base plus strides of scalar `n` (15 R346). -/
def Entry.scalar (e : Entry) (n : Nat) : Word :=
  BitVec.ofInt 64 (e.idx.zipIdx.foldl (fun (t : Int) i =>
    t + i.1 * natSigned 32 (fieldOf e.param (56 + 24 * (n - 1) + 4 * i.2) 4)) (fieldOf e.param (8 * (n - 1)) 8))

/-- Manifest entry `n`: from the table under the mask (15 R345). -/
def Entry.manifest (e : Entry) (n : Nat) : BitVec 128 :=
  if natBit e.opb.mfmask n then BitVec.ofNat 128 (fieldOf e.mftab (16 * n) 16) else 0

/-- The loop-register copy of a tile step (15 R350). -/
def taskLv (g : Graph) (o : Opb) (t : TaskEntry) : Tab (BitVec 32) :=
  let lv := g.lv.set 10 (BitVec.ofNat 32 o.layer)
  let lv := match o.fused t.idx with
    | some ws => ws.zipIdx.foldl (fun l w => l.set (11 + w.2) w.1) lv
    | none => lv
  if o.flag 2 then lv.set 15 (BitVec.ofNat 32 t.tile) else lv

/-- The entry values of a task for a shape code and first core; `lamp` are the participants of the Lamp of number `no`. -/
def readEntry (d i shape : Nat) (first : CoreId) (lamp : List CoreId) (no : Nat) (g : Graph) (s : State) : Except Nat (Entry × State) := do
  let t := (s.die d).tasks.get i
  let (o, s) ← readOpb d g t.opb s
  let (sc, s) ← readTable d g (o.schedAt shape) 96 s
  let (pa, s) ← readTable d g o.param 224 s
  let (mf, s) ← if o.mfmask = 0 then .ok ([], s) else readTable d g o.mftab 256 s
  let task : Task :=
    { die := d == 1, entry := i, first := first.toNat, shape := shape, tag := g.tag, wbase := g.wbase, rways := g.rways,
      maxage := o.maxage, maxchain := o.maxchain, thsrc := o.flag 1, theta := o.theta, rin := o.rin, rout := o.rout, rdata := o.rdata,
      eqPoints := ((List.range 8).map fun j => BitVec.ofNat 32 (fieldOf sc (32 + 4 * j) 4)).filter (· != 0xFFFFFFFF),
      lamp := if o.flag 4 then lamp else [], lampOf := no, cookie := g.cookie, step := g.step }
  .ok ({ task := task, vf := g.vf, opb := o, sched := sc, param := pa, mftab := mf, lv := taskLv g o t, idx := t.idx }, s)

/-- Every line leaves the core's L1, dirty bytes written down (11 R275). -/
def State.flushL1 (s : State) (c : CoreId) : State :=
  let s := (s.core c).l1.rows.foldl (fun s r => if r.2.isSome then
    (if s.owner.get r.1 = some c.toNat then s.recall r.1 else s).evict c r.1 else s) s
  s.updCore c fun x => { x with l1 := .fill none, fifo := [] }

/-- Pool and vault at a launch of virtual function `vf` with an L1 that ends at `l1` (11 R275). -/
def State.clearPool (s : State) (c : CoreId) (vf l1 : Nat) : State :=
  let x := s.core c
  let s := if x.lastVf = some vf then s.zero (keyPool c x.ctl.pbL1) (l1 - x.ctl.pbL1)
    else (s.zero (keyPool c 0) 0xC0000).zero (keyVault c 0) 0x400000
  s.updCore c fun x => { x with lastVf := some vf }

/-- The Lamp of a participant at task entry (15 R361). -/
def lampAt (l : List CoreId) (c : CoreId) : Lamp :=
  let first := match l with | x :: _ => x == c | [] => false
  { hold := first, init := first }

/-- A ring at task entry keeps its configuration (15 R359). -/
def Ring.enter (r : Ring) : Ring := { nseg := r.nseg, valid := r.valid, pend := r.pend, pv := r.pv, slots := r.slots }

/-- Registers of a core at task entry. -/
def Core.enter (x : Core) (e : Entry) (c : CoreId) (owners : Nat) (now : Nat) (eager : Bool) : Core :=
  let (a, b, l1) := e.opb.pool
  let tab {α : Type} (z : α) (n : Nat) (f : Nat → α) : Tab α := (List.range n).foldl (fun t i => t.set i (f i)) (.fill z)
  { x with
    mode := .running, inHandler := false, task := e.task,
    r := { s := (List.range 7).foldl (fun t i => t.set (i + 1) (e.scalar (i + 1))) (.fill 0), lv := e.lv,
           mfsrc := BitVec.ofNat 2 e.opb.mfinit, mfbase := BitVec.ofNat 4 (e.opb.mfinit / 16) },
    ctl := { tvec := x.ctl.tvec, pe := true, pl := false, cycOff := x.ctl.cycOff, cycorg := x.ctl.cycorg, vfid := e.vf,
             cbase := tab 0 4 fun l => BitVec.ofNat 64 (fieldOf e.sched (8 * l) 8),
             clen := tab 0 4 fun l => BitVec.ofNat 32 (fieldOf e.sched (64 + 4 * l) 4),
             pbReg := a, pbSpad := b, pbL1 := l1,
             spillBase := BitVec.ofNat 64 (64 * e.opb.spb), spillLim := BitVec.ofNat 64 (64 * e.opb.spl),
             spillTop := BitVec.ofNat 64 (64 * e.opb.spb) },
    lanes := tab {} 4 fun l => { due := now + 1, parked := fieldOf e.sched (64 + 4 * l) 4 == 0 },
    v := .fill 0, vUe := [], p := { dflt := 0, rows := [(0, BitVec.allOnes 256)] }, q := .fill [], tiles := .fill {}, exps := .fill {},
    gates := .fill {}, sigs := .fill {}, pendSig := if eager then [] else x.pendSig, banks := .fill {}, bankNext := none,
    mf := tab 0 16 e.manifest,
    slots := tab .lanes ((b - a) / 4096) fun i => Owner.ofCode (owners / 4 ^ i % 4),
    vloop := [], lmf := none, lmfNo := none, moff := 0, mloop := none, mlc := 0, fifoA := [], fifoB := [], mrun := none, mTraps := [],
    mview := none, xloop := none, xfers := [], feeds := [], xfaults := [], xLost := false, rings := x.rings.all Ring.enter,
    lamp := lampAt e.task.lamp c, latch := none, released := false, xdWrote := [], opens := none, traps := [], lq := .fill [],
    drained := [], marked := [], far := none, region := [], remoteFail := [], wbFail := none, pin := none, preempt := none,
    debug := false, trapHeld := none, saveAt := 0, live := 0, eqj := {}, report := none, late := [] }

/-- A task is entered on a core (15 R356): `owners` are the codes of `.slot` lines, `slot` and `data` a `.data slot` section that
the loader writes (01 R29). -/
def State.enterCore (s : State) (c : CoreId) (e : Entry) (owners slot : Nat) (data : List Byte) : State :=
  let x := s.core c
  let s := { x with late := [] } |> s.setCore c
  let s := x.late.foldl (fun s w => s.pathApply c w) s
  let s := s.runPaths c
  let s := (s.flushL1 c).clearPool c e.vf e.opb.pool.2.2
  let s := (List.range 32).foldl (fun s b => s.zero (keyAcc c b 0) 12288) s
  let eager := s.eager
  s.at_ c fun s =>
    let now := s.now
    let s := s.updMe fun x => x.enter e c owners now eager
    let s := if data.isEmpty then s else s.poke (keyPool c (s.me.ctl.pbReg + 4096 * slot)) data
    lanesAll.foldl State.loadBuffer s

/-! ### Bind records (15 R355, R357) -/

def bindTask (r : BitVec 128) : Nat := (bits r 0 16).toNat
def bindShape (r : BitVec 128) : Nat := (bits r 16 2).toNat
def bindGang (r : BitVec 128) : Nat := (bits r 24 8).toNat
def bindFirst (r : BitVec 128) : CoreId := bits r 32 11
def bindSize (r : BitVec 128) : Nat := (bits r 48 16).toNat
def bindCtx (r : BitVec 128) : Word := bits r 64 64
/-- Cores of the region. -/
def bindCores (r : BitVec 128) : List CoreId := (List.range (8 / 2 ^ bindShape r)).map fun i => bindFirst r + BitVec.ofNat 11 i

/-- The region of a record is well formed, on its die. -/
def bindOk (d : Nat) (r : BitVec 128) : Bool :=
  decide (bindTask r < 16384) && bits r 18 6 == 0 && bits r 43 5 == 0 && coreOk (bindFirst r) && dieOf (bindFirst r) == d
    && (bindFirst r).toNat % (8 / 2 ^ bindShape r) == 0
    && (bindGang r == 0 || (decide (1 ≤ bindSize r) && decide (bindSize r ≤ 16)))

/-- The OPB of the record's task has a schedule for the record's shape; an OPB that cannot be read ends the graph (15 R370). -/
def State.bindHasShape (s : State) (d : Nat) (r : BitVec 128) : Except State Bool :=
  let e := (s.die d).tasks.get (bindTask r)
  match s.graph d e.vf with
  | none => .ok false
  | some g => match readOpb d g e.opb s with
    | .ok (o, _) => .ok (o.hasShape (bindShape r))
    | .error code => .error (s.failGraph d e.vf code)

/-- A discarded record completes its task with BIND_BAD: one that runs ends on its cores (15 R355). -/
def State.bindBad (s : State) (d i : Nat) : State :=
  let code := Cause.bindBad.code
  match ((s.die d).tasks.get i).st with
  | .expanded | .bound => s.taskFault d i code
  | .running => (s.cores.rows.filter fun r => r.2.inTask d i).foldl (fun s r => s.endTask (BitVec.ofNat 11 r.1) (some code)) s
  | _ => s

/-- `BIND_RECORD_WRITE` (15 R355). A record that finds a queue full is not written (log 20). -/
def execBindRecordWrite : State → Out := event fun s =>
  let d := boolNat s.arg.flag
  let r : BitVec 128 := bits s.arg.value 0 128
  let i := bindTask r
  if !bindOk d r || ((s.die d).tasks.get i).st != .expanded then s.bindBad d i
  else match s.bindHasShape d r with
  | .error t => t
  | .ok false => s.bindBad d i
  | .ok true =>
    if (bindCores r).any fun c => decide (4 ≤ ((s.die d).slots.get c.toNat).length) then s
    else s.updDie d fun x =>
      { x with tasks := x.tasks.upd i fun e => { e with st := .bound },
               slots := (bindCores r).foldl (fun t c => t.upd c.toNat fun q => q ++ [r]) x.slots }

/-- The record stands at the head of every queue of its region, and the cores have no task. -/
def State.bindReady (s : State) (d : Nat) (r : BitVec 128) : Bool :=
  (bindCores r).all fun c => ((s.die d).slots.get c.toNat).head? == some r && (s.core c).mode == .idle

/-- The records of one gang at the heads of the queues, one for each task. -/
def State.gangOf (s : State) (d : Nat) (r : BitVec 128) : List (BitVec 128) :=
  let vf := ((s.die d).tasks.get (bindTask r)).vf
  (s.die d).slots.rows.filterMap fun q => match q.2 with
    | x :: _ => if bindGang x = bindGang r ∧ (bindFirst x).toNat = q.1 ∧ ((s.die d).tasks.get (bindTask x)).vf = vf then some x else none
    | [] => none

/-- The records that dispatch enters together with one: itself, or its whole gang; none while one of them cannot enter. -/
def State.dispatchSet (s : State) (d : Nat) (r : BitVec 128) : List (BitVec 128) :=
  let rs := if bindGang r = 0 then [r] else s.gangOf d r
  if rs.all (s.bindReady d) && (bindGang r == 0 || rs.length == bindSize r) then rs else []

end Sys2Proof.Machine
end

