-- ==== Sys2Proof/Machine/Bringup.lean ====
section
/-! DEFINITION. Power, clocks, host attachment, freeze, security and bring-up (02 R42, R66, 06 R176, 15 R363, 21 R427-R443). -/

namespace Sys2Proof.Machine

open Sys2Proof

/-! ### Divisor ramps (06 R176) -/

/-- The lanes of a cluster's cores. -/
def State.lanesOf (s : State) (ci : Nat) (p : Core → Bool) (g : LaneSt → LaneSt) : State :=
  let on (r : Nat × Core) : Nat × Core :=
    if clusterOf (BitVec.ofNat 11 r.1) == ci && p r.2 then (r.1, { r.2 with lanes := r.2.lanes.all g }) else r
  { s with cores := { s.cores with rows := s.cores.rows.map on } }

/-- The `SETDIV` of a lane takes part no longer: it has completed (06 R176). -/
def LaneSt.endDiv (l : LaneSt) : LaneSt := match l.prog with | .setdiv _ => { l with prog := .ramped } | _ => l

/-- The traps that waited for the ramp of a cluster are taken (19 R401). -/
def State.heldTraps (s : State) (ci : Nat) : State :=
  s.cores.rows.foldl (fun s r =>
    let c : CoreId := BitVec.ofNat 11 r.1
    match (s.core c).trapHeld with
    | some (l, e, v) => if clusterOf c = ci then s.at_ c fun s => s.takeTrap l e v else s
    | none => s) s

/-- The ramp of a cluster ends: the divisor is in effect, and the timed words of the cluster issue that much later. Of the requests held
meanwhile the last starts the next ramp and the others are discarded; where there is none, every `SETDIV` that took part completes. -/
def State.endRamp (s : State) (ci : Nat) : State :=
  let c := (s.cluster ci).clk
  match c.ramp with
  | none => s
  | some r =>
    if s.pkg.ticks < r then s else
    let k := s.pkg.k
    let t := s.pkg.ticks
    let gone := c.pulsesAt k t - c.rampAt
    let c1 := { c.rebase k t with ramp := none, target := none, held := [], frozen := c.frozen + gone }
    let c1 := match c.target with | some (e, d) => c1.setDiv e d | none => c1
    let s := s.lanesOf ci (fun x => x.ctl.timed) fun x => if x.waiting then x else { x with due := x.due + gone }
    match c.held.getLast? with
    | some (m, e, d) =>
      let (n, s) := s.openLat
      (s.updCluster ci fun x => { x with clk := c1.startRamp k t (n + 1) e d }).updCore (BitVec.ofNat 11 m) fun x =>
        x.updLane .s fun l => { l with prog := .setdiv true }
    | none => ((s.updCluster ci fun x => { x with clk := c1 }).lanesOf ci (fun _ => true) LaneSt.endDiv).heldTraps ci

/-- `SETDIV_RAMP_END`. -/
def execSetdivRampEnd : State → Out := event fun s => s.endRamp s.arg.n

/-! ### The Energy Controller (21 R430-R435) -/

/-- A request is granted: its core's `PWRDECL` rises, and its `ACQP`, or its resumed task, goes on (21 R430, 19 R414). -/
def State.grant (s : State) (c : CoreId) (n : Nat) : State :=
  let go (l : LaneSt) : LaneSt := match l.prog with | .acqp => { l with prog := .granted n } | _ => l
  s.updCore c fun x =>
    { x with ctl := { x.ctl with pwrdecl := x.ctl.pwrdecl + n }, lanes := x.lanes.all go,
             mode := if x.mode = .granting then .running else x.mode }

/-- Units granted in the package. -/
def State.grantedAll (s : State) : Nat := s.cores.rows.foldl (fun n r => n + r.2.ctl.pwrdecl) 0

/-- The visit of a cluster: requests in arrival order until one fails. -/
def grantVisit (ci : Nat) : List (Nat × Nat) → State → State
  | [], s => s.updCluster ci fun k => { k with pend := [] }
  | p :: t, s =>
    if s.granted ci + p.2 ≤ (s.cluster ci).share.toNat ∧ s.grantedAll + p.2 ≤ s.pkg.budget.toNat then
      grantVisit ci t (s.grant (BitVec.ofNat 11 p.1) p.2)
    else s.updCluster ci fun k => { k with pend := p :: t }

/-- A microsecond boundary (21 R430). -/
def State.grantAll (s : State) : State :=
  let us := s.ptime / 1000
  if us ≤ s.pkg.usGrant then s else
  let s := s.updPkg fun p => { p with usGrant := us }
  if s.clusters.rows.all fun r => r.2.pend.isEmpty then s else
  (List.range 144).foldl (fun s i => let ci := (us + i) % 144; grantVisit ci (s.cluster ci).pend s) s

/-- `POWER_GRANT`. -/
def execPowerGrant : State → Out := event State.grantAll

/-- A draw window ends: charges and flags restart, and `THROTTLE` gains the microseconds with k > 0 (21 R433, R434). -/
def State.windowEnd (s : State) : State :=
  let us := s.ptime / 1000
  if us ≤ s.pkg.usWindow then s else
  let n := if s.pkg.k = 0 then 0 else us - s.pkg.usWindow
  { s.updPkg fun p => { p with usWindow := us, throttleUs := min (p.throttleUs + n) (2 ^ 64 - 1) } with
    cores := s.cores.all fun c => { c with charge := 0, overdraw := false } }

/-- `DRAW_WINDOW_END`. -/
def execDrawWindowEnd : State → Out := event State.windowEnd

/-- The throttle level changes: every cluster's pulses are counted anew from here. -/
def State.setThrottle (s : State) (k : Nat) : State :=
  let t := s.pkg.ticks
  let old := s.pkg.k
  if k = old then s else
  { s.updPkg fun p => { p with k := k } with clusters := s.clusters.all fun c => { c with clk := c.clk.rebase old t } }

/-- `THROTTLE_INTERVAL` (21 R434): the condition, that the model does not measure, held or was absent in the current interval. -/
def execThrottleInterval : State → Out := event fun s =>
  let i := s.ptime / 10000
  if i < s.pkg.usThrottle then s else
  (s.updPkg fun p => { p with usThrottle := i + 1 }).setThrottle (if s.arg.flag then min (s.pkg.k + 1) 7 else s.pkg.k - 1)

/-- An interval that no event has served was one without the condition. -/
def State.throttleSettle (s : State) : State :=
  let i := s.ptime / 10000
  if i ≤ s.pkg.usThrottle then s else (s.updPkg fun p => { p with usThrottle := i }).setThrottle (s.pkg.k - (i - s.pkg.usThrottle))

/-- `PWRCFG_WRITE` (21 R428, R435). -/
def execPwrcfgWrite : State → Out := event fun s => s.writePwrcfg (bits s.arg.value 0 64)

/-- `CLEAR` of a die's reuse counters (15 R368). -/
def execReuseCountersClear : State → Out := event fun s => s.clearReuse (boolNat s.arg.flag)

/-! ### The host (15 R363, 21 R436-R438) -/

/-- `EVENT_COALESCE_TIMEOUT` (15 R363). -/
def execEventCoalesceTimeout : State → Out := event fun s =>
  let t := s.ptime
  { s with vfs := s.vfs.upd s.arg.n fun f => f.message t }

/-- `EVHEAD_WRITE` (15 R363). -/
def execEvheadWrite : State → Out := event fun s => s.writeEvhead s.arg.n (bits s.arg.value 0 32)

/-- `LQPOST` (21 R437). -/
def execLqpost : State → Out := event fun s => s.lqPost s.arg.n (s.arg.value.toNat % 2)

/-- A virtual function's BAR0 registers at their reset values; its translation root stays. -/
def Vf.clearBar (f : Vf) : Vf := { root := f.root, en := f.en, rootNext := f.rootNext, msgs := f.msgs }

/-- The graphs of a virtual function take no more tasks, and waiting ones are gone. -/
def Die.stopGraphs (x : Die) (v : Nat) : Die :=
  { x with graphs := x.graphs.upd v fun g => g.map fun g => { g with failed := true }, joint := x.joint.set v none, lq := x.lq.set v [] }

/-- `FUNCTION_LEVEL_RESET` (21 R438). -/
def execFunctionLevelReset : State → Out := event fun s =>
  let v := s.arg.n
  let s := [0, 1].foldl (fun s d =>
    let s := s.updDie d fun x => x.stopGraphs v
    s.updDie d fun x => x.freeTasks .dropped (s.tasksIn d v [.expanded, .bound])) s
  let run := s.cores.rows.filterMap fun r => if r.2.mode != .idle && r.2.ctl.vfid == v then some r.1 else none
  let s := run.foldl (fun s c => s.endTask (BitVec.ofNat 11 c) (some 0)) s
  let s := [0, 1].foldl (fun s d => s.updDie d fun x => { x with graphs := x.graphs.set v none }) s
  { s with boxes := s.boxes.upd v BoxCtx.stop, vfs := s.vfs.upd v Vf.clearBar }

/-! ### Freeze (21 R439) -/

/-- `FREEZE`: every clock stops. -/
def execFreeze : State → Out := event fun s => s.updPkg fun p => { p with frozen := true }
/-- `FRZ_N`: as a write of FREEZE. -/
def execFrzN : State → Out := event fun s => s.updPkg fun p => { p with frozen := true }

/-! ### Bring-up (21 R440-R443) -/

/-- An image is run when its signature holds and its version is not below the counter (21 R440). -/
def imageRuns (i : ConfigImage) (min_ : Nat) : Bool := i.signatureOk && decide (min_ ≤ i.version)

/-- Number of a step. -/
def BootStep.num : BootStep → Nat
  | .bootRom => 1 | .configImage => 2 | .training => 3 | .ports => 4 | .pcie => 5 | .yard => 6 | .selfTest => 7

/-- Everything as after power-on, but for what outlasts a reset: the flash, and the devices on the expansion ports. -/
def State.cold (s : State) (img : Option ConfigImage) : State :=
  { State.reset with
    pkg := { flash := img, minVersion := s.pkg.minVersion, capSize := s.pkg.capSize },
    agenda := s.agenda, eager := s.eager, openLats := s.openLats }

/-- Steps 2 to `last` of bring-up with an image. -/
def State.applyImage (s : State) (i : ConfigImage) (last : Nat) : State :=
  let s := s.updPkg fun p =>
    { p with img := some i, pkgid := i.pkgid, budget := i.budget,
             ports := (List.range 24).foldl (fun t n => t.set n { en := i.ports.getLsbD n, st := if 4 ≤ last ∧ i.ports.getLsbD n then 1 else 0 }) (.fill {}),
             health := if 3 ≤ last then .fill { trained := true } else .fill {} }
  i.shares.zipIdx.foldl (fun s w => s.updCluster w.2 fun k => { k with share := w.1 }) s

/-- `PACKAGE_RESET` (21 R443): the steps up to the one that fails; after the last, MODE is NORMAL. -/
def execPackageReset : State → Out := event fun s =>
  let img := match s.arg.img with | some i => some i | none => s.pkg.flash
  let s1 := s.cold img
  let last := match s.arg.boot with | some b => BootStep.num b - 1 | none => 8
  let recover (t : State) : State := t.updPkg fun p => { p with mode := 2 }
  match img with
  | none => recover s1
  | some i =>
    if last < 2 || !imageRuns i s.pkg.minVersion then recover s1
    else
      let s2 := s1.applyImage i last
      if last < 8 then recover s2 else s2.updPkg fun p => { p with mode := 1 }

/-- `CONFIGURATION_IMAGE` (21 R441, R443): a package in RECOVERY takes a new signed image, which the next package reset applies. -/
def execConfigurationImage : State → Out := event fun s =>
  match s.arg.img with
  | none => s
  | some i => if s.pkg.mode = 2 ∧ imageRuns i s.pkg.minVersion then s.updPkg fun p => { p with flash := some i } else s

/-! ### SPDM (21 R442). The order of the requests is that of the SPDM standard (PRESUMED, log 24) -/

def State.spdm (s : State) (ok : Bool) (r : SpdmReply) (f : Package → Package) : State :=
  if ok then s.updPkg fun p => { f p with spdm := r } else s.updPkg fun p => { p with spdm := .error }

/-- `GET_VERSION`: 1.2 and 1.3. -/
def execGetVersion : State → Out := event fun s =>
  s.spdm true (.versions [0x12, 0x13]) fun p => { p with spdmVersion := true, spdmCaps := false, spdmAlgs := false }
/-- `GET_CAPABILITIES`. -/
def execGetCapabilities : State → Out := event fun s =>
  s.spdm s.pkg.spdmVersion .capabilities fun p => { p with spdmCaps := true }
/-- `NEGOTIATE_ALGORITHMS`: ECDSA P-521 and SHA-512 alone. -/
def execNegotiateAlgorithms : State → Out := event fun s =>
  s.spdm (s.pkg.spdmCaps && s.arg.n == 1 && s.arg.m == 1) (.algorithms true true) fun p => { p with spdmAlgs := true }
/-- `GET_DIGESTS`. -/
def execGetDigests : State → Out := event fun s =>
  s.spdm s.pkg.spdmAlgs (.digests (Config.digest Config.certificateChain)) id
/-- `GET_CERTIFICATE`. -/
def execGetCertificate : State → Out := event fun s =>
  s.spdm s.pkg.spdmAlgs (.certificate s.arg.n ((Config.certificateChain.drop s.arg.n).take s.arg.m)) id
/-- `CHALLENGE`. -/
def execChallenge : State → Out := event fun s =>
  s.spdm s.pkg.spdmAlgs (.challenge (Config.challengeSignature s.arg.value.toNat)) id
/-- `GET_MEASUREMENTS`: indexes 1 to 4. -/
def execGetMeasurements : State → Out := event fun s =>
  let v := match s.pkg.img with | some i => i.version | none => 0
  s.spdm (s.pkg.spdmAlgs && decide (1 ≤ s.arg.n) && decide (s.arg.n ≤ 4)) (.measurement s.arg.n (Config.measurement s.arg.n v)) id

/-! ### Other register writes (00 R7) -/

/-- The 8-byte value that a write of 4 or 8 bytes leaves of an old one. -/
def RegWrite.onto (w : RegWrite) (old : Word) : Word :=
  if w.wide then w.value
  else if w.off % 8 = 4 then bits w.value 0 32 ++ bits old 0 32 else bits old 32 32 ++ bits w.value 0 32

/-- `REGISTER_WRITE`: 4 or 8 bytes at a multiple of their size; a core's system registers go through the core-control path. -/
def execRegisterWrite : State → Out := event fun s =>
  let w := s.arg.reg
  if w.off % (if w.wide then 8 else 4) != 0 then s else
  match w.block with
  | .core c =>
    let n := w.off / 8
    let old := match sysRead { s with focus := c } n with | some v => v | none => 0
    s.pathWrite c (.sysReg n (RegWrite.onto w old))
  | b => blockWrite s b w.off (toBytes (if w.wide then 8 else 4) w.value.toNat)

end Sys2Proof.Machine
end

