-- ==== Sys2Proof/Machine/Handoff.lean ====
section
/-! DEFINITION. S lane: slot owners (06 R164, R165). -/

namespace Sys2Proof.Machine

open Sys2Proof

/-- Slots of the pool (06 R165). -/
def Core.slotCount (c : Core) : Nat := (c.ctl.pbSpad - c.ctl.pbReg) / 4096

/-- Pool offset of a slot. -/
def Core.slotOff (c : Core) (n : Nat) : Nat := c.ctl.pbReg + 4096 * n

/-- No queued access of the core's lanes touches slots first .. first + n - 1 (06 R164, step 1). -/
def Core.slotsQuiet (c : Core) (me : CoreId) (first n : Nat) : Bool :=
  let lo := keyPool me (c.slotOff first)
  lanesAll.all fun l => (c.lq.get (laneIdx l)).all fun a => decide (a.key + a.n ≤ lo) || decide (lo + 4096 * n ≤ a.key)

/-- Bytes that the walks of an item name, with the members' slots of a multicast. -/
def Transfer.spans (t : Transfer) (s : State) : List (Word × Nat) :=
  let w (d : Desc) : List (Word × Nat) := d.spans 0 d.len.toNat
  match t.kind with
  | .mcast ms slot _ => w t.b ++ ms.map fun k => (peerSpad k ((s.core (peerOf s.focus k)).slotAt slot), t.b.len.toNat)
  | .gather => w t.a ++ w t.b ++ w t.c
  | _ => w t.a ++ w t.b

/-- The item touches a slot of core `me` among first .. first + n - 1 that the X engine owns. -/
def Transfer.touches (t : Transfer) (s : State) (me : CoreId) (first n : Nat) : Bool :=
  ((t.spans s).flatMap cutSpan).any fun p => match decodeAddr s s.focus p.1 p.2 false with
    | some (.spad c _ o) =>
      let i := (o - (s.core c).ctl.pbReg) / 4096
      c == me && decide (first ≤ i) && decide (i < first + n) && (s.core c).slotOwner o == .xe
    | _ => false

/-- Step 2 of 06 R164: the accesses of the items that run are accepted when they start. Where moves are made by the agenda, an
access is accepted when it arrives, which 13 R331 allows too: the agenda then says whether it comes before the flip (log 17). -/
def State.enginesQuiet (s : State) (first n : Nat) : Bool :=
  !s.eager || (List.range 8).all fun k =>
    let t : State := { s with focus := peerOf s.focus k }
    t.me.xfers.all fun x => !(x.st == .active && t.me.runs x && x.touches t s.focus first n)

/-- The range lies in the pool; APERTURE names its first slot (DEDUCED, log 17). -/
def needSlots (first n : Nat) (s : State) : Except Halt Unit :=
  check (decide (first + n ≤ s.me.slotCount)) .aperture (ownSpad (s.me.slotOff first))

/-- `OWN` (06 R164): blocks until the slots are quiet, then writes every owner field at once. -/
def execOwn (first : BitVec 8) (count1 : BitVec 5) (o : Owner) : State → Out :=
  word .s [] fun s => do
    let f := first.toNat
    let n := count1.toNat + 1
    needSlots f n s
    if s.me.slotsQuiet s.focus f n && s.enginesQuiet f n then
      .ok (s.updMe fun c => { c with slots := (List.range n).foldl (fun t i => t.set (f + i) o) c.slots }).newRegion
    else .error (.wait s)

/-- `OWNWAIT` (06 R165). -/
def execOwnwait (first : BitVec 8) (count1 : BitVec 5) (o : Owner) : State → Out :=
  word .s [] fun s => do
    let f := first.toNat
    let n := count1.toNat + 1
    needSlots f n s
    match (List.range n).find? fun i => s.me.slots.get (f + i) != o with
    | some i => .error (.trap .ownerViolation (ownSpad (s.me.slotOff (f + i))))
    | none => if s.me.slotsQuiet s.focus f n && s.enginesQuiet f n then .ok s else .error (.wait s)

end Sys2Proof.Machine
end

