-- ==== Sys2Proof/Machine/VectorMem.lean ====
section
/-! DEFINITION. V lane: memory words and operand queues (07 R200-R202, 02 R49). -/

namespace Sys2Proof.Machine

open Sys2Proof

/-- An element of a memory word: its index, its address, and whether its bytes follow one another. -/
structure ElAddr where
  i : Nat
  a : Word
  whole : Bool := true

/-- The check of an element whose bytes do not follow one another: the rows above MISALIGN, then MISALIGN (07 R201). -/
def brokenElement (a : Word) (wr : Bool) (s : State) : Halt :=
  match decodeByte s s.focus a wr with
  | none => .trap .aperture a
  | some (.acc c o) =>
    let b := (s.core c).banks.get (o / 12288)
    .trap (if !b.alloc then .accUnalloc else if b.holder != s.focus then .accBand else .misalign) a
  | some _ => .trap .misalign a

/-- The rows of 07 R201 for every element in ascending order, before any access; the registrations stand when none fails. -/
def vCheck (wr : Bool) (n : Nat) (es : List ElAddr) : Eff := fun s =>
  es.foldlM (fun s e =>
    if !e.whole then .error (brokenElement e.a wr s)
    else do
      let (loc, s) ← locate s.lanes e.a n wr true false s
      register s.focus e.a loc.key (!wr) wr loc.global s) s

/-- Elements of a descriptor word with `w` bytes each (07 R200), after DESC_SHAPE, DESC_MODE and DESC_END. -/
def descElems (x : XdReg) (w total : Nat) (act : List Nat) (s : State) : Except Halt (List ElAddr) := do
  let d := s.rdXd x
  needWalk d x
  check (decide (d.cur.toNat + total ≤ d.len.toNat)) .descEnd (zextW x)
  .ok (act.map fun i => { i := i, a := d.addr (d.cur.toNat + i * w), whole := d.contiguous (d.cur.toNat + i * w) w })

/-- What the loads of a word have met. -/
structure VLoads where
  /-- the longest latency of those performed at once; whether some stand in the lane's queue -/
  lat : Nat
  queued : Bool
  /-- lost words, the pieces that met one, and the address of the first -/
  bad : List Nat
  hit : List Nat
  at_ : Option Word
  st : State

/-- Loads of `n` bytes in order, each to its place, readable one V cycle after the figure of 05 R125 and `more` further ones. -/
def vLoads (n more : Nat) (repl : List Byte) (dest : ElAddr → Dest) (es : List ElAddr) (s : State) : Except Halt VLoads :=
  es.foldlM (fun r e => do
    let l ← laneLoad .v e.a n (dest e) repl true (fun k => s.vCycles (k + more)) r.st
    .ok { lat := max r.lat (l.lat.getD 0), queued := r.queued || l.lat.isNone, bad := r.bad ++ l.bad.filter fun k => !r.bad.contains k,
          hit := if l.bad.isEmpty then r.hit else r.hit ++ [e.i],
          at_ := if r.at_.isNone && !l.bad.isEmpty then some e.a else r.at_, st := l.st })
    { lat := 0, queued := false, bad := [], hit := [], at_ := none, st := s }

/-- The result of key `k` of the loads performed at once is readable `n` V cycles from now, that of the others when they are
performed. -/
def VLoads.settle (r : VLoads) (k n : Nat) (part : Bool) (s : State) : State :=
  let at_ := s.now + s.vCycles n
  s.updR fun x => x.join k at_ r.queued part

/-- Lost words are counted once; under PTRAP a load that met one traps with nothing written (19 R418, R419). -/
def finishLoads (s : State) (r : VLoads) : Except Halt State :=
  let count (t : State) : State := t.updMe fun c => { c with uedata := c.uedata + r.bad.length }
  match r.at_ with
  | none => .ok r.st
  | some a => if s.me.src.ptrap then .error (.trapIn .poison a (count s)) else .ok (count r.st)

/-- A vector load: elements at addresses that `addrs` gives. -/
def vLoad (d : VReg) (srcs : List VReg) (more : State → List Nat) (p : PReg)
    (addrs : List (BitVec 2048) → List Nat → State → Except Halt (List ElAddr)) (after : State → State) : State → Out :=
  vGuarded p srcs more (fun _ => true) fun vs act s => do
    let w := etBytes s.ety
    let k := s.pv d
    let es ← addrs vs act s
    let s1 ← vCheck false w es (s.scrubV k)
    let r ← vLoads w 1 (toBytes w (poisonPat s.ety)) (fun e => .vec k (w * e.i) []) es s1
    let s2 ← finishLoads s r
    .ok (after (r.settle (kV k) (r.lat + 1) (decide (act.length < s.vl)) s2))

/-- A vector store of elements of the first source. A poisoned element under PTRAP is judged behind the rows of 07 R201 (log 49). -/
def vStore (srcs : List VReg) (more : State → List Nat) (p : PReg)
    (addrs : List (BitVec 2048) → List Nat → State → Except Halt (List ElAddr)) (after : State → State) : State → Out :=
  vGuarded p srcs more (fun _ => true) fun vs act s => do
    let w := etBytes s.ety
    let x := vs.getD 0 0
    let es ← addrs vs act s
    let s1 ← vCheck true w es s
    needSane s.ety (pick s.ety x act) s
    let s2 ← es.foldlM (fun s e => laneStore .v e.a (toBytes w (elemAt w x e.i)) true s) s1
    .ok (after s2)

/-- `VLD`: the cursor advances by VL elements whatever the guard. -/
def execVld (d : VReg) (x : XdReg) (p : PReg) : State → Out := fun s =>
  let w := etBytes s.ety
  vLoad d [] noKeys p (fun _ act t => descElems x w (s.vl * w) act t) (fun t => t.advance x (s.vl * w)) s
/-- `VST`. -/
def execVst (d : VReg) (x : XdReg) (p : PReg) : State → Out := fun s =>
  let w := etBytes s.ety
  vStore [d] noKeys p (fun _ act t => descElems x w (s.vl * w) act t) (fun t => t.advance x (s.vl * w)) s

/-- Addresses of a strided word. -/
def strided (a b : SReg) (act : List Nat) (s : State) : List ElAddr :=
  act.map fun i => { i := i, a := s.rdSv a + BitVec.ofNat 64 i * s.rdSv b }

/-- `VLDS`. -/
def execVlds (d : VReg) (a b : SReg) (p : PReg) : State → Out :=
  vLoad d [] (fun _ => [kS a, kS b]) p (fun _ act t => .ok (strided a b act t)) id
/-- `VSTS`. -/
def execVsts (d : VReg) (a b : SReg) (p : PReg) : State → Out :=
  vStore [d] (fun _ => [kS a, kS b]) p (fun _ act t => .ok (strided a b act t)) id

/-- Addresses by the signed offsets in a vector. -/
def gathered (a : SReg) (v : BitVec 2048) (act : List Nat) (s : State) : List ElAddr :=
  act.map fun i => { i := i, a := s.rdSv a + BitVec.ofInt 64 (natSigned (etBits s.ety) (elemAt (etBytes s.ety) v i)) }

/-- `VGATHER`. -/
def execVgather (d : VReg) (a : SReg) (b : VReg) (p : PReg) : State → Out :=
  vLoad d [b] (fun _ => [kS a]) p (fun vs act t => .ok (gathered a (vs.getD 0 0) act t)) id
/-- `VSCATTER`; a queue named twice gives the data first (02 R49). -/
def execVscatter (d : VReg) (a : SReg) (b : VReg) (p : PReg) : State → Out :=
  vStore [d, b] (fun _ => [kS a]) p (fun vs act t => .ok (gathered a (vs.getD 1 0) act t)) id

/-- The pieces of `n` contiguous bytes from an address, each of `w`. -/
def pieces (a : Word) (n w : Nat) : List ElAddr := (List.range (n / w)).map fun i => { i := i, a := a + BitVec.ofNat 64 (w * i) }

/-- The row of 05 R142 and 07 R201 that a cause stands in. -/
def Halt.row : Halt → Nat
  | .trap .aperture _ => 0
  | .trap .accUnalloc _ => 1
  | .trap .accBand _ => 2
  | .trap .misalign _ => 3
  | .trap .schedMiss _ => 4
  | .trap (.xlate _) _ => 5
  | .trap .permission _ => 6
  | .trap .fabricErr _ => 7
  | .trap .ownerViolation _ => 8
  | _ => 9

/-- A cause of an access that counts as one element reports the element's address (07 R201). -/
def Halt.at_ (a : Word) : Halt → Halt
  | .trap c v => .trap c (if c = .schedMiss then v else a)
  | h => h

/-- A cause of an access that counts as one element reports the element's address. -/
def atElement {α : Type} (a : Word) : Except Halt α → Except Halt α
  | .error h => .error (h.at_ a)
  | .ok x => .ok x

/-- The places of an access that counts as one element; of the causes of its pieces that of the highest row (07 R201). -/
def locateAll (w : Nat) (wr : Bool) (ps : List ElAddr) (s : State) : Except Halt (List (Word × Loc) × State) :=
  let r := ps.foldl (fun (r : List (Word × Loc) × State × Option Halt) e =>
    match locate r.2.1.lanes e.a w wr true false r.2.1, r.2.2 with
    | .ok (loc, t), h => (r.1 ++ [(e.a, loc)], t, h)
    | .error h, none => (r.1, r.2.1, some h)
    | .error h, some g => (r.1, r.2.1, some (if h.row < g.row then h else g))) ([], s, none)
  match r.2.2 with
  | some h => .error h
  | none => .ok (r.1, r.2.1)

/-- The checks of `n` walk bytes from the cursor as one element of alignment `w`; gives its address. -/
def oneElement (x : XdReg) (n w : Nat) (wr : Bool) (s : State) : Except Halt (Word × State) := do
  let d := s.rdXd x
  needWalk d x
  check (decide (d.cur.toNat + n ≤ d.len.toNat)) .descEnd (zextW x)
  let a := d.addr d.cur.toNat
  if !d.contiguous d.cur.toNat n then .error (brokenElement a wr s)
  else do
    check (decodeAddr s s.focus a n wr).isSome .aperture a
    let (ls, s1) ← atElement a (locateAll w wr (pieces a n w) s)
    let s2 ← atElement a (ls.foldlM (fun s l => register s.focus l.1 l.2.key (!wr) wr l.2.global s) s1)
    .ok (a, s2)

/-- `QLD` (07 R202): an entry is reserved, and 256 walk bytes are read into it. -/
def execQld (q : BitVec 2) (x : XdReg) : State → Out :=
  word .v [] fun s => do
    let k := q.toNat
    needThat (decide ((s.me.q.get k).length < 8)) s
    let (a, s1) ← oneElement x 256 8 false s
    let (id, s2) := s1.take
    let s2 := s2.updMe fun c => { c with q := c.q.upd k fun l =>
      l ++ [{ id := id, data := 0, left := 32, bad := [], filled := false, unbounded := false, ready := 0 }] }
    let r ← vLoads 8 1 (List.replicate 8 0) (fun e => .que k id e.i) (pieces a 256 8) s2
    if !r.bad.isEmpty && s.me.src.ptrap then
      .error (.trapIn .poison (r.at_.getD a) (s.updMe fun c => { c with uedata := c.uedata + r.bad.length }))
    else
      let at_ := s.now + s.vCycles (r.lat + 1)
      let open_ := r.st.me.lq.get (laneIdx .v) |>.any fun q => q.fig.isNone && match q.dest with | .que _ i _ => i == id | _ => false
      let f (e : QEntry) : QEntry := if e.id = id then { e with bad := r.hit, filled := !r.queued, unbounded := open_, ready := at_ } else e
      .ok ((r.st.updMe fun c => { c with q := c.q.upd k fun l => l.map f }).advance x 256)

/-- `QLD_FILL` (02 R49): the oldest entry of a queue whose data has all arrived is filled. -/
def execQldFill : State → Out := event fun s =>
  let now := s.now
  let rec fill : List QEntry → List QEntry
    | [] => []
    | e :: t => if !e.filled && e.left == 0 then { e with filled := true, ready := now } :: t else e :: fill t
  s.updMe fun c => { c with q := c.q.upd s.arg.n fill }

end Sys2Proof.Machine
end

