-- ==== Sys2Proof/Machine/Tile.lean ====
section
/-! DEFINITION. Tile registers (07 R208, R209) and their lazy restore (20 R422). -/

namespace Sys2Proof.Machine

open Sys2Proof

def State.tile (s : State) (t : Nat) : Tile := s.me.tiles.get t
def State.setTile (s : State) (t : Nat) (x : Tile) : State := s.updMe fun c => { c with tiles := c.tiles.set t x }
/-- An element; outside ROWS x COLS it reads +0 (02 R50). -/
def Tile.at (x : Tile) (i j : Nat) : Nat := if i < x.rows.toNat ∧ j < x.cols.toNat then (x.el.get (16 * i + j)).toNat else 0
/-- An element is written, inside ROWS x COLS. -/
def Tile.put (x : Tile) (i j v : Nat) : Tile :=
  if i < x.rows.toNat ∧ j < x.cols.toNat then { x with el := x.el.set (16 * i + j) (BitVec.ofNat 32 v) } else x

/-- The tile's bytes are read back from the image (20 R422). With POISON the restored tile stands. -/
def restoreTile (t : Nat) : Eff := fun s => do
  let x := s.tile t
  let g ← engineReadRaw s.engine x.image 1024 s
  let bs := g.carried x.image
  let el : Tab (BitVec 32) := (List.range 256).foldl (fun e i => e.set i (BitVec.ofNat 32 (leBytes ((bs.drop (4 * i)).take 4)))) (.fill 0)
  let s1 := g.st.setTile t { x with el := el, resid := true, dirty := true }
  if !g.lost.isEmpty && s.me.src.ptrap then .error (.trapIn .poison x.image s1) else .ok s1

/-- The tiles that a word names are configured and resident (07 R208, steps 2 and 3). In a timed region the touch is a missed
schedule, and the restore is made all the same. -/
def touchTiles (ts : List TReg) : Eff := fun s => do
  match ts.find? fun t => !(s.tile t.toNat).cfg with
  | some t => .error (.trap .tileUncfg (zextW t))
  | none =>
    ts.foldlM (fun (s : State) t =>
      if (s.tile t.toNat).resid then .ok s
      else if s.timed then
        match restoreTile t.toNat s with
        | .ok r => .error (.trapIn .schedMiss s.cycIn r)
        | .error _ => .error (.trap .schedMiss s.cycIn)
      else restoreTile t.toNat s) s

/-- A tile word: not guarded; it needs the tile unit, and the results in the tiles that it reads. Of several tiles that are not
configured the first in the order d, a, b is reported (log 50). -/
def tileWord (reads : List TReg) (shape : Bool) (ts : List TReg) (eff : Eff) : State → Out :=
  word .v (kTile :: (if shape then [kShape] else []) ++ reads.map kT) fun s => do
    needShape (!shape || s.ety == .f32) s
    let s1 ← touchTiles ts s
    eff s1

/-- A queued load of a tile's row that the whole tile's new contents overtake. -/
def Acc.pastTile (t : Nat) (a : Acc) : Acc := match a.dest with | .tile k _ => if k = t then { a with dest := .none } else a | _ => a

/-- A tile's contents are set anew, readable after `lat` vector cycles. -/
def State.wrTile (s : State) (t : TReg) (x : Tile) (lat : Nat) : State :=
  ((s.setTile t.toNat x).updMe fun c => { c with lq := c.lq.upd (laneIdx .v) fun q => q.map (Acc.pastTile t.toNat) }).setReady (kT t) (s.vCycles lat)

/-- `TCFG`: its result, which 07 R210 does not list, is readable after one cycle, as that of `TZERO` (log 51). -/
def execTcfg (t : TReg) (rows1 cols1 : BitVec 4) : State → Out :=
  tileWord [] false [] fun s =>
    .ok (s.wrTile t { el := .fill 0, cfg := true, dirty := false, resid := true, rows := BitVec.ofNat 5 (rows1.toNat + 1),
                      cols := BitVec.ofNat 5 (cols1.toNat + 1), image := 0 } 1)

/-- `TZERO`. -/
def execTzero (t : TReg) : State → Out :=
  tileWord [] false [t] fun s =>
    let x := s.tile t.toNat
    let z := (List.range 16).foldl (fun x i => (List.range 16).foldl (fun x j => x.put i j 0) x) x
    .ok (s.wrTile t { z with dirty := true } 1)

/-- `TLDROW`: 4 x COLS bytes, checked as one access with w = 4. -/
def execTldrow (t : TReg) (x : XdReg) (row : BitVec 4) : State → Out :=
  tileWord [] false [t] fun s => do
    let y := s.tile t.toNat
    check (decide (row.toNat < y.rows.toNat)) .tileRange (zextW row)
    let n := 4 * y.cols.toNat
    let (a, s1) ← oneElement x n 4 false s
    let r ← vLoads 4 1 (toBytes 4 0x7FC0DEAD) (fun e => .tile t.toNat (16 * row.toNat + e.i)) (pieces a n 4) s1
    let s2 ← atElement a (finishLoads s r)
    let s3 := s2.updMe fun c => { c with tiles := c.tiles.upd t.toNat fun z => { z with dirty := true } }
    .ok ((r.settle (kT t) (r.lat + 1) true s3).advance x n)

/-- `TSTROW`. -/
def execTstrow (t : TReg) (x : XdReg) (row : BitVec 4) : State → Out :=
  tileWord [t] false [t] fun s => do
    let y := s.tile t.toNat
    check (decide (row.toNat < y.rows.toNat)) .tileRange (zextW row)
    let n := 4 * y.cols.toNat
    let (a, s1) ← oneElement x n 4 true s
    needSane .f32 ((List.range y.cols.toNat).map fun j => (16 * row.toNat + j, y.at row.toNat j)) s
    let s2 ← (pieces a n 4).foldlM (fun s e => laneStore .v e.a (toBytes 4 (y.at row.toNat e.i)) true s) s1
    .ok (s2.advance x n)

/-- A row or column goes to the low elements of a vector, whatever the guard (07 R208). -/
def tileToVec (d : VReg) (t : TReg) (at_ : Nat → Nat × Nat) : Eff := fun s => do
  let y := s.tile t.toNat
  let els := (List.range (min s.vl 16)).map fun j => (j, y.at (at_ j).1 (at_ j).2)
  needSane .f32 (els.map fun e => (16 * (at_ e.1).1 + (at_ e.1).2, e.2)) s
  .ok (s.wrV d 4 els 1)

/-- `TMOVR`. -/
def execTmovr (d : VReg) (t : TReg) (row : BitVec 4) : State → Out :=
  tileWord [t] true [t] fun s => do
    check (decide (row.toNat < (s.tile t.toNat).rows.toNat)) .tileRange (zextW row)
    tileToVec d t (fun j => (row.toNat, j)) s

/-- `TMOVC`. -/
def execTmovc (d : VReg) (t : TReg) (col : BitVec 4) : State → Out :=
  tileWord [t] true [t] fun s => do
    check (decide (col.toNat < (s.tile t.toNat).cols.toNat)) .tileRange (zextW col)
    tileToVec d t (fun j => (j, col.toNat)) s

/-- One element of the product (07 R209): the old element and 16 products, rounded once. -/
def fmaElem (rm : Rm) (x a b : Tile) (i j : Nat) : Nat × FpFlags :=
  let f := fmtF32
  let ps := (List.range 16).map fun k => (a.at i k, b.at k j)
  fpSum f rm ((f, x.at i j) :: ps.flatMap fun p => [(f, p.1), (f, p.2)])
    (some (f.val (x.at i j)) :: ps.map fun p => mulVal (f.val p.1) (f.val p.2))

/-- Every element of a tile with its index. -/
def Tile.all (x : Tile) : List (Nat × Nat) :=
  (List.range 16).flatMap fun i => (List.range 16).map fun j => (16 * i + j, x.at i j)

/-- `TFMA`: the tile unit is busy for 16 cycles (07 R210). -/
def execTfma (d a b : TReg) : State → Out :=
  tileWord [d, a, b] false [d, a, b] fun s => do
    let x := s.tile d.toNat
    let ta := s.tile a.toNat
    let tb := s.tile b.toNat
    let res := (List.range x.rows.toNat).flatMap fun i => (List.range x.cols.toNat).map fun j => (i, j, fmaElem s.me.src.rm x ta tb i j)
    needSane .f32 (x.all ++ ta.all ++ tb.all) s
    let s1 ← raiseFlags (allFlags (res.map fun r => r.2.2.2)) s
    let y := res.foldl (fun y r => y.put r.1 r.2.1 r.2.2.1) x
    .ok ((s1.wrTile d { y with dirty := true } 16).setReady kTile (s.vCycles 16))

/-- `TILE_RESTORE` (20 R422): a lazily saved tile is read back. -/
def execTileRestore : State → Out := event fun s =>
  let t := s.arg.n % 8
  if (s.tile t).cfg && !(s.tile t).resid then
    match restoreTile t s with
    | .ok r => r
    | .error (.trapIn _ _ r) => r
    | .error _ => s
  else s

end Sys2Proof.Machine
end

