-- ==== Sys2Proof/Machine/Expansion.lean ====
section
/-! DEFINITION. Expansion registers (09 R250-R259). A C64 value is a pair of binary32 patterns; the helpers of 09 R251 collect
the flags of their roundings. -/

namespace Sys2Proof.Machine

open Sys2Proof

/-! ### Helpers (09 R251) -/

/-- A computation that collects flags. -/
abbrev Fx (α : Type) := α × FpFlags

def Fx.bind {α β : Type} (x : Fx α) (f : α → Fx β) : Fx β := let y := f x.1; (y.1, x.2.or y.2)
def Fx.pure {α : Type} (x : α) : Fx α := (x, noFlags)

/-- A complex number as two binary32 patterns. -/
structure Cx where
  re : Nat
  im : Nat
deriving DecidableEq, Repr

def Cx.of (x : BitVec 64) : Cx := { re := x.toNat % 2 ^ 32, im := x.toNat / 2 ^ 32 }
def Cx.pat (x : Cx) : BitVec 64 := BitVec.ofNat 64 (x.re + x.im * 2 ^ 32)
def Cx.zero : Cx := { re := 0, im := 0 }
def Cx.one : Cx := { re := 0x3F800000, im := 0 }

/-- Both parts of a result. -/
def pairFx (r i : Nat × FpFlags) : Fx Cx := ({ re := r.1, im := i.1 }, r.2.or i.2)

def cadd (rm : Rm) (x y : Cx) : Fx Cx := pairFx (fpAdd fmtF32 rm x.re y.re) (fpAdd fmtF32 rm x.im y.im)
def csub (rm : Rm) (x y : Cx) : Fx Cx := pairFx (fpSub fmtF32 rm x.re y.re) (fpSub fmtF32 rm x.im y.im)
def cneg (x : Cx) : Cx := { re := x.re ^^^ 2 ^ 31, im := x.im ^^^ 2 ^ 31 }
def cmul (rm : Rm) (x y : Cx) : Fx Cx :=
  let r := cMul rm (x.re + x.im * 2 ^ 32) (y.re + y.im * 2 ^ 32)
  ({ re := r.1 % 2 ^ 32, im := r.1 / 2 ^ 32 }, r.2)
/-- A part times an integer. -/
def mulN (rm : Rm) (x n : Nat) : Nat × FpFlags := fpOp fmtF32 rm [(fmtF32, x)] (mulVal (fmtF32.val x) (.fin false n 0))
def cmuln (rm : Rm) (x : Cx) (n : Nat) : Fx Cx := pairFx (mulN rm x.re n) (mulN rm x.im n)

/-- A value divided by a value of positive sign, rounded once; not for a divisor of 0. -/
def quotVal (rm : Rm) (x d : Val) : Nat × FpFlags :=
  match x, d with
  | .fin s m e, .fin _ n f => let r := divMag m e n f; roundMag fmtF32 rm false s r.1 r.2.1 r.2.2
  | .inf s, .fin _ _ _ => (if s then 0xFF800000 else 0x7F800000, noFlags)
  | .fin s _ _, .inf _ => (if s then 0x80000000 else 0, noFlags)
  | _, _ => (fmtF32.nanPat, flagNV)

def divN (rm : Rm) (x n : Nat) : Nat × FpFlags :=
  match nanResult fmtF32 [(fmtF32, x)] with
  | some p => p
  | none => quotVal rm (fmtF32.val x) (.fin false n 0)
def cdivn (rm : Rm) (x : Cx) (n : Nat) : Fx Cx := pairFx (divN rm x.re n) (divN rm x.im n)

/-- xr^2 + xi^2, exactly. -/
def normVal (x : Cx) : Option Val :=
  sumVals .rne [mulVal (fmtF32.val x.re) (fmtF32.val x.re), mulVal (fmtF32.val x.im) (fmtF32.val x.im)]

def crcp (rm : Rm) (x : Cx) : Fx Cx :=
  match nanResult fmtF32 [(fmtF32, x.re), (fmtF32, x.im)], normVal x with
  | some p, _ => pairFx p p
  | none, some (.fin s n e) =>
    if n = 0 then ({ re := 0x7F800000, im := 0x7F800000 }, flagDZ)
    else pairFx (quotVal rm (fmtF32.val x.re) (.fin s n e)) (quotVal rm (negVal (fmtF32.val x.im)) (.fin s n e))
  | none, some d => pairFx (quotVal rm (fmtF32.val x.re) d) (quotVal rm (negVal (fmtF32.val x.im)) d)
  | none, none => pairFx (fmtF32.nanPat, flagNV) (fmtF32.nanPat, flagNV)

def clog (rm : Rm) (x : Cx) : Fx Cx :=
  let m := fpOp fmtF32 rm [(fmtF32, x.re), (fmtF32, x.im)] (normVal x)
  let l := fpLog2 m.1
  let re := fpMul fmtF32 rm l.1 0x3EB17218
  let im := fpAtan2 x.im x.re
  ({ re := re.1, im := im.1 }, ((m.2.or l.2).or re.2).or im.2)

/-- binom(n, k). -/
def binom (n k : Nat) : Nat := (List.range k).foldl (fun a i => a * (n - i) / (i + 1)) 1

/-- Powers x^0 .. x^n. -/
def powers (rm : Rm) (x : Cx) (n : Nat) : Fx (List Cx) :=
  (List.range n).foldl (fun r _ => r.bind fun l => (cmul rm (l.getLastD Cx.one) x).bind fun y => Fx.pure (l ++ [y])) (Fx.pure [Cx.one])

/-- A sum over a list of indexes, in order. -/
def sumOver (rm : Rm) (start : Fx Cx) (ks : List Nat) (term : Nat → Fx Cx) : Fx Cx :=
  ks.foldl (fun s k => (term k).bind fun t => s.bind fun s => cadd rm s t) start

/-- A list of results with their flags. -/
def mapFx {α β : Type} (f : α → Fx β) : List α → Fx (List β)
  | [] => Fx.pure []
  | x :: t => (f x).bind fun y => (mapFx f t).bind fun ys => Fx.pure (y :: ys)

/-- Indexes a .. b. -/
def span (a b : Nat) : List Nat := (List.range (b + 1 - a)).map (a + ·)

/-! ### Distances -/

/-- Fraction bits of the fixed point in which a distance is formed: below them no difference of binary32 values and roots of
sums of their squares can hide. -/
def distBits : Nat := 640

/-- A finite binary32 value as a multiple of 2^-149. -/
def unitsOf (x : Val) : Int := match x with | .fin s m e => let k : Int := (m * 2 ^ (e + 149).toNat : Nat); if s then -k else k | _ => 0

/-- |a - b| + r rounded up, as a binary32 pattern (09 R252, R253). -/
def distUp (a b : Cx) (r : Nat) : Nat × FpFlags :=
  let f := fmtF32
  match nanResult f [(f, a.re), (f, a.im), (f, b.re), (f, b.im), (f, r)] with
  | some p => p
  | none =>
    let dx := sumVals .rup [some (f.val a.re), some (negVal (f.val b.re))]
    let dy := sumVals .rup [some (f.val a.im), some (negVal (f.val b.im))]
    match dx, dy, f.val r with
    | none, _, _ => (f.nanPat, flagNV)
    | _, none, _ => (f.nanPat, flagNV)
    | some (.fin _ _ _), some (.fin _ _ _), .fin rn m e =>
      let x := unitsOf (f.val a.re) - unitsOf (f.val b.re)
      let y := unitsOf (f.val a.im) - unitsOf (f.val b.im)
      let n := (x * x + y * y).toNat * 2 ^ (2 * (distBits - 149))
      let q := isqrt n
      let t : Int := (q : Int) + unitsOf (.fin rn m e) * (2 ^ (distBits - 149) : Nat)
      if q * q = n then roundMag f .rup false (decide (t < 0)) t.natAbs (-(distBits : Int)) false
      else if 0 ≤ t then roundMag f .rup false false t.natAbs (-(distBits : Int)) true
      else roundMag f .rup false true (t.natAbs - 1) (-(distBits : Int)) true
    | some (.fin _ _ _), some (.fin _ _ _), .inf s => (if s then 0xFF800000 else 0x7F800000, noFlags)
    | _, _, .inf true => (f.nanPat, flagNV)
    | _, _, _ => (0x7F800000, noFlags)

/-- The greater of two radii. -/
def maxRadius (x y : Nat × FpFlags) : Nat × FpFlags := let r := fpMax fmtF32 x.1 y.1; (r.1, (x.2.or y.2).or r.2)

/-! ### The register -/

def State.exp (s : State) (e : EReg) : Expn := s.me.exps.get e.toNat
/-- `EORD`. -/
def State.ord (s : State) : Nat := s.me.src.eord.toNat
def Expn.co (x : Expn) (k : Nat) : Cx := Cx.of (x.c.get k)
def Expn.at (x : Expn) : Cx := Cx.of x.centre

/-- Coefficients c[0 ..] as given, and those above the order cleared (02 R51). -/
def Expn.withCo (x : Expn) (p : Nat) (cs : List Cx) : Expn :=
  { x with c := (List.range 32).foldl (fun t k => t.set k (if k ≤ p then (cs.getD k Cx.zero).pat else 0)) x.c }

/-- Source elements of a register: the coefficients up to the order, centre (32) and radius (33). -/
def Expn.els (x : Expn) (p : Nat) : List (Nat × Nat) :=
  (span 0 p).flatMap (fun k => [(k, (x.co k).re), (k, (x.co k).im)]) ++ [(32, x.at.re), (32, x.at.im), (33, x.radius.toNat)]

/-- An expansion register is written, readable after `n` vector cycles; the unit is busy as long (09 R259). -/
def State.wrExp (s : State) (e : EReg) (x : Expn) (n : Nat) : State :=
  ((s.updMe fun c => { c with exps := c.exps.set e.toNat x }).setReady (kE e) (s.vCycles n)).setReady kExp (s.vCycles n)

/-- Flags are raised, and the register gets its new contents. -/
def finishExp (e : EReg) (n : Nat) (r : Fx Expn) : Eff := fun s => do
  let s1 ← raiseFlags r.2 s
  .ok (s1.wrExp e r.1 n)

/-- Kinds as a word requires them, else EXP_KIND with the word (09 R258). -/
def needKind (ok : Bool) (i : Instr) (s : State) : Except Halt Unit := check ok .expKind (thisWord s .v i)

/-- A word of the expansion group on two registers. -/
def expPair (d a : EReg) (eff : Expn → Expn → Eff) : State → Out :=
  word .v [kExp, kE d, kE a] fun s => eff (s.exp d) (s.exp a) s

/-! ### The expansion group (09 R252) -/

/-- `ECLR`. -/
def execEclr (d : EReg) : State → Out :=
  word .v [kExp, kE d] fun s => .ok (s.wrExp d { s.exp d with c := .fill 0, radius := 0 } 2)

/-- The new coefficients of `ESHIFT`. -/
def m2m (rm : Rm) (p : Nat) (d a : Expn) : Fx (List Cx) :=
  (csub rm a.at d.at).bind fun z0 => (powers rm z0 p).bind fun pw =>
  mapFx (fun l =>
    let first : Fx Cx := if l = 0 then Fx.pure (a.co 0)
      else (cmul rm (a.co 0) (pw.getD l Cx.zero)).bind fun x => (cdivn rm x l).bind fun x => Fx.pure (cneg x)
    (sumOver rm first (span 1 l) fun k => (cmul rm (a.co k) (pw.getD (l - k) Cx.zero)).bind fun x => cmuln rm x (binom (l - 1) (k - 1))).bind
      fun s => cadd rm (d.co l) s) (span 0 p)

/-- `ESHIFT`. -/
def execEshift (d a : EReg) : State → Out :=
  expPair d a fun x y s => do
    needKind (!x.isLocal && !y.isLocal) (.eshift d a) s
    let p := s.ord
    needSane .f32 (x.els p ++ y.els p) s
    let r := maxRadius (x.radius.toNat, noFlags) (distUp y.at x.at y.radius.toNat)
    let cs := m2m s.me.src.rm p x y
    finishExp d ((p + 1) * (p + 2) / 2 + 8) ({ x with radius := BitVec.ofNat 32 r.1 }.withCo p cs.1, r.2.or cs.2) s

/-- The new coefficients of `ECONV`. -/
def m2l (rm : Rm) (p : Nat) (d a : Expn) : Fx (List Cx) :=
  (csub rm a.at d.at).bind fun z0 => (crcp rm z0).bind fun u => (powers rm u p).bind fun pu => (powers rm (cneg u) p).bind fun pv =>
  (mapFx (fun k => cmul rm (a.co k) (pv.getD k Cx.zero)) (span 1 p)).bind fun beta =>
  let b (k : Nat) : Cx := beta.getD (k - 1) Cx.zero
  (sumOver rm ((clog rm (cneg z0)).bind fun g => cmul rm (a.co 0) g) (span 1 p) fun k => Fx.pure (b k)).bind fun s0 =>
  (cadd rm (d.co 0) s0).bind fun c0 =>
  (mapFx (fun l =>
    (sumOver rm (Fx.pure Cx.zero) (span 1 p) fun k => cmuln rm (b k) (binom (l + k - 1) (k - 1))).bind fun t =>
    ((cmul rm (a.co 0) (pu.getD l Cx.zero)).bind fun x => cdivn rm x l).bind fun x =>
    (cmul rm (pu.getD l Cx.zero) t).bind fun y => (cadd rm (cneg x) y).bind fun s => cadd rm (d.co l) s) (span 1 p)).bind fun cs =>
  Fx.pure (c0 :: cs)

/-- `ECONV`. -/
def execEconv (d a : EReg) : State → Out :=
  expPair d a fun x y s => do
    needKind (x.isLocal && !y.isLocal) (.econv d a) s
    let p := s.ord
    needSane .f32 (x.els p ++ y.els p) s
    let cs := m2l s.me.src.rm p x y
    finishExp d ((p + 1) * (p + 2) + 16) (x.withCo p cs.1, cs.2) s

/-- The new coefficients of `ELSHIFT`. -/
def l2l (rm : Rm) (p : Nat) (d a : Expn) : Fx (List Cx) :=
  (csub rm a.at d.at).bind fun z0 => (powers rm (cneg z0) p).bind fun pm =>
  mapFx (fun l =>
    (sumOver rm (Fx.pure Cx.zero) (span l p) fun k => (cmul rm (a.co k) (pm.getD (k - l) Cx.zero)).bind fun x => cmuln rm x (binom k l)).bind
      fun s => cadd rm (d.co l) s) (span 0 p)

/-- `ELSHIFT`. -/
def execElshift (d a : EReg) : State → Out :=
  expPair d a fun x y s => do
    needKind (x.isLocal && y.isLocal) (.elshift d a) s
    let p := s.ord
    needSane .f32 (x.els p ++ y.els p) s
    let cs := l2l s.me.src.rm p x y
    finishExp d ((p + 1) * (p + 2) / 2 + 8) (x.withCo p cs.1, cs.2) s

/-- `EADD`. -/
def execEadd (d a : EReg) : State → Out :=
  expPair d a fun x y s => do
    needKind (x.isLocal == y.isLocal) (.eadd d a) s
    check (x.centre == y.centre) .expCentre (thisWord s .v (.eadd d a))
    let p := s.ord
    needSane .f32 (x.els p ++ y.els p) s
    let cs := mapFx (fun l => cadd s.me.src.rm (x.co l) (y.co l)) (span 0 p)
    let r := maxRadius (x.radius.toNat, noFlags) (y.radius.toNat, noFlags)
    finishExp d 2 ({ x with radius := BitVec.ofNat 32 r.1 }.withCo p cs.1, r.2.or cs.2) s

/-- `EORD`. -/
def execEord (n : BitVec 5) : State → Out :=
  word .v [kExp] fun s => .ok ((s.updR fun r => { r with eord := n }).setReady kExp (s.vCycles 2))

/-! ### Forming and evaluating (09 R253-R255) -/

/-- A C64 element of a vector. -/
def cxAt (v : BitVec 2048) (i : Nat) : Cx := Cx.of (BitVec.ofNat 64 (elemAt 8 v i))

/-- One source of `EFORM`. -/
def formOne (rm : Rm) (p : Nat) (x : Fx Expn) (z q : Cx) : Fx Expn :=
  x.bind fun e =>
    let r := maxRadius (e.radius.toNat, noFlags) (distUp z e.at 0)
    (csub rm z e.at).bind fun t => (cadd rm (e.co 0) q).bind fun c0 =>
    let step (st : Fx (Cx × List Cx)) (k : Nat) : Fx (Cx × List Cx) :=
      st.bind fun wl => (cmul rm wl.1 t).bind fun w => (cdivn rm w k).bind fun x => (csub rm (e.co k) x).bind fun c => Fx.pure (w, wl.2 ++ [c])
    ((span 1 p).foldl step (Fx.pure (q, [c0]))).bind fun wl =>
    ({ e with radius := BitVec.ofNat 32 r.1 }.withCo p wl.2, r.2)

/-- `EFORM`. -/
def execEform (d : EReg) (a b : VReg) (p : PReg) : State → Out :=
  vGuarded p [a, b] (fun _ => [kExp, kE d]) (fun s => s.ety == .c64) fun vs act s => do
    let x := s.exp d
    let z := vs.getD 0 0
    let q := vs.getD 1 0
    needKind (!x.isLocal) (.eform d a b p) s
    needSane .c64 (pick .c64 z act ++ pick .c64 q act) s
    needSane .f32 (x.els s.ord) s
    let r := act.foldl (fun e i => formOne s.me.src.rm s.ord e (cxAt z i) (cxAt q i)) (Fx.pure (x.withCo s.ord ((span 0 s.ord).map x.co)))
    finishExp d (s.vl * (s.ord + 1) + 8) r s

/-- The value of an expansion at a position. -/
def evalExp (rm : Rm) (p : Nat) (e : Expn) (z : Cx) : Fx Cx :=
  (csub rm z e.at).bind fun t =>
  let horner (y : Cx) (ks : List Nat) : Fx Cx :=
    ks.foldl (fun s k => s.bind fun s => (cmul rm s y).bind fun x => cadd rm x (e.co k)) (Fx.pure (e.co p))
  if e.isLocal then horner t (span 0 (p - 1)).reverse
  else (crcp rm t).bind fun u => (horner u (span 1 (p - 1)).reverse).bind fun s =>
    (cmul rm s u).bind fun x => (clog rm t).bind fun g => (cmul rm (e.co 0) g).bind fun y => cadd rm x y

/-- Results of a word of the expansion unit to a vector. -/
def expToVec (d : VReg) (n : Nat) (used : List (Nat × Nat)) (res : List (Nat × Fx Cx)) : Eff := fun s => do
  let s1 ← vWrite d 8 n used (res.map fun r => (r.1, r.2.1.pat.toNat, r.2.2)) s
  .ok (s1.setReady kExp (s.vCycles n))

/-- `EEVAL`. -/
def execEeval (d a : VReg) (b : EReg) (p : PReg) : State → Out :=
  vGuarded p [a] (fun s => [kExp, kE b, kV (s.pv d)]) (fun s => s.ety == .c64) fun vs act s => do
    let z := vs.getD 0 0
    let o := s.oldV d
    needSane .f32 ((s.exp b).els s.ord) s
    expToVec d (s.vl * (s.ord + 2) + 16) (pick .c64 z act ++ pick .c64 o act)
      (act.map fun i => (i, (evalExp s.me.src.rm s.ord (s.exp b) (cxAt z i)).bind fun v => cadd s.me.src.rm (cxAt o i) v)) s

/-- Two C64 values are equal as values. -/
def cxSame (x y : Cx) : Bool := (fCmp fmtF32 .eq x.re y.re).1 && (fCmp fmtF32 .eq x.im y.im).1

/-- `EP2P`: charges stand in the next name, or the next queue entry. -/
def execEp2p (d a b : VReg) (p : PReg) : State → Out :=
  vGuarded p (if b.toNat < 60 then [a, b, b + 1] else [a, b, b]) (fun s => [kExp, kV (s.pv d)]) (fun s => s.ety == .c64) fun vs act s => do
    let z := vs.getD 0 0
    let y := vs.getD 1 0
    let q := vs.getD 2 0
    let o := s.oldV d
    let js := List.range s.vl
    let rm := s.me.src.rm
    let one (i : Nat) : Fx Cx := js.foldl (fun acc j =>
      if cxSame (cxAt z i) (cxAt y j) then acc else
      (csub rm (cxAt z i) (cxAt y j)).bind fun t => (clog rm t).bind fun g => (cmul rm (cxAt q j) g).bind fun x => acc.bind fun v => cadd rm v x)
      (Fx.pure (cxAt o i))
    expToVec d (s.vl * s.vl + 16) (pick .c64 z act ++ pick .c64 o act ++ pick .c64 y js ++ pick .c64 q js) (act.map fun i => (i, one i)) s

/-! ### Admissibility (09 R256) -/

/-- The comparison over the extended reals. -/
def admissible (eta : Nat) (a b : Expn) : Bool :=
  let f := fmtF32
  let ops := [a.radius.toNat, b.radius.toNat, a.at.re, a.at.im, b.at.re, b.at.im, eta]
  if ops.any f.isNan then false else
  let sub (x y : Nat) : Option Val := sumVals .rne [some (f.val x), some (negVal (f.val y))]
  match sumVals .rne [some (f.val a.radius.toNat), some (f.val b.radius.toNat)], sub a.at.re b.at.re, sub a.at.im b.at.im with
  | some l, some dx, some dy =>
    let isInf (v : Val) : Bool := match v with | .inf _ => true | _ => false
    let far := isInf dx || isInf dy
    let x := unitsOf (f.val a.at.re) - unitsOf (f.val b.at.re)
    let y := unitsOf (f.val a.at.im) - unitsOf (f.val b.at.im)
    let d2 : Int := x * x + y * y
    match f.val eta with
    | .inf neg => if !far && d2 == 0 then false else if neg then l == .inf true else true
    | .fin neg m e =>
      if far then (if m = 0 then false else if neg then l == .inf true else true)
      else match l with
        | .inf s => s
        | _ =>
          let s := unitsOf (f.val a.radius.toNat) + unitsOf (f.val b.radius.toNat)
          let h := unitsOf (.fin false m e)
          -- l <= eta D with l = s u, D = sqrt(d2) u and eta = h u, u = 2^-149
          let l2 := s * s * (2 ^ 298 : Nat)
          let r2 := h * h * d2
          if neg then (if 0 < s then false else decide (r2 ≤ l2)) else (if s ≤ 0 then true else decide (l2 ≤ r2))
    | .nan => false
  | _, _, _ => false

/-- `EADMIT`. -/
def execEadmit (d : PReg) (a b : EReg) : State → Out :=
  word .v [kShape, kExp, kE a, kE b] fun s => do
    let x := s.exp a
    let y := s.exp b
    let els (e : Expn) : List (Nat × Nat) := [(32, e.at.re), (32, e.at.im), (33, e.radius.toNat)]
    needSane .f32 (els x ++ els y) s
    .ok ((s.wrP d (if admissible s.me.src.eta.toNat x y then List.range s.vl else []) 4).setReady kExp (s.vCycles 4))

/-! ### Loading and storing (09 R250, R257) -/

/-- The 8-byte word `i` of a record. -/
def Expn.word (x : Expn) (i : Nat) : Nat :=
  if i < 32 then (x.c.get i).toNat else if i = 32 then x.centre.toNat else x.radius.toNat + boolNat x.isLocal * 2 ^ 32

/-- `ELD`: coefficients above the order are cleared. -/
def execEld (d : EReg) (x : XdReg) : State → Out :=
  word .v [kExp, kE d] fun s => do
    let (a, s1) ← oneElement x 272 8 false s
    let keep (e : ElAddr) : Dest := .exp d.toNat (if s.ord < e.i ∧ e.i < 32 then 34 else e.i)
    let r ← vLoads 8 3 (toBytes 8 (poisonWord .f32)) keep (pieces a 272 8)
      (s1.updMe fun c => { c with exps := c.exps.set d.toNat ((s.exp d).withCo s.ord ((span 0 s.ord).map (s.exp d).co)) })
    let s2 ← atElement a (finishLoads s r)
    .ok (((r.settle kExp (r.lat + 3) false s2).setReady (kE d) 0).advance x 272)

/-- `EST`. -/
def execEst (d : EReg) (x : XdReg) : State → Out :=
  word .v [kExp, kE d] fun s => do
    let (a, s1) ← oneElement x 272 8 true s
    needSane .f32 ((s.exp d).els 31) s
    let s2 ← (pieces a 272 8).foldlM (fun s e => laneStore .v e.a (toBytes 8 ((s.exp d).word e.i)) true s) s1
    let (lat, s3) := match locate s1.lanes a 8 true true false s2 with
      | .ok (l, t) => loadLat t s.focus l
      | .error _ => (0, s2)
    .ok ((s3.setReady kExp (s.vCycles (lat + 3))).advance x 272)

end Sys2Proof.Machine
end

