-- ==== Sys2Proof/Machine/Turntable.lean ====
section
/-! DEFINITION. The Turntable: bindings, the map, the command queue, gates, swaps and reductions (09 R236-R249). -/

namespace Sys2Proof.Machine

open Sys2Proof

/-! ### Bindings and the map (09 R236-R239) -/

/-- Bytes of an element. -/
def Binding.width (b : Binding) : Nat := match b.ety with | 0 => 8 | 1 => 4 | _ => 2
/-- Logical index bits. -/
def Binding.nbits (b : Binding) : Nat := b.v + b.c + b.g + b.p
/-- The bound physical bits, in the order of the canonical map. -/
def Binding.physBits (b : Binding) : List Nat :=
  List.range b.v ++ (List.range b.c).map (19 + ·) ++ (List.range b.g).map (22 + ·) ++ (List.range b.p).map (29 + ·)

/-- The binding that a record of 32 bytes gives, and whether its zero fields are zero; PKG0 is ignored with P = 0. -/
def bindingOf (r : Nat) : Binding × Bool :=
  let x : BitVec 256 := BitVec.ofNat 256 r
  let p := (bits x 56 8).toNat
  ({ base := (bits x 0 32).toNat, v := (bits x 32 8).toNat, c := (bits x 40 8).toNat, g := (bits x 48 8).toNat,
     p := p, ety := (bits x 64 8).toNat, pkg0 := if p = 0 then 0 else (bits x 96 16).toNat },
   bits x 72 24 == 0 && bits x 112 144 == 0)

/-- The record does not fail for cluster `cl` of package `pkg` (09 R237). -/
def Binding.ok (b : Binding) (cl pkg : Nat) : Bool :=
  decide (0 < b.nbits) && decide (b.v ≤ 19) && decide (b.c ≤ 3) && decide (b.g ≤ 7) && decide (b.p ≤ 9) && decide (b.ety ≤ 2)
    && b.base % 256 == 0 && decide (b.base + b.width * 2 ^ b.v ≤ 2 ^ 22) && decide (b.pkg0 + 2 ^ b.p ≤ 512)
    && (b.g == 0 || decide (cl < 2 ^ b.g)) && (b.p == 0 || (decide (b.pkg0 ≤ pkg) && decide (pkg < b.pkg0 + 2 ^ b.p)))

abbrev TurnMap := Tab (BitVec 6)

/-- Physical bit of a logical bit. -/
def physBit (m : TurnMap) (i : Nat) : Nat := (m.get i).toNat

/-- The canonical map of a binding. -/
def Binding.canonical (b : Binding) : TurnMap :=
  { dflt := 0x3F, rows := b.physBits.zipIdx.map fun p => (p.2, BitVec.ofNat 6 p.1) }

/-- The map is valid. -/
def Binding.mapOk (b : Binding) (m : TurnMap) : Bool :=
  let l := (List.range b.nbits).map (physBit m)
  decide l.Nodup && l.all b.physBits.contains

/-- Physical index of a logical index of `n` bits. -/
def physOf (m : TurnMap) (n x : Nat) : Nat := (List.range n).foldl (fun q i => if natBit x i then q + 2 ^ physBit m i else q) 0

/-- Core `k` of a package cluster index. -/
def coreIn (cl k : Nat) : CoreId := BitVec.ofNat 11 (cl / 72 * 1024 + cl % 72 / 18 * 256 + cl % 18 * 8 + k)

/-- Cluster of a physical index, for commands of cluster `own`. -/
def Binding.clusterAt (b : Binding) (own q : Nat) : Nat := if b.g = 0 then own else q / 2 ^ 22 % 128

/-- The elements of another package's vaults, while a command that needs them is performed, by package index. -/
def keyFar (pk : Nat) : Nat := (pk + 1) * 2 ^ 40

/-- Where a command works: the binding, the cluster that holds its map, the clusters whose elements it handles, the package's place
among the members, and whether the other packages' elements are at hand. -/
structure Bench where
  b : Binding
  own : Nat
  cls : List Nat
  pkg : Nat
  far : Bool

/-- Memory key of the element of a physical index. -/
def Bench.keyAt (w : Bench) (q : Nat) : Nat :=
  let k := keyVault (coreIn (w.b.clusterAt w.own q) (q / 2 ^ 19 % 8)) (w.b.base + w.b.width * (q % 2 ^ 19))
  if q / 2 ^ 29 = w.pkg then k else k + keyFar (q / 2 ^ 29)

/-- The element of a physical index is one that the command handles. -/
def Bench.mine (w : Bench) (q : Nat) : Bool := w.cls.contains (w.b.clusterAt w.own q) && (w.far || q / 2 ^ 29 == w.pkg)

/-- Logical indexes of the bound state. -/
def Bench.all (w : Bench) : List Nat := List.range (2 ^ w.b.nbits)

/-! ### Elements -/

/-- Format of a real element, or of a part. -/
def Binding.fmt (b : Binding) : Fmt := if b.ety = 2 then fmtBf16 else fmtF32
def Binding.ety' (b : Binding) : EType := match b.ety with | 0 => .c64 | 1 => .f32 | _ => .bf16

/-- An element; uncorrectable data reads as poison, or as the canonical NaN for BF16 (19 R418). -/
def Bench.amp (w : Bench) (s : State) (q : Nat) : Nat :=
  let k := w.keyAt q
  if (s.badWords k w.b.width).isEmpty then s.peekN k w.b.width else poisonPat w.b.ety'

def Bench.put (w : Bench) (s : State) (q x : Nat) : State := s.poke (w.keyAt q) (toBytes w.b.width x)

/-- The uncorrectable words among elements are counted for the die (19 R418). -/
def Bench.count (w : Bench) (qs : List Nat) (s : State) : State :=
  if s.ue.isEmpty then s else
  let n := ((qs.flatMap fun q => s.badWords (w.keyAt q) w.b.width).eraseDups).length
  s.updDie (w.own / 72) fun d => { d with uedata := d.uedata + n }

/-- The exact sum of matrix element times amplitude over pairs, rounded once (09 R246): complex parts to binary32, real
values to binary32 or BF16. -/
def gateSum (b : Binding) (ps : List (Nat × Nat)) : Nat :=
  if b.ety = 0 then
    let parts := ps.map fun p => (p.1 % 2 ^ 32, p.1 / 2 ^ 32, p.2 % 2 ^ 32, p.2 / 2 ^ 32)
    let ops := parts.flatMap fun (ur, ui, ar, ai) => [(fmtF32, ur), (fmtF32, ui), (fmtF32, ar), (fmtF32, ai)]
    let v := fmtF32.val
    let re := parts.flatMap fun (ur, ui, ar, ai) => [mulVal (v ur) (v ar), mulVal (negVal (v ui)) (v ai)]
    let im := parts.flatMap fun (ur, ui, ar, ai) => [mulVal (v ur) (v ai), mulVal (v ui) (v ar)]
    (fpSum fmtF32 .rne ops re).1 + (fpSum fmtF32 .rne ops im).1 * 2 ^ 32
  else
    let ops := ps.flatMap fun p => [(fmtF32, p.1 % 2 ^ 32), (b.fmt, p.2)]
    (fpSum b.fmt .rne ops (ps.map fun p => mulVal (fmtF32.val (p.1 % 2 ^ 32)) (b.fmt.val p.2))).1

/-! ### Swaps (09 R247) -/

/-- Exchange of the physical positions of two physical bits in the data. -/
def Bench.swapData (w : Bench) (m : TurnMap) (pu pv : Nat) (s : State) : State :=
  if pu = pv then s else
  let qs := (w.all.map (physOf m w.b.nbits)).filter fun q => natBit q pu && !natBit q pv && w.mine q
  let s := w.count (qs.flatMap fun q => [q, q - 2 ^ pu + 2 ^ pv]) s
  qs.foldl (fun s q =>
    let r := q - 2 ^ pu + 2 ^ pv
    let x := w.amp s q
    let y := w.amp s r
    w.put (w.put s q y) r x) s

def swapMap (m : TurnMap) (u v : Nat) : TurnMap := (m.set u (m.get v)).set v (m.get u)

/-- The swaps that a gate with targets `ts` makes first: pairs of logical bits, and the map after them (09 R246). -/
def swapsOf (b : Binding) (ts : List Nat) : List Nat → TurnMap → List (Nat × Nat) × TurnMap
  | [], m => ([], m)
  | t :: rest, m =>
    if physBit m t < b.v then swapsOf b ts rest m
    else
      match ((List.range b.v).reverse.find? fun q => !(ts.map (physBit m)).contains q) with
      | none => swapsOf b ts rest m
      | some q => match (List.range b.nbits).find? fun u => physBit m u == q with
        | none => swapsOf b ts rest m
        | some u => let r := swapsOf b ts rest (swapMap m t u); ((t, u) :: r.1, r.2)

/-- The swaps made in order, each with the map as it stands. -/
def Bench.runSwaps (w : Bench) : List (Nat × Nat) → TurnMap → State → State
  | [], _, s => s
  | (u, v) :: t, m, s => w.runSwaps t (swapMap m u v) (w.swapData m (physBit m u) (physBit m v) s)

/-! ### Gates (09 R246) -/

/-- Targets of a gate: `sa[6j + 5:6j]`. -/
def targets (k : Nat) (sa : Word) : List Nat := (List.range k).map fun j => (bits sa (6 * j) 6).toNat

/-- `spread(m)`. -/
def spread (ts : List Nat) (m : Nat) : Nat := ts.zipIdx.foldl (fun x t => if natBit m t.2 then x + 2 ^ t.1 else x) 0

def Gate.at (g : Gate) (row col : Nat) : Nat := (g.el.get (16 * row + col)).toNat

/-- A gate on local targets under the map `m`. -/
def Bench.applyGate (w : Bench) (m : TurnMap) (g : Gate) (ts : List Nat) (cm : Nat) (s : State) : State :=
  let n := 2 ^ g.k.toNat
  let ph (x : Nat) : Nat := physOf m w.b.nbits x
  let xs := w.all.filter fun x => ts.all (fun t => !natBit x t) && x &&& cm == cm && w.mine (ph x)
  let s := w.count (xs.flatMap fun x => (List.range n).map fun j => ph (x + spread ts j)) s
  xs.foldl (fun s x =>
    let as := (List.range n).map fun j => w.amp s (ph (x + spread ts j))
    (List.range n).foldl (fun s j => w.put s (ph (x + spread ts j)) (gateSum w.b (as.zipIdx.map fun a => (g.at j a.2, a.1)))) s) s

/-- A diagonal gate: each element by the diagonal entry that its target bits select. -/
def Bench.applyDiag (w : Bench) (m : TurnMap) (g : Gate) (ts : List Nat) (s : State) : State :=
  let xs := w.all.filter fun x => w.mine (physOf m w.b.nbits x)
  let s := w.count (xs.map (physOf m w.b.nbits)) s
  xs.foldl (fun s x =>
    let j := ts.zipIdx.foldl (fun j t => if natBit x t.1 then j + 2 ^ t.2 else j) 0
    let q := physOf m w.b.nbits x
    w.put s q (gateSum w.b [(g.at j j, w.amp s q)])) s

/-! ### Reductions (09 R248) -/

/-- The exact sum of squared magnitudes of elements, rounded once to binary64. -/
def normOf (b : Binding) (as : List Nat) : Nat :=
  let ops := if b.ety = 0 then as.flatMap fun a => [(fmtF32, a % 2 ^ 32), (fmtF32, a / 2 ^ 32)] else as.map fun a => (b.fmt, a)
  (fpSum fmtF64 .rne ops (ops.map fun o => mulVal (o.1.val o.2) (o.1.val o.2))).1

/-- The elements that `TPROB` selects: the bits named, and the values they must have. -/
def probBits (sa : Word) : List (Nat × Bool) :=
  (List.range (bits sa 24 3).toNat).map fun j => ((bits sa (6 * j) 6).toNat, sa.getLsbD (28 + j))

/-- Physical indexes of the elements: the logical ones that meet the bits, or every element of the bound positions. -/
def Bench.selected (w : Bench) (m : TurnMap) (l : List (Nat × Bool)) : List Nat :=
  ((w.all.filter fun x => l.all fun p => natBit x p.1 == p.2).map (physOf m w.b.nbits)).filter w.mine

/-! ### Checks of a queued command (09 R244) -/

/-- The cause of the first row that holds, of those that the command and its binding decide. -/
def TurnCmd.fault (c : TurnCmd) (b : Binding) (m : TurnMap) : Option Cause :=
  let n := b.nbits
  match c.op with
  | .gate diag ctl md g =>
    let k := g.k.toNat
    let ts := targets k c.sa
    let cm := if ctl then c.sd.toNat % 2 ^ 40 else 0
    if md.code != b.ety || (md.code == 0) == g.real then some .turnMode
    else if ts.any (fun t => decide (n ≤ t)) || !decide ts.Nodup || decide (2 ^ n ≤ cm) || ts.any (natBit cm) || (!diag && decide (b.v < k)) then
      some .turnBits
    else if b.mapOk m then none else some .turnMap
  | .swap =>
    if n ≤ (bits c.sa 0 6).toNat ∨ n ≤ (bits c.sa 8 6).toNat then some .turnBits
    else if b.mapOk m then none else some .turnMap
  | .prob =>
    let l := (probBits c.sa).map Prod.fst
    if 5 ≤ (bits c.sa 24 3).toNat ∨ l.any (fun t => decide (n ≤ t)) ∨ ¬ l.Nodup then some .turnBits
    else if b.mapOk m then none else some .turnMap
  | .norm md => if md.code != b.ety then some .turnMode else none
  | .bind _ | .map _ | .wait => none

/-- Physical bits whose exchange the command needs, as pairs of physical bits. -/
def TurnCmd.moves (c : TurnCmd) (b : Binding) (m : TurnMap) : List (Nat × Nat) :=
  match c.op with
  | .gate false _ _ g =>
    let ts := targets g.k.toNat c.sa
    ((swapsOf b ts ts m).1.foldl (fun (r : List (Nat × Nat) × TurnMap) p =>
      (r.1 ++ [(physBit r.2 p.1, physBit r.2 p.2)], swapMap r.2 p.1 p.2)) ([], m)).1
  | .swap =>
    let u := (bits c.sa 0 6).toNat
    let v := (bits c.sa 8 6).toNat
    if u = v then [] else [(physBit m u, physBit m v)]
  | _ => []

def TurnCmd.reduces (c : TurnCmd) : Bool := match c.op with | .prob | .norm _ => true | _ => false

/-- The command exchanges a physical bit of [lo, hi). -/
def TurnCmd.exchanges (c : TurnCmd) (b : Binding) (m : TurnMap) (lo hi : Nat) : Bool :=
  (c.moves b m).any fun p => decide (lo ≤ p.1 ∧ p.1 < hi) || decide (lo ≤ p.2 ∧ p.2 < hi)

/-- The command needs data or a partial result of another member: of a cluster, of a package (09 R243). -/
def TurnCmd.needsCluster (c : TurnCmd) (b : Binding) (m : TurnMap) : Bool := c.exchanges b m 22 29 || (c.reduces && decide (0 < b.g))
def TurnCmd.needsPackage (c : TurnCmd) (b : Binding) (m : TurnMap) : Bool := c.exchanges b m 29 64 || (c.reduces && decide (0 < b.p))

/-- Two members' commands agree in everything that is copied. -/
def TurnCmd.same (c d : TurnCmd) : Bool := c.op == d.op && c.sa == d.sa && c.sd == d.sd

/-- Lane cycles of a command that no other member takes part in (09 R249). -/
def TurnCmd.cycles (c : TurnCmd) (b : Binding) (m : TurnMap) : Nat :=
  let a := 2 ^ (b.v + b.c)
  let per (n : Nat) : Nat := (a + n - 1) / n
  let rate (n : Nat) : Nat := if b.ety = 2 then (n + 1) / 2 else n
  let move (p : Nat × Nat) : Nat :=
    if 22 ≤ p.1 ∨ 22 ≤ p.2 then 0
    else rate (per (if 19 ≤ p.1 ∧ 19 ≤ p.2 then 8 else if 19 ≤ p.1 ∨ 19 ≤ p.2 then 16 else 32))
  let moves := ((c.moves b m).map move).foldl (· + ·) 0
  match c.op with
  | .bind _ | .map _ => 4
  | .gate true _ _ _ => rate (per 32)
  | .gate false _ _ g => moves + rate (per 32 * (match g.k.toNat with | 3 => 2 | 4 => 4 | _ => 1))
  | .swap => moves
  | .prob | .norm _ => if b.g + b.p = 0 then rate (per 32 + 16) else 0
  | .wait => 0

/-! ### Performing commands (09 R240, R243, R244) -/

def State.turn (s : State) (cl : Nat) : Turntable := (s.cluster cl).turn
def State.updTurn (s : State) (cl : Nat) (f : Turntable → Turntable) : State := s.updCluster cl fun k => { k with turn := f k.turn }

/-- The command of a cluster leaves its queue at pulse `p`; one of a binding of several clusters is remembered. -/
def Turntable.leave (t : Turntable) (c : TurnCmd) (p : Nat) : Turntable :=
  let many := c.op != .wait && match t.bound with | some b => decide (0 < b.g) | none => false
  { t with queue := t.queue.filter fun q => q.num != c.num, free := p, past := if many then t.past ++ [c] else t.past,
           peers := t.peers.filter fun q => q.nb != c.nb }

/-- A cause is recorded for the core of a command; one not yet raised stands. -/
def Turntable.blameCore (t : Turntable) (c : CoreId) (x : Cause × Word) : Turntable :=
  { t with blame := t.blame.upd c.toNat fun o => match o with | some y => some y | none => some x }

/-- The command is discarded, or not performed: its cause stands for the binding and for its core. -/
def Turntable.fail (t : Turntable) (c : TurnCmd) (cause : Cause) (p : Nat) : Turntable :=
  let x := match t.failed with | some y => y | none => (cause, c.sa)
  ({ t with failed := some x }.leave c p).blameCore c.core x

/-- What the data side of a command does, and the map after it. -/
def Bench.perform (w : Bench) (c : TurnCmd) (m : TurnMap) (s : State) : TurnMap × State :=
  match c.op with
  | .gate false ctl _ g =>
    let ts := targets g.k.toNat c.sa
    let sw := swapsOf w.b ts ts m
    (sw.2, w.applyGate sw.2 g ts (if ctl then c.sd.toNat % 2 ^ 40 else 0) (w.runSwaps sw.1 m s))
  | .gate true _ _ g => (m, w.applyDiag m g (targets g.k.toNat c.sa) s)
  | .swap =>
    let u := (bits c.sa 0 6).toNat
    let v := (bits c.sa 8 6).toNat
    (swapMap m u v, w.swapData m (physBit m u) (physBit m v) s)
  | _ => (m, s)

/-- The elements that a reduction sums, at the bound positions under the map (for `TNORM`: the canonical map, which reaches
every element whatever the map). -/
def Bench.reduce (w : Bench) (c : TurnCmd) (m : TurnMap) (s : State) : Option (Word × State) :=
  let sum (qs : List Nat) : Word × State := (BitVec.ofNat 64 (normOf w.b (qs.map (w.amp s))), w.count qs s)
  match c.op with
  | .prob => some (sum (w.selected m (probBits c.sa)))
  | .norm _ => some (sum (w.selected w.b.canonical []))
  | _ => none

/-- What the members of other packages have sent for command `nb` to the clusters `cls`: cluster and message. -/
def State.peersOf (s : State) (cls : List Nat) (nb : Nat) : List (Nat × TurnPeer) :=
  cls.flatMap fun k => ((s.turn k).peers.filter fun p => p.nb == nb).map fun p => (k, p)

/-- Package index of this package among the members. -/
def State.memberNo (s : State) (b : Binding) : Nat := if b.p = 0 then 0 else s.pkg.pkgid.toNat - b.pkg0

/-- The elements that the members of other packages hold stand where the command finds them. -/
def Bench.lay (w : Bench) (ps : List (Nat × TurnPeer)) (s : State) : State :=
  ps.foldl (fun s p => p.2.data.foldl (fun s e =>
    w.put s (e.1 % 2 ^ 22 + (if w.b.g = 0 then 0 else p.1 * 2 ^ 22) + p.2.pkg * 2 ^ 29) e.2) s) s

/-- They are no longer needed. -/
def State.unlay (s : State) (far : Bool) : State := if far then s.zero (2 ^ 54 + 2 ^ 40) (2 ^ 50) else s

/-- A command that passes its checks is performed for the clusters `cls`; `far`: with the elements of the other packages. -/
def State.turnDo (s : State) (cl : Nat) (c : TurnCmd) (b : Binding) (cls : List Nat) (far : Bool) : State :=
  let w : Bench := { b := b, own := cl, cls := cls, pkg := s.memberNo b, far := far }
  let m := (s.turn cl).map
  let r := w.perform c m (if far then w.lay (s.peersOf cls c.nb) s else s)
  let (res, s1) := match w.reduce c m r.2 with | some x => (some x.1, x.2) | none => (none, r.2)
  cls.foldl (fun s k => s.updTurn k fun t =>
    match t.queue with
    | [] => t
    | d :: _ =>
      let t := { t with map := r.1, results := match res with | some v => t.results ++ [(d.num, v)] | none => t.results }
      t.leave d (s.pulses k)) (s1.unlay far)

/-- The head of a cluster's queue and the pulse on which it completes when no other member takes part. -/
def State.turnDue (s : State) (cl : Nat) : Option (TurnCmd × Nat) :=
  let t := s.turn cl
  match t.queue with
  | [] => none
  | c :: _ =>
    let from_ := max c.at_ t.free
    some (c, match t.failed, t.bound with
      | none, some b => (match c.fault b t.map with
        | some _ => from_
        | none => from_ + c.cycles b t.map + if c.needsCluster b t.map || c.needsPackage b t.map then c.lat else 0)
      | _, _ => match c.op with | .bind _ => from_ + 4 | _ => from_)

/-- How another member stands towards a command that needs it (09 R243). -/
inductive Member where
  | ready | wait | differs
deriving DecidableEq, Repr

def State.memberFor (s : State) (c : TurnCmd) (b : Binding) (m : TurnMap) (k : Nat) : Member :=
  let t := s.turn k
  if t.bound != some b then .wait
  else if t.past.any fun d => d.nb == c.nb then .differs
  else match s.turnDue k with
    | none => .wait
    | some (d, p) =>
      if d.nb != c.nb then .wait
      else if t.failed.isSome || !(c.same d) || (List.range b.nbits).any (fun i => physBit t.map i != physBit m i) then .differs
      else if p ≤ s.pulses k then .ready else .wait

/-- How the members of other packages stand towards a command that needs them. -/
def State.peersFor (s : State) (c : TurnCmd) (b : Binding) (cls : List Nat) : Member :=
  let ps := s.peersOf cls c.nb
  if ps.any fun p => !(p.2.op == c.op && p.2.sa == c.sa && p.2.sd == c.sd) then .differs
  else if cls.all fun k => ((List.range (2 ^ b.p)).filter (· != s.memberNo b)).all fun j => ps.any fun p => p.1 == k && p.2.pkg == j then .ready
  else .wait

/-- A command whose members differ is performed in none of the clusters. -/
def State.turnMismatch (s : State) (c : TurnCmd) (b : Binding) (cls : List Nat) : State :=
  cls.foldl (fun s k => s.updTurn k fun t =>
    if t.bound != some b then t else
    match t.queue with
    | d :: _ => if d.nb = c.nb then t.fail d .turnMismatch (s.pulses k) else t
    | [] => match t.past.find? fun d => d.nb == c.nb with
      | some d => if t.failed.isNone then { t with failed := some (.turnMismatch, d.sa) }.blameCore d.core (.turnMismatch, d.sa) else t
      | none => t) s

/-- A command that passes its checks is performed once the members it needs are ready (09 R243). -/
def State.turnJoin (s : State) (cl : Nat) (c : TurnCmd) (b : Binding) : State :=
  let m := (s.turn cl).map
  let near := c.needsCluster b m
  let far := c.needsPackage b m
  let cls := if near then List.range (2 ^ b.g) else [cl]
  let ks := (cls.filter (· != cl)).map (s.memberFor c b m)
  let ms := if far then s.peersFor c b cls :: ks else ks
  if ms.contains .differs then s.turnMismatch c b cls
  else if ms.contains .wait then s
  else s.turnDo cl c b cls far

/-- An input (09 R243; log 56): a member of another package has reached the command of the number that the head of the cluster's queue
waits with. -/
def State.turnPeer (s : State) (cl : Nat) (p : TurnPeer) : State :=
  let t := s.turn cl
  match t.queue, t.bound with
  | c :: _, some b =>
    if c.nb = p.nb ∧ p.pkg < 2 ^ b.p ∧ p.pkg ≠ s.memberNo b ∧ (t.peers.all fun q => q.nb != p.nb || q.pkg != p.pkg) then
      s.updTurn cl fun t => { t with peers := t.peers ++ [p] }
    else s
  | _, _ => s

/-- The head of a cluster's queue is performed, discarded or failed once its time has come and the members it needs are
ready. -/
def State.turnStep (s : State) (cl : Nat) : State :=
  match s.turnDue cl with
  | none => s
  | some (c, p) =>
    if s.pulses cl < p then s else
    let t := s.turn cl
    let now := s.pulses cl
    match c.op with
    | .bind b => s.updTurn cl fun t =>
        { { t with bound := some b }.leave c now with failed := none, map := b.canonical, past := [], peers := [] }
    | .wait => s.updTurn cl fun t => t.leave c now
    | _ =>
      match t.failed, t.bound with
      | some _, _ => s.updTurn cl fun t => t.fail c .turnBind now
      | none, none => s.updTurn cl fun t => t.fail c .turnBind now
      | none, some b =>
        match c.fault b t.map with
        | some x => s.updTurn cl fun t => t.fail c x now
        | none =>
          match c.op with
          | .map n => s.updTurn cl fun t =>
              { t.leave c now with map := (List.range 10).foldl (fun m j => m.set (10 * n + j) (bits c.sa (6 * j) 6)) t.map }
          | _ =>
            s.turnJoin cl c b

/-- Every command of a cluster whose time has come is performed; `fuel` bounds them. -/
def turnSettle : Nat → Nat → State → State
  | 0, _, s => s
  | n + 1, cl, s =>
    let t := s.turnStep cl
    if (t.turn cl).queue.length = (s.turn cl).queue.length then s else turnSettle n cl t

/-- `TURNTABLE_COMMAND` (09 R240): the next queued command of a cluster is performed. -/
def execTurntableCommand : State → Out := event fun s => s.turnStep s.arg.n

/-! ### Reads of `TBIND` and `TGLD` (09 R245) -/

/-- `n` bytes at `a`: checked as an S-lane read, but for the multiple of 8, window 0x04 and the owner `turn`. -/
def turnRead (a : Word) (n : Nat) (s : State) : Except Halt (List Byte × State) := do
  check (match decodeAddr s s.focus a n false with | some (.acc _ _) | none => false | _ => true) .aperture a
  check (a.toNat % 8 == 0) .misalign a
  let ps := (List.range ((n + 7) / 8)).map fun i => (a + BitVec.ofNat 64 (8 * i), min 8 (n - 8 * i))
  let (ls, s1) ← ps.foldlM (fun (r : List (Word × Nat × Loc) × State) p => do
    let (loc, s1) ← locate { r.2.lanes with owner := .turn } p.1 p.2 false false false r.2
    .ok (r.1 ++ [(p.1, p.2, loc)], s1)) ([], s)
  let s1 ← ls.foldlM (fun s l => register s.focus l.1 l.2.2.key true false l.2.2.global s) s1
  let _ ← ls.foldlM (fun _ l => reached l.2.2 l.1 s1) ()
  let q := s1.me.lq.get (laneIdx .s)
  if !ls.all fun l => s1.me.mayLeave .s q.length (s1.sAcc l.2.2 l.2.1 false) then .error (.wait s)
  else ls.foldlM (fun (r : List Byte × State) l => do
    let s := r.2
    let k := l.2.1
    let bad := (s.badWords l.2.2.key k).filter fun w => (bare q l.2.2.key k).any fun i => w ≤ l.2.2.key + i ∧ l.2.2.key + i < w + 8
    let (bs, s2) := readAcc s s.focus q l.2.2.place l.2.2.key k ((toBytes 8 0x7FC0DEAD7FC0DEAD).take k)
    let s2 := s2.updMe fun c => { c with uedata := c.uedata + bad.length }
    if !bad.isEmpty && s.me.src.ptrap then .error (.trapIn .poison a (s1.updMe fun c => { c with uedata := s2.me.uedata }))
    else .ok (r.1 ++ bs, s2)) ([], s1)

/-- `TGLD` (09 R245); its latency is not stated (log 4). -/
def execTgld (real : Bool) (a : SReg) (g : GReg) : State → Out :=
  word .s [kS a] fun s => do
    let va := s.rdS a
    let (h, s1) ← turnRead va 8 s
    let k := leBytes h % 8
    check (decide (k ≤ 4)) .turnGate va
    let n := 2 ^ k
    let w := if real then 4 else 8
    let (bs, s2) ← turnRead (va + 8) (w * n * n) s1
    let at_ (i : Nat) : Nat := leBytes ((bs.drop (w * i)).take w)
    let el : Tab (BitVec 64) := (List.range (n * n)).foldl (fun t i => t.set (16 * (i / n) + i % n) (BitVec.ofNat 64 (at_ i))) (.fill 0)
    let (lat, s3) := s2.openLat
    .ok ((s3.updMe fun c => { c with gates := c.gates.set g.toNat { k := BitVec.ofNat 3 k, real := real, el := el } }).delay .s lat)

/-! ### Words that queue a command (09 R240) -/

/-- A command enters the queue of the own cluster: its number, and the state. -/
def State.turnPush (s : State) (op : TurnOp) (sa sd : Word) : Nat × State :=
  let t := s.myCluster.turn
  let open_ := match op, t.queued with
    | .gate _ _ _ _, some b | .swap, some b | .prob, some b | .norm _, some b => decide (0 < b.g + b.p)
    | _, _ => false
  let (lat, s) := if open_ then s.openLat else (0, s)
  let c : TurnCmd := { num := t.seq, nb := t.inBinding, at_ := s.now, lat := lat, core := s.focus, op := op, sa := sa, sd := sd, under := t.queued }
  (t.seq, s.updTurn (clusterOf s.focus) fun t =>
    { t with queue := t.queue ++ [c], seq := t.seq + 1, inBinding := (match op with | .bind _ => 0 | .wait => t.inBinding | _ => t.inBinding + 1),
             queued := match op with | .bind b => some b | _ => t.queued })

/-- The core's earlier vault writes are performed, for which the word waits as `VFENCE` does, and the queue has room (09 R240). -/
def turnReady (s : State) : Except Halt Unit :=
  let p := match s.prog .s with | .vfence p => p | _ => s.now
  if !s.me.vaultQuiet p then .error (.wait (s.setProg .s (.vfence p)))
  else if s.myCluster.turn.queue.length < 16 then .ok ()
  else .error (if s.timed || !(s.lane .s).waiting then s.notReady else .wait s)

/-- A word that queues one command and goes on. -/
def turnQueue (keys : List Nat) (op : State → TurnOp) (sa sd : State → Word) : State → Out :=
  word .s keys fun s => do
    turnReady s
    .ok (s.turnPush (op s) (sa s) (sd s)).2

def noWord : State → Word := fun _ => 0

/-- `TBIND` (09 R236, R237, R245). -/
def execTbind (a : SReg) : State → Out :=
  word .s [kS a] fun s => do
    let va := s.rdS a
    turnReady s
    let (bs, s1) ← turnRead va 32 s
    let (b, z) := bindingOf (leBytes bs)
    check (z && b.ok (clusterOf s.focus) s.pkg.pkgid.toNat) .turnBind va
    .ok (s1.turnPush (.bind b) va 0).2

/-- `TMAP` (09 R239). -/
def execTmap (n : BitVec 2) (a : SReg) : State → Out := turnQueue [kS a] (fun _ => .map n.toNat) (·.rdS a) noWord

def State.gate (s : State) (g : GReg) : Gate := s.me.gates.get g.toNat

/-- `TGATE` (09 R246). -/
def execTgate (m : TurnMode) (a : SReg) (g : GReg) : State → Out :=
  turnQueue [kS a] (fun s => .gate false false m (s.gate g)) (·.rdS a) noWord
/-- `TCGATE` (09 R246). -/
def execTcgate (m : TurnMode) (d a : SReg) (g : GReg) : State → Out :=
  turnQueue [kS a, kS d] (fun s => .gate false true m (s.gate g)) (·.rdS a) (·.rdS d)
/-- `TDIAG` (09 R246). -/
def execTdiag (m : TurnMode) (a : SReg) (g : GReg) : State → Out :=
  turnQueue [kS a] (fun s => .gate true false m (s.gate g)) (·.rdS a) noWord
/-- `TSWAP` (09 R247). -/
def execTswap (a : SReg) : State → Out := turnQueue [kS a] (fun _ => .swap) (·.rdS a) noWord

/-- The cause recorded for the core of the word, raised once (09 R244). -/
def turnBlame (s : State) : Except Halt Unit :=
  match s.myCluster.turn.blame.get s.focus.toNat with
  | none => .ok ()
  | some (c, v) => .error (.trapIn c v (s.updTurn (clusterOf s.focus) fun t => { t with blame := t.blame.set s.focus.toNat none }))

/-- A word that queues a reduction and waits for its result (09 R248). -/
def turnReduce (keys : List Nat) (op : TurnOp) (d : SReg) (sa : State → Word) : State → Out :=
  word .s keys fun s =>
    match s.prog .s with
    | .turn n =>
      match s.myCluster.turn.results.find? fun r => r.1 == n with
      | some r => do
        let s := s.updTurn (clusterOf s.focus) fun t => { t with results := t.results.filter fun x => x.1 != n }
        turnBlame s
        .ok (s.wrS d r.2 1)
      | none => do
        if s.myCluster.turn.queue.any fun q => q.num == n then .error (.wait s)
        else do
          turnBlame s
          .error (.wait s)
    | _ => do
      turnReady s
      let (n, s2) := s.turnPush op (sa s) 0
      .error (.wait (s2.setProg .s (.turn n)))

/-- `TPROB` (09 R248). -/
def execTprob (d a : SReg) : State → Out := turnReduce [kS a] .prob d (·.rdS a)
/-- `TNORM` (09 R248). -/
def execTnorm (m : TurnMode) (d : SReg) : State → Out := turnReduce [] (.norm m) d noWord

/-- `TWAIT` (09 R240, R241): it enters the queue as the other commands do, and completes at its turn (log 57). -/
def execTwait : State → Out :=
  word .s [] fun s =>
    match s.prog .s with
    | .turn n => do
      if s.myCluster.turn.queue.any fun q => q.num == n then .error (.wait s)
      else do
        turnBlame s
        .ok s
    | _ => do
      turnReady s
      let (n, s1) := s.turnPush .wait 0 0
      if s.myCluster.turn.queue.isEmpty then do
        turnBlame s
        .ok s
      else .error (.wait (s1.setProg .s (.turn n)))

end Sys2Proof.Machine
end

