-- ==== Sys2Proof/Machine/Preempt.lean ====
section
/-! DEFINITION. Pre-emption: `PHINT`, the save procedure and the context image, resumption, dispatch, and the Yard
Controller's answers to a stopped core (06 R178, 15 R355, R356, 19 R403-R405, R408-R417). -/

namespace Sys2Proof.Machine

open Sys2Proof

/-! ### `PHINT` (06 R178, 19 R409) -/

/-- Offset and length of range `i` of a liveness record. -/
def liveRange (r : BitVec 384) (i : Nat) : Nat × Nat := ((bits r (128 + 64 * i) 32).toNat, (bits r (160 + 64 * i) 32).toNat)
/-- The ranges of a record that hold bytes. -/
def liveRanges (r : BitVec 384) : List (Nat × Nat) := ((List.range 4).map (liveRange r)).filter fun p => p.2 != 0
def liveV (r : BitVec 384) (n : Nat) : Bool := r.getLsbD n
def liveT (r : BitVec 384) (n : Nat) : Bool := r.getLsbD (64 + n)
def liveE (r : BitVec 384) (n : Nat) : Bool := r.getLsbD (72 + n)

/-- No two of the ranges share a byte. -/
def disjoint : List (Nat × Nat) → Bool
  | [] => true
  | p :: t => t.all (fun q => decide (p.1 + p.2 ≤ q.1) || decide (q.1 + q.2 ≤ p.1)) && disjoint t

/-- A liveness record keeps the rules of 19 R409 for a scratchpad [lo, hi); a place of length 0 is no range (06 R178). -/
def liveOk (r : BitVec 384) (lo hi : Nat) : Bool :=
  bits r 60 4 == 0 && bits r 88 40 == 0
    && (liveRanges r).all (fun p => p.1 % 32 == 0 && p.2 % 32 == 0 && decide (lo ≤ p.1) && decide (p.1 + p.2 ≤ hi)) && disjoint (liveRanges r)

/-- The condition of 02 R49: every operand queue is empty, with no `QLD` outstanding. -/
def Core.noQueues (c : Core) : Bool := c.q.rows.all fun r => r.2.isEmpty

/-- Both operand FIFOs are empty, and no feed is outstanding. -/
def Core.noFifos (c : Core) : Bool := c.fifoA.isEmpty && c.fifoB.isEmpty && c.feeds.isEmpty

/-- A pending pre-emption is taken at a `PHINT` now. -/
def Core.takesPoint (c : Core) : Bool :=
  c.ctl.pe && c.preempt.isSome && !c.ctl.timed && c.noQueues && c.noFifos && c.rings.rows.all fun r => r.2.head == r.2.claim

/-- `PHINT` (06 R178): where the point is not taken, it completes in one cycle. -/
def execPhint (a : SReg) : State → Out :=
  word .s [kS a] fun s =>
    match s.me.preempt with
    | none => .ok s
    | some ctx =>
      if !s.me.takesPoint then .ok s else
      let va := s.rdS a
      match decodeAddr s s.focus va 48 false with
      | some (.spad _ true o) => do
        check (va.toNat % 8 == 0) .misalign va
        check (s.me.slotOwner o == .lanes && s.me.slotOwner (o + 47) == .lanes) .ownerViolation va
        let key := keyPool s.focus o
        let q := s.me.lq.get (laneIdx .s)
        let lost := s.badWords key 48
        let bad := lost.filter fun k => (bare q key 48).any fun i => k ≤ key + i ∧ key + i < k + 8
        let bs := overlay q key (replaced key (s.bytes key 48) (List.replicate 48 0) lost)
        let s1 := s.updMe fun c => { c with uedata := c.uedata + bad.length }
        let r : BitVec 384 := BitVec.ofNat 384 (leBytes bs)
        if !liveOk r s.me.ctl.pbReg s.me.ctl.pbSpad then .error (.trapIn .phintRec va s1)
        else .error (.trapIn .preempt ctx
          ((s1.updMe fun c => { c with saveAt := ctx, live := r }).updLane .s fun x => { x with pc := x.pc + 1 }))
      | _ => .error (.trap .aperture va)

/-! ### When the engines have come to rest (19 R402, R410) -/

/-- A feed that stands still while the lanes are stopped: its FIFO is full, or it has its fault record. -/
def Core.feedHeld (c : Core) (f : Feed) : Bool := f.fmt.isSome && decide (64 ≤ (c.fifo_ f.fifoB).length)

/-- A matrix command stands still: the FIFO that it needs lacks entries, and no feed brings them. -/
def Core.runHeld (c : Core) : Bool :=
  match c.mrun with
  | none => false
  | some m =>
    let (na, nb) := m.needs m.step
    m.done.isNone && ((decide (c.fifoA.length < na) && !c.feeding false) || (decide (c.fifoB.length < nb) && !c.feeding true))

/-- Every transfer and feed has completed, been held or posted its fault record (19 R402). -/
def Core.rested (c : Core) : Bool :=
  (c.xfers.all fun t => t.st != .active) && (c.feeds.all fun f => f.st != .active || f.fmt.isNone || c.feedHeld f)
    && (c.mrun.isNone || c.runHeld)

/-- The save procedure may write the image: only held feeds and a held command are left (19 R410, step 2). -/
def State.saveReady (s : State) (c : CoreId) : Bool :=
  let x := s.core c
  x.mode == .saving && x.xfers.isEmpty && (x.feeds.all fun f => f.st == .active && x.feedHeld f)
    && (x.mrun.isNone || x.runHeld) && x.bankNext.isNone && decide (x.mBusy ≤ s.pulses (clusterOf c)) && x.queuesEmpty && x.pathsEmpty
    && !(s.cluster (clusterOf c)).turn.queue.any fun q => q.core == c

/-- The command held under 19 R402 is abandoned: its entries return to the heads of their FIFOs, and `EPC_M` names it. -/
def Core.abandonRun (c : Core) : Core :=
  match c.mrun with
  | none => c
  | some m =>
    { c with mrun := none, fifoA := m.a ++ c.fifoA, fifoB := m.b ++ c.fifoB, lmf := m.undo.lmf, moff := m.undo.moff,
             mloop := m.undo.loop, mlc := m.undo.mlc, ctl := { c.ctl with epc := c.ctl.epc.set (laneIdx .m) (zextW m.pc) } }

/-- CUR of the descriptors of held feeds names the next entry of the oldest feed through each. -/
def State.heldCurs (s : State) : State :=
  s.me.feeds.reverse.foldl (fun s f => match f.fmt with
    | some t => s.moveCur f (f.d.cur + BitVec.ofNat 32 (t.uses f.fifoB f.left)) f.d.cur
    | none => s) s

/-! ### The context image (19 R411-R413) -/

/-- An image address of a region position (19 R408). -/
def imageAt (ctx : Word) (p : Nat) : Word := ctx + BitVec.ofNat 64 (p * 0x200000)

/-- Position of a core in its region. -/
def Core.position (x : Core) (c : CoreId) : Nat := c.toNat - x.task.first
/-- Cores of the region of a shape code. -/
def shapeCores (sh : Nat) : Nat := 8 / 2 ^ sh

/-- Memory of the core as the save reads it, lost words replaced and counted (19 R418). -/
def saveBytes (s : State) (key n : Nat) : List Byte × State :=
  let bad := s.badWords key n
  let repl := (List.range n).map fun i => untyped (key + i)
  (replaced key (s.bytes key n) repl bad, s.updDie (dieOf s.focus) fun d => { d with uedata := d.uedata + bad.length })

def signalBytes (g : Signal) : List Byte :=
  toBytes 4 g.value.toNat ++ toBytes 4 g.expect.toNat
    ++ toBytes 8 (boolNat g.byteMode + 2 * boolNat g.armed + 4 * boolNat g.ovr + g.overcnt.toNat * 2 ^ 16)

def descBytes (d : Desc) : List Byte :=
  toBytes 8 d.base.toNat ++ toBytes 4 d.len.toNat ++ toBytes 2 d.cnt1.toNat ++ toBytes 2 d.cnt2.toNat ++ toBytes 4 d.str1.toNat
    ++ toBytes 4 d.str2.toNat ++ toBytes 4 d.win.toNat ++ toBytes 4 d.cur.toNat

def loopBytes (r : Option LoopRec) : List Byte :=
  match r with
  | some l => toBytes 8 (l.addr.toNat + l.rem * 2 ^ 32 + 2 ^ 63)
  | none => toBytes 8 0

def gateBytes (g : Gate) : List Byte :=
  toBytes 8 (g.k.toNat + 8 * boolNat g.real) ++ (List.range 256).flatMap fun i => toBytes 8 (g.el.get i).toNat

def expBytes (e : Expn) : List Byte := (List.range 34).flatMap fun i => toBytes 8 (e.word i)

def tileBytes (t : Tile) : List Byte := (List.range 256).flatMap fun i => toBytes 4 (t.el.get i).toNat

/-- A live tile's bytes stand in the image (19 R412). -/
def Core.tileSaved (c : Core) (n : Nat) : Bool :=
  let t := c.tiles.get n
  liveT c.live n && t.cfg && (t.dirty || !t.resid)

/-- `TSHAPE` as an image keeps it. -/
def Core.savedShape (c : Core) (n : Nat) : Nat :=
  let t := c.tiles.get n
  if liveT c.live n && t.cfg then (tshape { t with resid := true, dirty := c.tileSaved n }).toNat else 2 ^ 29

/-- System registers of bytes 0x048-0x0C7. -/
def imageRegs : List Nat :=
  [0x008, 0x009, 0x00A, 0x00B, 0x00C, 0x00D, 0x010, 0x011, 0x012, 0x020, 0x021, 0x048, 0x049, 0x04A, 0x050, 0x037]

def sysBytes (s : State) (n : Nat) : List Byte := match sysRead s n with | some w => toBytes 8 w.toNat | none => toBytes 8 0

/-- Bytes 0x000-0xC3F of the image of the core in focus. -/
def State.imageHead (s : State) : List Byte :=
  let c := s.me
  let fq := !(c.fifoA.isEmpty && c.fifoB.isEmpty && c.feeds.isEmpty)
  let z (n : Nat) : List Byte := List.replicate n 0
  toBytes 8 (1 + c.task.shape * 2 ^ 8 + c.position s.focus * 2 ^ 10 + boolNat fq * 2 ^ 13 + c.eqj.j * 2 ^ 16)
    ++ (List.range 4).flatMap (fun l => toBytes 8 (c.ctl.epc.get l).toNat)
    ++ (List.range 4).flatMap (fun l => toBytes 8 (c.ctl.cbase.get l).toNat)
    ++ imageRegs.flatMap (sysBytes s)
    ++ toBytes 8 c.eqj.fpflags.toNat ++ toBytes 8 c.eqj.mxnan.toNat ++ toBytes 8 c.eqj.mxovf.toNat ++ toBytes 8 c.eqj.mspbad.toNat
    ++ (List.range 4).flatMap (fun l => toBytes 4 (c.ctl.clen.get l).toNat) ++ z 8
    ++ (List.range 32).flatMap (fun n => toBytes 8 (if n = 0 then 0 else (c.r.s.get n).toNat))
    ++ (List.range 16).flatMap (fun n => toBytes 32 (s.rdP (BitVec.ofNat 4 n)).toNat)
    ++ (List.range 16).flatMap (fun n => toBytes 4 (c.r.lv.get n).toNat)
    ++ (List.range 16).flatMap (fun n => toBytes 16 (c.mf.get n).toNat)
    ++ (List.range 16).flatMap (fun n => descBytes (c.r.xd.get n))
    ++ (List.range 64).flatMap (fun n => signalBytes (c.sigs.get n))
    ++ (List.range 4).flatMap (fun n => loopBytes c.vloop[n]?)
    ++ toBytes 16 (match c.lmf with | some m => m.toNat | none => 0)
    ++ toBytes 8 (c.moff.toNat + boolNat c.lmf.isSome * 2 ^ 24 + c.mlc % 2 ^ 16 * 2 ^ 32) ++ loopBytes c.mloop
    ++ toBytes 8 (boolNat c.lamp.hold + 2 * boolNat c.lamp.black + 4 * boolNat c.lamp.init + 8 * boolNat c.lamp.lb)
    ++ toBytes 4 c.lamp.ls.toNat ++ toBytes 4 c.lamp.sentRecv.toNat
    ++ (List.range 8).flatMap (fun n => toBytes 4 (c.savedShape n)) ++ toBytes 48 c.live.toNat
    ++ toBytes 8 (abstat c).toNat ++ loopBytes c.xloop ++ z 16
    ++ (List.range 48).flatMap (fun b => toBytes 1 ((List.range 4).foldl (fun n i =>
        if 4 * b + i < (c.ctl.pbSpad - c.ctl.pbReg) / 4096 then n + (c.slots.get (4 * b + i)).code * 4 ^ i else n) 0))
    ++ z 16

/-- Header of an allocated bank. -/
def bankHead (c : Core) (b : Bank) : List Byte :=
  let h := b.holder.toNat
  let inside := decide (c.task.first ≤ h) && decide (h < c.task.first + shapeCores c.task.shape)
  toBytes 16 (boolNat b.i96 + (if inside then (h - c.task.first) * 2 else 16))

/-- An entry at its place of `n` bytes; lost bytes are replaced. -/
def entryBytes (n : Nat) (e : FifoEntry) : List Byte :=
  let bs := e.data.zipIdx.map fun b => if e.lost.contains b.2 then untyped b.2 else b.1
  bs ++ List.replicate (n - bs.length) 0

/-- The record of a held feed. -/
def feedBytes (f : Feed) : List Byte :=
  match f.fmt with
  | none => []
  | some t => toBytes 8 t.qside.toNat ++ [BitVec.ofNat 8 (f.xd.toNat + boolNat f.fifoB * 16 + boolNat t.sparse * 32)]
      ++ toBytes 1 t.code.toNat ++ toBytes 2 f.left ++ toBytes 4 0

/-- Tags of a FIFO in 64 bytes. -/
def tagBytes (l : List FifoEntry) : List Byte :=
  let bs : List Byte := (l.take 64).map fun e => BitVec.ofNat 8 e.tag.toNat
  bs ++ List.replicate (64 - bs.length) 0

/-- The FIFO record (19 R413); counts above its range stand as they are, and break it (log 21). -/
def Core.fifoBytes (c : Core) : List Byte :=
  if c.fifoA.isEmpty && c.fifoB.isEmpty && c.feeds.isEmpty then [] else
  toBytes 8 (min c.fifoA.length 127 + min c.fifoB.length 127 * 2 ^ 8 + c.feeds.length * 2 ^ 16)
    ++ tagBytes c.fifoA ++ tagBytes c.fifoB ++ c.fifoA.flatMap (entryBytes 288) ++ c.fifoB.flatMap (entryBytes 128)
    ++ c.feeds.flatMap feedBytes

/-- The engine that reads and writes images: the X engine at task level. -/
def State.saver (s : State) : Who := { s.engine with sys := false }

/-- The image of the core in focus, after its engines have come to rest. -/
def State.image (s : State) : Except Halt (List Byte × State) := do
  let c := s.me
  let vecs := ((List.range 60).filter (liveV c.live)).flatMap fun n =>
    let k := physV c.r.rbv.toNat n
    toBytes 256 (scrubWords .f32 ((c.vUe.filter fun u => u.1 == k).map Prod.snd) (c.v.get k)).toNat
  let exps := ((List.range 16).filter (liveE c.live)).flatMap fun n => expBytes (c.exps.get n)
  let (banks, s) := ((List.range 32).filter fun b => (c.banks.get b).alloc).foldl (fun (r : List Byte × State) b =>
    let (bs, t) := saveBytes r.2 (keyAcc s.focus b 0) 12288
    (r.1 ++ bankHead c (c.banks.get b) ++ bs, t)) ([], s)
  let (spad, s) := (liveRanges c.live).foldl (fun (r : List Byte × State) p =>
    let (bs, t) := saveBytes r.2 (keyPool s.focus p.1) p.2
    (r.1 ++ bs, t)) ([], s)
  let (tiles, s) ← ((List.range 8).filter c.tileSaved).foldlM (fun (r : List Byte × State) n => do
    let t := c.tiles.get n
    if t.resid then .ok (r.1 ++ tileBytes t, r.2)
    else
      let (bs, u) ← engineReadRun r.2.saver t.image 1024 r.2
      .ok (r.1 ++ bs, u)) ([], s)
  .ok (s.imageHead ++ (List.range 8).flatMap (fun n => gateBytes (c.gates.get n)) ++ vecs ++ exps ++ banks ++ spad ++ tiles ++ c.fifoBytes, s)

/-- Cause of an access that has failed. -/
def haltCode : Halt → Nat
  | .trap c _ | .trapIn c _ _ => c.code
  | _ => Cause.permission.code

/-- The save procedure of the core in focus from step 2 on (19 R410); the moves of its release are made at once. -/
def State.saveNow (s : State) : State :=
  let me := s.focus
  let s := (s.updMe Core.abandonRun).heldCurs
  let s := (s.drainAll me .package).closeRegs me .package
  let a := imageAt s.me.saveAt (s.me.position me)
  match (do let (bs, t) ← s.image; let t ← engineWriteRun t.saver a bs t; .ok (bs, t)) with
  | .error h => s.endTask me (some (haltCode h))
  | .ok (bs, t) =>
    let x := t.me
    let room := bs.length + 0x10000 ≤ x.ctl.pbReg
    let t := t.updMe fun c => { c with buffer := if room then some (a, bs) else none, fifoA := [], fifoB := [] }
    let d := boolNat x.task.die
    let t := t.updDie d fun y => { y with tasks := y.tasks.upd x.task.entry fun e => { e with ctx := x.saveAt } }
    (t.haltCore me).leaveTask me none true

/-- `CONTEXT_SAVE` (19 R410). -/
def execContextSave : State → Out := event fun s => if s.saveReady s.focus then s.saveNow else s

/-! ### Requests of the Yard Controller (19 R403-R405, R408) -/

/-- `PREEMPT_REQUEST` (19 R408): the context address is a multiple of 4 KiB. -/
def execPreemptRequest : State → Out := event fun s =>
  let ctx : Word := bits s.arg.value 0 64
  if s.me.mode != .idle && ctx.toNat % 4096 == 0 then s.updMe fun c => { c with preempt := some ctx } else s

/-- `PREEMPT_WITHDRAW` (19 R408). -/
def execPreemptWithdraw : State → Out := event fun s => s.updMe fun c => { c with preempt := none }

/-- A DEBUG stop request is taken where no timed region is open (19 R405). -/
def State.debugNow (s : State) : State :=
  if s.me.debug && s.me.mode == .running && !s.me.ctl.timed then (s.updMe fun c => { c with debug := false }).takeTrap .s .debug 0 else s

/-- `DEBUG` (19 R405): the request stays until the core runs with no timed region open. -/
def execDebug : State → Out := event fun s =>
  if s.me.mode = .idle then s else (s.updMe fun c => { c with debug := true }).debugNow

/-- A stopped core has reported (19 R402). -/
def Core.reported (c : Core) : Bool := c.mode == .stopped && c.rested

/-- `RESUME` (19 R404). -/
def execResume : State → Out := event fun s =>
  if s.me.reported then let now := s.now; s.updMe fun c => c.resumeLanes now else s

/-- `END` (19 R404): the task completes with the trap's cause. -/
def execEnd : State → Out := event fun s =>
  if s.me.reported then s.endTask s.focus (some (match s.me.report with | some (c, _) => c.code | none => s.me.ctl.causeCode.toNat))
  else s

/-- The record of a `SAVE`: everything is live, and the whole scratchpad is one range (19 R404, R411). -/
def fullLive (lo hi : Nat) : BitVec 384 :=
  BitVec.ofNat 384 (2 ^ 60 - 1 + (2 ^ 24 - 1) * 2 ^ 64 + lo * 2 ^ 128 + (hi - lo) * 2 ^ 160)

/-- `SAVE` (19 R404). -/
def execSave : State → Out := event fun s =>
  let ctx : Word := bits s.arg.value 0 64
  if s.me.reported && ctx.toNat % 4096 == 0 then
    s.updMe fun c => { c with mode := .saving, report := none, saveAt := ctx, live := fullLive c.ctl.pbReg c.ctl.pbSpad }
  else s

/-! ### Reading an image (19 R414-R417) -/

/-- An image that has been read: its bytes and where they stand. -/
structure Image where
  a : Word
  bs : List Byte

def Image.f (i : Image) (o n : Nat) : Nat := fieldOf i.bs o n
def Image.shape (i : Image) : Nat := i.f 1 1 % 4
def Image.pos (i : Image) : Nat := i.f 0 8 / 2 ^ 10 % 8
def Image.fq (i : Image) : Bool := natBit (i.f 0 8) 13
def Image.eqj (i : Image) : Nat := i.f 2 1
def Image.live (i : Image) : BitVec 384 := BitVec.ofNat 384 (i.f 0xBB0 48)
def Image.allocd (i : Image) : List Nat := (List.range 32).filter (natBit (i.f 0xBE0 8))
def Image.tsh (i : Image) (n : Nat) : Nat := i.f (0xB90 + 4 * n) 4
def Image.tiles (i : Image) : List Nat := (List.range 8).filter fun n => natBit (i.tsh n) 31 && natBit (i.tsh n) 30
def Image.vecs (i : Image) : List Nat := (List.range 60).filter (liveV i.live)
def Image.exps (i : Image) : List Nat := (List.range 16).filter (liveE i.live)

/-- Places of the parts behind byte 0xC40. -/
def Image.vecAt (_ : Image) : Nat := 0xC40 + 8 * 2056
def Image.expAt (i : Image) : Nat := i.vecAt + 256 * i.vecs.length
def Image.bankAt (i : Image) : Nat := i.expAt + 272 * i.exps.length
def Image.spadAt (i : Image) : Nat := i.bankAt + 12304 * i.allocd.length
def Image.tileAt (i : Image) : Nat := i.spadAt + (liveRanges i.live).foldl (fun n p => n + p.2) 0
def Image.fifoAt (i : Image) : Nat := i.tileAt + 1024 * i.tiles.length
/-- Counts of the FIFO record. -/
def Image.na (i : Image) : Nat := i.f i.fifoAt 1 % 128
def Image.nb (i : Image) : Nat := i.f (i.fifoAt + 1) 1 % 128
def Image.nf (i : Image) : Nat := i.f (i.fifoAt + 2) 1 % 32
def Image.feedAt (i : Image) : Nat := i.fifoAt + 136 + 288 * i.na + 128 * i.nb
/-- Bytes of the whole image, from its head and its FIFO record's counts. -/
def Image.size (i : Image) : Nat := if i.fq then i.feedAt + 16 * i.nf else i.fifoAt

/-- Bits of a field that the table calls zero. -/
def zeroIn (x lo n : Nat) : Bool := x / 2 ^ lo % 2 ^ n == 0

/-- The zero fields of the image's fixed part, for a scratchpad of `slots` slots. -/
def Image.headOk (i : Image) (slots : Nat) : Bool :=
  i.f 0 1 == 1 && zeroIn (i.f 0 8) 14 2 && zeroIn (i.f 0 8) 24 40 && i.f 0xF8 8 == 0
    && (List.range 64).all (fun n => zeroIn (i.f (0x748 + 16 * n) 8) 3 13 && zeroIn (i.f (0x748 + 16 * n) 8) 32 32)
    && zeroIn (i.f 0xB70 8) 25 7 && zeroIn (i.f 0xB70 8) 48 16 && zeroIn (i.f 0xB78 8) 44 19 && zeroIn (i.f 0xB80 8) 4 60
    && bits i.live 60 4 == 0 && bits i.live 88 40 == 0 && zeroIn (i.f 0xBE8 8) 42 21 && i.f 0xBF0 16 == 0
    && (List.range 192).all (fun n => decide (n < slots) || i.f (0xC00 + n / 4) 1 / 4 ^ (n % 4) % 4 == 0) && i.f 0xC30 16 == 0

/-- The zero fields of gates, banks and expansion records. -/
def Image.partsOk (i : Image) : Bool :=
  (List.range 8).all (fun n => zeroIn (i.f (0xC40 + 2056 * n) 8) 4 60)
    && (List.range i.allocd.length).all (fun n => i.f (i.bankAt + 12304 * n) 16 < 32)
    && (List.range i.exps.length).all fun n => zeroIn (i.f (i.expAt + 272 * n + 268) 4) 1 31

/-- The format of an entry's tag byte (19 R413). -/
def tagFmt (t : Nat) : FeedFmt := { code := BitVec.ofNat 4 t, sparse := natBit t 4, qside := 0 }
/-- The table of 08 R216 has a row for the format. -/
def tagOk (b : Bool) (t : Nat) : Bool := decide (t % 16 ≤ if b then 6 else 5)
/-- Bytes of an entry as it stands in its FIFO. -/
def tagBytesOf (b : Bool) (t : Nat) : Nat := let f := tagFmt t; if f.ql4 b then 128 else f.bytes b

/-- The tags from byte `at_` and the entries from byte `first` of one FIFO: `n` of them in places of `size` bytes, zero behind each entry. -/
def Image.entriesOk (i : Image) (b : Bool) (at_ first n size : Nat) : Bool :=
  (List.range 64).all fun e =>
    let t := i.f (at_ + e) 1
    if n ≤ e then t == 0
    else decide (t < if b then 16 else 32) && tagOk b t
      && ((i.bs.drop (first + size * e + tagBytesOf b t)).take (size - tagBytesOf b t)).all (· == 0)

/-- The FIFO record keeps 19 R413. -/
def Image.fifoOk (i : Image) : Bool :=
  let o := i.fifoAt
  decide (i.na ≤ 64) && decide (i.nb ≤ 64) && decide (i.nf ≤ 16)
    && zeroIn (i.f o 8) 7 1 && zeroIn (i.f o 8) 15 1 && zeroIn (i.f o 8) 21 43
    && i.entriesOk false (o + 8) (o + 136) i.na 288 && i.entriesOk true (o + 72) (o + 136 + 288 * i.na) i.nb 128
    && (List.range i.nf).all fun n =>
      let r := i.feedAt + 16 * n
      decide (i.f (r + 8) 1 < 64) && decide (i.f (r + 9) 1 < 16) && tagOk (natBit (i.f (r + 8) 1) 4) (i.f (r + 9) 1)
        && decide (1 ≤ i.f (r + 10) 2) && decide (i.f (r + 10) 2 ≤ 256) && i.f (r + 12) 4 == 0

/-- Reads `n` bytes of an image; none where it cannot be read. -/
def imageBytes (a : Word) (n : Nat) (s : State) : Option (List Byte × State) :=
  match engineReadRun s.saver a n s with | .ok r => some r | .error _ => none

/-- The image at an address: the core's own copy, or memory (19 R417). -/
def readImage (a : Word) (s : State) : Option (Image × State) :=
  match s.me.buffer with
  | some (b, bs) => if b = a then some ({ a := a, bs := bs }, s) else read s
  | none => read s
where
  read (s : State) : Option (Image × State) := do
    let (hd, s) ← imageBytes a 0xC40 s
    let i : Image := { a := a, bs := hd }
    let (mid, s) ← imageBytes (a + 0xC40) (i.fifoAt - 0xC40) s
    let i : Image := { i with bs := hd ++ mid }
    if !i.fq then some (i, s) else do
      let (cn, s) ← imageBytes (a + BitVec.ofNat 64 i.fifoAt) 8 s
      let i2 : Image := { i with bs := i.bs ++ cn }
      let (rest, s) ← imageBytes (a + BitVec.ofNat 64 (i.fifoAt + 8)) (i2.size - i.fifoAt - 8) s
      some ({ i2 with bs := i2.bs ++ rest }, s)

/-! ### Restoring -/

def Image.loop (i : Image) (o w : Nat) : Option LoopRec :=
  let x := i.f o 8
  if natBit x 63 then some { addr := BitVec.ofNat 32 x, rem := x / 2 ^ 32 % 2 ^ w } else none

def Image.signal (i : Image) (n : Nat) : Signal :=
  let o := 0x740 + 16 * n
  let x := i.f (o + 8) 4
  { value := BitVec.ofNat 32 (i.f o 4), expect := BitVec.ofNat 32 (i.f (o + 4) 4), byteMode := natBit x 0, armed := natBit x 1,
    ovr := natBit x 2, overcnt := BitVec.ofNat 16 (x / 2 ^ 16) }

def Image.desc (i : Image) (n : Nat) : Desc :=
  let o := 0x540 + 32 * n
  { base := BitVec.ofNat 64 (i.f o 8), len := BitVec.ofNat 32 (i.f (o + 8) 4), cnt1 := BitVec.ofNat 16 (i.f (o + 12) 2),
    cnt2 := BitVec.ofNat 16 (i.f (o + 14) 2), str1 := BitVec.ofNat 32 (i.f (o + 16) 4), str2 := BitVec.ofNat 32 (i.f (o + 20) 4),
    win := BitVec.ofNat 32 (i.f (o + 24) 4), cur := BitVec.ofNat 32 (i.f (o + 28) 4) }

def Image.gate (i : Image) (n : Nat) : Gate :=
  let o := 0xC40 + 2056 * n
  { k := BitVec.ofNat 3 (i.f o 1), real := natBit (i.f o 1) 3,
    el := (List.range 256).foldl (fun t j => t.set j (BitVec.ofNat 64 (i.f (o + 8 + 8 * j) 8))) (.fill 0) }

def Image.exp (i : Image) (k : Nat) : Expn :=
  let o := i.expAt + 272 * k
  { c := (List.range 32).foldl (fun t j => t.set j (BitVec.ofNat 64 (i.f (o + 8 * j) 8))) (.fill 0),
    centre := BitVec.ofNat 64 (i.f (o + 256) 8), radius := BitVec.ofNat 32 (i.f (o + 264) 4), isLocal := natBit (i.f (o + 268) 1) 0 }

/-- A tile as it resumes (19 R412). -/
def Image.tile (i : Image) (n : Nat) : Tile :=
  let x := i.tsh n
  if !natBit x 31 then {} else
  { cfg := true, rows := BitVec.ofNat 5 x, cols := BitVec.ofNat 5 (x / 2 ^ 8), dirty := false, resid := !natBit x 30,
    image := i.a + BitVec.ofNat 64 (i.tileAt + 1024 * (i.tiles.filter (decide <| · < n)).length) }

/-- Holder, mode and allocation of the banks (19 R414): a holder outside the region becomes the own core. -/
def Image.bank (i : Image) (first : Nat) (own : CoreId) (k : Nat) : Bank :=
  let x := i.f (i.bankAt + 12304 * k) 16
  { alloc := true, i96 := natBit x 0, holder := if natBit x 4 then own else BitVec.ofNat 11 (first + x / 2 % 8) }

/-- Registers that the image replaces: `pt` is the place on a changed shape (19 R416): the S word to enter at. -/
def Core.restore (x : Core) (i : Image) (me : CoreId) (pt : Option (BitVec 32)) (now : Nat) : Core :=
  let w (o : Nat) : Word := BitVec.ofNat 64 (i.f o 8)
  let tab {α : Type} (z : α) (n : Nat) (f : Nat → α) : Tab α := (List.range n).foldl (fun t j => t.set j (f j)) (.fill z)
  let snap : EqSnap := { j := i.eqj, fpflags := BitVec.ofNat 5 (i.f 0xC8 8), mxnan := BitVec.ofNat 32 (i.f 0xD0 8),
                         mxovf := BitVec.ofNat 32 (i.f 0xD8 8), mspbad := BitVec.ofNat 32 (i.f 0xE0 8) }
  let vs := w 0x58
  let ls := i.f 0xC0 8
  let rbv : BitVec 6 := bits (w 0x60) 0 6
  let rbp : BitVec 3 := bits (w 0x68) 0 3
  let epc (l : Nat) : BitVec 32 := match pt with
    | some p => if l = 0 then p else 0
    | none => BitVec.ofNat 32 (i.f (8 + 8 * l) 8)
  let ctl : Ctl := { x.ctl with
    fpflags := if pt.isSome then snap.fpflags else bits (w 0x50) 0 5,
    mxnan := if pt.isSome then snap.mxnan else bits (w 0x78) 0 32,
    mxovf := if pt.isSome then snap.mxovf else bits (w 0x80) 0 32,
    mspbad := if pt.isSome then snap.mspbad else bits (w 0x88) 0 32,
    spillBase := w 0xA0, spillLim := w 0xA8, spillTop := w 0xB0, pe := natBit ls 3, ppl := natBit ls 1, pl := false,
    cbase := if pt.isSome then x.ctl.cbase else tab 0 4 fun l => w (0x28 + 8 * l),
    clen := if pt.isSome then x.ctl.clen else tab 0 4 fun l => BitVec.ofNat 32 (i.f (0xE8 + 4 * l) 4),
    epc := tab 0 4 fun l => zextW (epc l) }
  let x := { x with
    ctl := ctl, eqj := snap,
    r := { x.r with
      s := tab 0 32 fun n => w (0x100 + 8 * n), xd := tab {} 16 i.desc, lv := tab 0 16 fun n => BitVec.ofNat 32 (i.f (0x400 + 4 * n) 4),
      fpctl := bits (w 0x48) 0 9, ety := (match EType.ofCode (fld vs.toNat 0 4) with | some t => t | none => .f32), vl := bits vs 8 9,
      rbv := rbv, rbp := rbp, mfsrc := bits (w 0x70) 0 2, mfbase := bits (w 0x70) 4 4, eord := bits (w 0x90) 0 5, eta := bits (w 0x98) 0 32 },
    p := (List.range 15).foldl (fun t n => t.set (physP rbp.toNat (n + 1)) (BitVec.ofNat 256 (i.f (0x220 + 32 * n) 32))) x.p,
    v := i.vecs.zipIdx.foldl (fun t (n : Nat × Nat) => t.set (physV rbv.toNat n.1) (BitVec.ofNat 2048 (i.f (i.vecAt + 256 * n.2) 256))) x.v,
    exps := i.exps.zipIdx.foldl (fun t (n : Nat × Nat) => t.set n.1 (i.exp n.2)) x.exps,
    gates := tab {} 8 i.gate, sigs := tab {} 64 i.signal, mf := tab 0 16 fun n => BitVec.ofNat 128 (i.f (0x440 + 16 * n) 16),
    banks := i.allocd.zipIdx.foldl (fun t (n : Nat × Nat) => t.set n.1 (i.bank x.task.first me n.2)) (.fill {}),
    tiles := tab {} 8 i.tile,
    slots := tab .lanes ((x.ctl.pbSpad - x.ctl.pbReg) / 4096) fun n => Owner.ofCode (i.f (0xC00 + n / 4) 1 / 4 ^ (n % 4) % 4),
    vloop := (List.range 4).filterMap fun n => i.loop (0xB40 + 8 * n) 10,
    lmf := if natBit (i.f 0xB73 1) 0 then some (BitVec.ofNat 128 (i.f 0xB60 16)) else none, lmfNo := none,
    moff := BitVec.ofNat 24 (i.f 0xB70 3), mlc := i.f 0xB74 2, mloop := i.loop 0xB78 12, xloop := i.loop 0xBE8 10,
    lamp := { x.lamp with hold := natBit (i.f 0xB80 1) 0, black := natBit (i.f 0xB80 1) 1, init := natBit (i.f 0xB80 1) 2,
                          lb := natBit (i.f 0xB80 1) 3, ls := BitVec.ofNat 32 (i.f 0xB88 4), sentRecv := BitVec.ofNat 32 (i.f 0xB8C 4) } }
  { x.resumeLanes now with mode := x.mode }

/-- The entries of the FIFO record go back into their FIFOs, and the held feeds to the X engine, in order (19 R413). -/
def State.requeue (s : State) (i : Image) : State :=
  if !i.fq then s else
  let now := s.now
  let entry (tag at_ n : Nat) : FifoEntry := { tag := BitVec.ofNat 5 (i.f tag 1), data := (i.bs.drop at_).take n, lost := [], ready := now }
  let o := i.fifoAt
  let s := s.updMe fun c =>
    { c with fifoA := (List.range i.na).map fun e => entry (o + 8 + e) (o + 136 + 288 * e) 288,
             fifoB := (List.range i.nb).map fun e => entry (o + 72 + e) (o + 136 + 288 * i.na + 128 * e) 128 }
  (List.range i.nf).foldl (fun s n =>
    let r := i.feedAt + 16 * n
    let b := natBit (i.f (r + 8) 1) 4
    let x : BitVec 4 := BitVec.ofNat 4 (i.f (r + 8) 1)
    let t : FeedFmt := { code := BitVec.ofNat 4 (i.f (r + 9) 1), sparse := natBit (i.f (r + 8) 1) 5, qside := BitVec.ofNat 64 (i.f r 8) }
    let left := i.f (r + 10) 2
    let d := s.me.r.xd.get x.toNat
    let (lat, s) := feedLat s d
    let (id, s) := s.take
    let f : Feed := { id := id, fifoB := b, xd := x, d := d, left := left, fmt := some t, start := s.now + lat, n := 0 }
    (s.updMe fun c => { c with feeds := c.feeds ++ [f] }).moveCur f d.cur (d.cur + BitVec.ofNat 32 (t.uses b left))) s

/-- A restored core asks for its saved units (19 R414). A request that fails gives the task's cause. -/
def State.askUnits (s : State) (n : Nat) : Except Nat State :=
  if n = 0 then .ok (s.updMe fun c => { c with mode := .running })
  else if 1024 < n ∨ s.myCluster.share.toNat < n then .error Cause.powerOverdraw.code
  else .ok ((s.updMe fun c => { c with mode := .granting }).updMyCluster fun k => { k with pend := k.pend ++ [(s.focus.toNat, n)] })

/-- The header of the image that a restore reads: of the core's own copy, where that is the image of its place, else at the context's
address (19 R414, R417). -/
def imageHeader (ctx : Word) (sh pos : Nat) (s : State) : Option (List Byte × State) :=
  match s.me.buffer with
  | some (b, bs) => if b = imageAt ctx (if fieldOf bs 1 1 % 4 = sh then pos else 0) then some (bs.take 8, s) else imageBytes ctx 8 s
  | none => imageBytes ctx 8 s

/-- A saved context is restored on the core in focus, whose entry values are set (19 R414, R416, R417). -/
def State.restoreCore (s : State) (e : Entry) (ctx : Word) : Except Nat State :=
  let bad : Except Nat State := .error Cause.ctxBad.code
  let me := s.focus
  let x := s.me
  let slots := (x.ctl.pbSpad - x.ctl.pbReg) / 4096
  match imageHeader ctx e.task.shape (x.position me) s with
  | none => bad
  | some (hd, s) =>
    let same := fieldOf hd 1 1 % 4 == e.task.shape
    let p := if same then x.position me else 0
    match readImage (imageAt ctx p) s with
    | none => bad
    | some (i, s) =>
      let pt : BitVec 32 := BitVec.ofNat 32 (fieldOf e.sched (32 + 4 * i.eqj) 4)
      if !i.headOk slots || !i.partsOk || !liveOk i.live x.ctl.pbReg x.ctl.pbSpad || (i.fq && !i.fifoOk) || i.pos != p
          || (i.shape == e.task.shape) != same || (!same && (decide (8 ≤ i.eqj) || pt == 0xFFFFFFFF)) then bad
      else
        let now := s.now
        let s := s.updMe fun y => y.restore i me (if same then none else some pt) now
        let s := i.allocd.zipIdx.foldl (fun s b =>
          s.poke (keyAcc me b.1 0) ((i.bs.drop (i.bankAt + 12304 * b.2 + 16)).take 12288)) s
        let s := ((liveRanges i.live).foldl (fun (r : Nat × State) g =>
          (r.1 + g.2, r.2.poke (keyPool me g.1) ((i.bs.drop r.1).take g.2))) (i.spadAt, s)).2
        let s := if same then lanesAll.foldl State.loadBuffer (s.requeue i) else s
        s.askUnits (i.f 0xB8 8)

/-! ### Dispatch (15 R355, R356) -/

/-- A local copy of an image serves only until its context resumes (log 21). -/
def State.dropBuffers (s : State) (ctx : Word) : State :=
  { s with cores := s.cores.all fun x => match x.buffer with
      | some (a, _) => if ctx.toNat ≤ a.toNat ∧ a.toNat < ctx.toNat + 8 * 0x200000 then { x with buffer := none } else x
      | none => x }

/-- The cores of a record enter its task, or resume its context. -/
def State.enterTask (s : State) (d : Nat) (r : BitVec 128) (lamp : List CoreId) (no : Nat) (owners slot : Nat) (data : List Byte) : State :=
  let i := bindTask r
  let e0 := (s.die d).tasks.get i
  let vf := e0.vf
  let no := if e0.lamp = 0 then no else e0.lamp
  match s.graph d vf with
  | none => s
  | some g =>
    match readEntry d i (bindShape r) (bindFirst r) lamp no g s with
    | .error code => s.failGraph d vf code
    | .ok (e, s) =>
      let s := s.updDie d fun y => { y with tasks := y.tasks.upd i fun t => { t with st := .running, saved := false, fault := none, lamp := no } }
      let s := (bindCores r).foldl (fun s c =>
        let keep := match (s.core c).buffer with | some (a, _) => bindCtx r != 0 && a == imageAt (bindCtx r) (c.toNat - e.task.first) | none => false
        (s.enterCore c e owners slot data).updCore c fun x => if keep then x else { x with buffer := none }) s
      if bindCtx r = 0 then s else
      match (bindCores r).foldlM (fun (s : State) c => ({ s with focus := c }).restoreCore e (bindCtx r)) s with
      | .ok t => { t with focus := s.focus }.dropBuffers (bindCtx r)
      | .error code => (bindCores r).foldl (fun s c => s.endTask c (some code)) s

/-- `DISPATCH` (15 R355): the record at the head of the core's queue is entered, with the records of its gang. The owners and
the `.data slot` section of the loader are the turn's (01 R29). -/
def execDispatch : State → Out := event fun s =>
  let d := dieOf s.focus
  match (s.die d).slots.get s.focus.toNat with
  | [] => s
  | r :: _ =>
    let rs := s.dispatchSet d r
    let s := s.updDie d fun y =>
      { y with slots := (rs.flatMap bindCores).foldl (fun t c => t.upd c.toNat fun q => q.drop 1) y.slots }
    let lamp := (coresIn (rs.flatMap bindCores))
    let (no, s) := s.take
    rs.foldl (fun s r => s.enterTask d r lamp (no + 1) s.arg.value.toNat s.arg.m s.arg.bytes) s
where
  /-- The cores of a list in ascending order. -/
  coresIn (l : List CoreId) : List CoreId := (List.range 2048).filterMap fun n => l.find? fun c => c.toNat == n

end Sys2Proof.Machine
end

