-- ==== Sys2Proof/Machine/Cycle.lean ====
section
/-! DEFINITION. How the machine moves: what a lane holds, sync groups and timed regions (02 R35-R40, 04 R117-R119, 05 R127),
what time brings, and one turn of the agenda. The meaning of instructions is the argument `run`. -/

namespace Sys2Proof.Machine

open Sys2Proof

/-- The meaning of instructions. -/
abbrev Run := Instr → State → Out

/-! ### What a lane holds -/

inductive Held where
  /-- the word at this index has not arrived (05 R127) -/
  | missing (i : Nat)
  /-- no instruction, or one that this level may not run: a decode cause (04 R117) with its `TVAL` -/
  | bad (c : Cause) (v : Word) (f : Framing)
  | word (i : Instr) (f : Framing)
deriving DecidableEq, Repr

def Held.syn : Held → Bool
  | .missing _ => false
  | .bad _ _ f => f.syn
  | .word _ f => f.syn

/-- Decode causes that depend on the state: an unassigned system register (02 R61), a system-level major at task level
(04 R108). A reserved field of `SYSR` or `SYSW` is judged before the number (log 62). -/
def stateCause (s : State) (i : Instr) : Option Cause :=
  match i with
  | .sysr _ n | .sysw n _ => if (sysRead s n.toNat).isNone then some .illegalFn else none
  | .lvwrite _ _ | .eret | .l2conv _ _ => if s.me.ctl.pl then none else some .privilege
  | _ => none

/-- Words of the instruction at the pc of a lane: for M both, where the section holds both. -/
def Core.heldIdx (c : Core) (l : Lane) : List Nat := (wordIdx l (c.lane l).pc.toNat).filter fun i => decide (i < c.clen l)

/-- What lane `l` of the core in focus holds (02 R35, 04 R112). -/
def State.held (s : State) (l : Lane) : Held :=
  let x := s.lane l
  match (s.me.heldIdx l).find? fun i => (x.buf.get i).isNone with
  | some i => .missing i
  | none =>
    let ws := (s.me.heldIdx l).filterMap fun i => x.buf.get i
    let f := framing (.lane l) ws
    let w : Word := zextW (ws.getD 0 0)
    if l = .m ∧ (x.pc.toNat % 2 = 1 ∨ ws.length < 2) then .bad .illegalOp w f
    else match decode (.lane l) ws with
      | .error e => .bad (decCause e) (if e = .shapeIllegal then vshape s.me.src else w) f
      | .ok i => match stateCause s i with
        | some c => .bad c w f
        | none => .word i f

/-- The lane may issue or go on: none while a trap waits for a ramp (19 R401), and the S lane alone in the trap handler (19 R403). -/
def Core.active (c : Core) (l : Lane) : Bool :=
  c.mode == .running && c.trapHeld.isNone && (!c.inHandler || l == .s) && (!(c.lane l).parked || (c.lane l).waiting)

/-- The lane takes part in sync groups: active, and not parked (02 R36). -/
def Core.inGroup (c : Core) (l : Lane) : Bool := c.active l && !(c.lane l).parked

/-- The lane holds a sync word. -/
def State.holdsSync (s : State) (l : Lane) : Bool := !(s.lane l).waiting && (s.held l).syn

/-- The pulse on which a sync group can form, where every lane of it holds a sync word (02 R36). -/
def State.groupPulse (s : State) : Option Nat :=
  let ls := lanesAll.filter s.me.inGroup
  if ls.all s.holdsSync then some (ls.foldl (fun p l => max p (s.lane l).due) 0) else none

/-- Issue cycle of a timed M command, counted from the region's opening (02 R40, 08 R213). -/
def State.stampOf (s : State) (f : Framing) : Nat := (f.stamp + s.me.moff).toNat

/-- The framing of what a lane holds. -/
def Held.framing : Held → Option Framing
  | .missing _ => none
  | .bad _ _ f | .word _ f => some f

/-- The pulse on which lane `l` has something to do; a timed M command, one that names no instruction too, at its stamp (02 R40,
04 R117). -/
def State.laneNext (s : State) (l : Lane) : Option Nat :=
  if !s.me.active l then none
  else if (s.lane l).waiting then some (s.lane l).due
  else if s.timed && s.ramping then none
  else if (s.held l).syn then s.groupPulse
  else match l, s.timed, (s.held l).framing with
    | .m, true, some f =>
      let d := BitVec.ofNat 64 (s.stampOf f) - s.cycIn
      some (if d.toNat < 2 ^ 63 then s.now + d.toNat else s.now)
    | _, _, _ => some (s.lane l).due

/-- Lanes with something to do now. -/
def State.dueLanes (s : State) : List Lane := lanesAll.filter fun l => match s.laneNext l with | some p => decide (p ≤ s.now) | none => false

/-! ### One lane -/

/-- In elastic execution missing words are fetched as the lane comes to them; a fetch that faults is the lane's (02 R35). -/
def State.fetchHeld (s : State) (l : Lane) : Option Held × State :=
  if s.eager && !s.timed then
    match (s.me.heldIdx l).foldlM (fun s i => ensureCode l i s) s with
    | .ok t => (none, t)
    | .error (.trap c v) => (some (.bad c v noFrame), s)
    | .error _ => (none, s)
  else (none, s)

/-- The words of the lanes that are due are fetched; then what each lane that is due holds. A sync word that has just come waits for its
group (02 R36). -/
def State.fetchDue (s : State) : List (Lane × Held) × State :=
  let (bad, t) := s.dueLanes.foldl (fun (r : List (Lane × Held) × State) l =>
    match r.2.fetchHeld l with | (some h, t) => (r.1 ++ [(l, h)], t) | (none, t) => (r.1, t)) ([], s)
  (t.dueLanes.map fun l => match bad.find? fun p => p.1 == l with | some p => p | none => (l, t.held l), t)

/-- A timed M command is at its stamp, and later than the one before (02 R40). -/
def State.onStamp (s : State) (l : Lane) (f : Framing) : Bool :=
  if l != .m || !s.timed || f.syn || (s.lane l).waiting then true else
  s.cycIn == BitVec.ofNat 64 (s.stampOf f) && match (s.lane l).lastStamp with | some t => decide (t < s.stampOf f) | none => true

/-- What the lane holds issues, or goes on. -/
def issue (run : Run) (l : Lane) (h : Held) (s : State) : Out :=
  match h with
  | .bad c v _ => .next (s.raise l c v)
  | .missing _ => if s.timed then .next (s.raise l .schedMiss s.cycIn) else .next (s.holdLane l)
  | .word i f =>
    if s.onStamp l f then run i (s.updLane l fun x => { x with frame := f }) else .next (s.raise l .schedMiss s.cycIn)

/-- A word that has issued: words beyond the buffer leave the front end, and the last stamp is kept. -/
def State.afterLane (s : State) (l : Lane) (pc : Nat) (f : Framing) (was : State) : State :=
  if (s.lane l).stalled || (s.lane l).waiting || s.me.traps.any (fun t => t.1 == l) then s
  else s.updLane l fun x =>
    let x := if x.pc.toNat = pc then x else x.forget l pc
    if l == .m && was.timed && !f.syn then { x with lastStamp := some (was.stampOf f) } else x

/-- The lanes issue in the order S, V, M, X. -/
def issueAll (run : Run) : List (Lane × Held) → State → Out
  | [], s => .next s
  | (l, h) :: t, s =>
    match issue run l h s with
    | .next r => issueAll run t (r.afterLane l (s.lane l).pc.toNat (h.framing.getD noFrame) s)
    | o => o

/-! ### One cycle of a core -/

/-- Words of several lanes read their registers as they stand now (02 R37). -/
def State.openCycle (s : State) : State :=
  s.updMe fun c => { c with latch := some c.r, mview := some ((c.lane .m).pc, c.mloop, c.mlc), opens := none, traps := [], xdWrote := [] }

/-- The cycle ends: the first of the traps raised on it is taken (19 R400). -/
def State.closeCycle (s : State) : State :=
  let ts := s.me.traps
  let s := s.updMe fun c => { c with latch := none, mview := none, opens := none, traps := [], xdWrote := [], released := false }
  match ts with
  | [] => s
  | (l, c, v) :: _ => s.takeTrap l c v

/-- What the cycle leaves in the lane queues and paths is performed, where it may be (11 R277, 13 R314). -/
def State.drainCycle (s : State) : State := s.flushQueues.flushPaths

/-- The outcome of a cycle, with that. -/
def drained : Out → Out
  | .next t => .next t.drainCycle
  | o => o

/-- A sync group has issued: the open region closes, and one opens where the group holds `SYNC` or `TICKWAIT` (02 R38). -/
def State.moveRegion (s : State) : State :=
  let now := s.counted
  let back := s.now - s.myCluster.clk.thawed s.now
  match s.me.opens with
  | none => s.updMe fun c => { c with ctl := { c.ctl with timed := false } }
  | some v => s.updMe fun c =>
      { c with
        lanes := (c.updLane .m fun x => { x with lastStamp := some 0 }).lanes.all fun x => if x.waiting then x else { x with due := x.due - back },
        ctl := { c.ctl with timed := true, cycorg := v, cycOff := v - BitVec.ofNat 64 now }, moff := 0 }

/-- The group cannot issue yet: its lanes look again on the next pulse (02 R36). A wake that it has started goes on; a
`TICKWAIT` that waits for nothing but the time is on time when it comes (06 R167). -/
def State.holdGroup (s t : State) (g : List Lane) : State :=
  let late := (g.filter fun l => (t.lane l).stalled) == [.s]
  let tick := match s.held .s with | .word (.tickwait a) _ => late && s.isReady (kS a) && s.isReady (kSv a.toNat) | _ => false
  let s := if s.me.matGate == .gated && t.me.matGate != .gated then s.wakeEngine s.focus else s
  let s := if tick then s.setProg .s .ticking else s
  g.foldl (fun s l => let now := s.now; s.updLane l fun x => { x with due := now + 1 }) s

/-- The first lane of a group that raises a decode cause. -/
def groupCause (hs : List (Lane × Held)) : Option (Lane × Cause × Word) :=
  hs.findSome? fun p => match p.2 with | .bad c v f => if f.syn then some (p.1, c, v) else none | _ => none

/-- A cycle on which a sync group forms (02 R36, R38, 04 R119). -/
def groupCycle (run : Run) (hs : List (Lane × Held)) (s : State) : Out :=
  match groupCause hs with
  | some (l, c, v) => .next (s.takeTrap l c v)
  | none =>
    match run .syncGroup s with
    | .next s =>
      match issueAll run hs s.openCycle with
      | .next t =>
        let g := (hs.filter fun p => p.2.syn).map Prod.fst
        if g.any fun l => (t.lane l).stalled then .next (s.holdGroup t g)
        else match t.me.traps.find? fun x => x.2.1 == .tickLate with
          | some (l, c, v) => .next (s.takeTrap l c v)
          | none => .next t.moveRegion.closeCycle
      | o => o
    | o => o

/-- A cycle of the core in focus on which some lanes have something to do. A single lane needs no latch. -/
def cycle (run : Run) (s : State) : Out :=
  let (hs, t) := s.fetchDue
  drained (if hs.any fun p => p.2.syn && !(t.lane p.1).waiting then groupCycle run hs t
    else match hs with
      | [] => .next t
      | [p] => issueAll run [p] t
      | hs => match issueAll run hs t.openCycle with
        | .next u => .next u.closeCycle
        | o => o)

/-- `SYNC_GROUP` (02 R36): the words of a group that can form are released. -/
def execSyncGroup : State → Out := event fun s =>
  match s.groupPulse with
  | some p => if p ≤ s.now ∧ (lanesAll.any s.me.inGroup) then s.updMe fun c => { c with released := true } else s
  | none => s

/-! ### What time brings -/

/-- Nothing of the core moves by itself. -/
def Core.still (x : Core) : Bool :=
  x.mode == .idle && x.pendSig.isEmpty && x.lampIn.isEmpty && x.matGate == .gated && x.bankNext.isNone && x.mrun.isNone

/-- Everything of a core that waits for nothing but time; in eager mode its engines' moves too. -/
def State.settleCore (s : State) (c : CoreId) : State :=
  if (s.core c).still then s else
  s.at_ c fun s =>
    let s := s.flushQueues.flushPaths
    let s := if s.eager then s.feedSettle else s
    let s := s.matSettle
    let s := if s.eager then s.feedSettle.xferSettle else s
    let s := if s.eager then s.updMe Core.applySigs else s
    let s := if s.eager then s.lampHere c else s
    let s := s.debugNow
    if s.eager && s.saveReady c then s.saveNow else s

/-- The package at its present tick. -/
def State.settle (s : State) : State :=
  let s := s.clusters.rows.foldl (fun s r => s.endRamp r.1) s
  let s := (s.grantAll.windowEnd).throttleSettle
  let s := if s.eager then s.clusters.rows.foldl (fun s r => turnSettle (s.turn r.1).queue.length r.1 s) s else s
  let s := s.cores.rows.foldl (fun s r => s.settleCore (BitVec.ofNat 11 r.1)) s
  let s := if s.eager then s.invalidateNext.parkSettle else s
  let s := s.stepSettle
  let t := s.ptime
  { s with vfs := s.vfs.all fun f => f.message t }

/-- The tick on which `PTIME` reaches a value that it has not reached. -/
def State.tickAt (s : State) (v : Nat) : Nat :=
  let p := s.pkg
  let need := (v - p.ptBase) * 26000000000 - p.ptFrac
  let per := 5 * (1000000000 + p.ratePpb).toNat
  p.ptTick + (need + per - 1) / per

/-- The tick on which `PTIME` reaches the next whole microsecond, or a time at which a launch goes on. -/
def State.timeTick (s : State) : Nat :=
  let now := s.ptime
  (s.stepTimes.filter fun v => decide (now < v)).foldl (fun m v => min m (s.tickAt v)) (s.tickAt ((now / 1000 + 1) * 1000))

/-- Pulses on which a core has something to do: its lanes, and its engines. -/
def State.coreNext (s : State) (c : CoreId) : List Nat :=
  let s := { s with focus := c }
  let now := s.now
  let later (p : Option Nat) : List Nat := match p with | some p => [max p (now + 1)] | none => []
  (lanesAll.filterMap s.laneNext) ++ later s.matNext
    ++ (if s.eager then later s.feedNext ++ later s.xferNext
        else (lanesAll.flatMap fun l => (s.me.lq.get (laneIdx l)).flatMap fun a => later a.limit) ++ s.me.vpath.flatMap fun w => later (some w.2.2))
    ++ (if s.me.mode == .saving && decide (now < s.me.mBusy) then [s.me.mBusy] else [])

/-- The next tick on which anything in the package is due. -/
def State.nextTick (s : State) : Nat :=
  let t := s.pkg.ticks
  let k := s.pkg.k
  let ofCore (m : Nat) (r : Nat × Core) : Nat :=
    let c : CoreId := BitVec.ofNat 11 r.1
    (s.coreNext c).foldl (fun m p => min m ((s.cluster (clusterOf c)).clk.tickOf k t p)) m
  let ofCluster (m : Nat) (r : Nat × Cluster) : Nat :=
    let m := match r.2.clk.ramp with | some e => min m (max e (t + 1)) | none => m
    match (if s.eager then s.turnDue r.1 else none) with
    | some (_, p) => min m (r.2.clk.tickOf k t (max p (r.2.clk.pulsesAt k t + 1)))
    | none => m
  s.clusters.rows.foldl ofCluster (s.cores.rows.foldl ofCore s.timeTick)

/-- The reference clock stands at a tick, and what is due has happened. -/
def State.passTo (s : State) (t : Nat) : State := (s.updPkg fun p => { p with ticks := max p.ticks t }).settle

/-! ### Turns -/

/-- The core has a lane with something to do now. -/
def State.coreDue (s : State) (c : CoreId) : Bool := !({ s with focus := c }).dueLanes.isEmpty

/-- The core that issues: the one asked for, or the lowest that is due. -/
def State.whoIssues (s : State) (c : CoreId) : Option CoreId :=
  if s.coreDue c then some c
  else (s.cores.rows.find? fun r => s.coreDue (BitVec.ofNat 11 r.1)).map fun r => BitVec.ofNat 11 r.1

/-- The outcome with a core in focus. -/
def refocus (c : CoreId) : Out → Out
  | .next t => .next { t with focus := c }
  | o => o

/-- Time goes on to the next tick on which anything is due; a core that is due issues. -/
def coreTurn (run : Run) (c : CoreId) (s : State) : Out :=
  let t := s.passTo s.nextTick
  match t.whoIssues c with
  | some d => refocus c (cycle run { t with focus := d })
  | none => .next { t with focus := c }

/-- The next word of a Signal Box context in RUN can start: a burst waits while eight are in flight (10 R263). -/
def State.boxStarts (s : State) (n : Nat) : Bool :=
  (s.box n).st == .run && match boxFetch s n with
    | .ok (.sburst _ _ _, _) | .ok (.sexpert _ _, _) => (s.box n).room
    | _ => true

/-- A turn of the Signal Box: the word that a context waits in goes on, or the lowest-numbered context in RUN whose next word can start
starts it (10 R262, R263). -/
def boxTurn (run : Run) (n : Nat) (s : State) : Out :=
  match if (s.box n).st = .wait then some n else (List.range 96).find? s.boxStarts with
  | none => .next s
  | some k => match boxFetch s k with
    | .ok (i, t) => run i { t with boxFocus := k }
    | .error e => s.boxEnd k (.error e)

/-- What an input from outside does. -/
def State.input (s : State) (x : Input) : State :=
  match x with
  | .recordsRead d n =>
    let s := s.recordsRead (boolNat d) n
    s.cores.rows.foldl (fun s r => let c : CoreId := BitVec.ofNat 11 r.1; if dieOf c = boolNat d then s.at_ c State.endPosted else s) s
  | .turnPeer cl p => s.turnPeer cl p
  | .farWrite pa bs => s.farWrite pa bs
  | .farHalo c g n => s.farHalo c g n
  | .authFail c n wb => s.authFail c n wb
  | .badFlow => s.countFab 1
  | .engineTimeout c id => s.engineTimeout c id
  | .capDevice p n => s.capDevice p n
  | .corrected k => s.corrected k

/-- An event of the agenda; `SYNC_GROUP` lets the group issue. -/
def eventTurn (run : Run) (i : Instr) (a : EventArg) (s : State) : Out :=
  if i.source.isSome then .fault .notAnEvent
  else match i, run i { s with arg := a, focus := a.core } with
    | .syncGroup, .next t => if t.me.released && !t.dueLanes.isEmpty then cycle run t else .next t
    | _, o => o

/-- A frozen package leaves that state by a package reset alone (21 R439). -/
def frozenTurn (run : Run) (t : Turn) (s : State) : Out :=
  match t with
  | .event .packageReset a => run .packageReset { s with arg := a, focus := a.core }
  | _ => .next s

def runTurn (run : Run) (t : Turn) (s : State) : Out :=
  if s.pkg.frozen then frozenTurn run t s
  else match t with
    | .core c => coreTurn run c s
    | .box n => boxTurn run n s
    | .event i a => eventTurn run i a s
    | .input x => .next (s.input x)
    | .tick n => .next (s.passTo (min (s.pkg.ticks + n) s.nextTick))
    | .eager b => .next (if b then { s with eager := true }.settle else { s with eager := false })
    | .latencies l => .next { s with openLats := l }

/-- A turn of a package that is not frozen begins: what a failed flit spoils is spoiled for this turn (11 R289). -/
def State.newTurn (s : State) : State :=
  if s.pkg.frozen || (s.ueOnce.isEmpty && s.ueNext.isEmpty) then s else { s with ueOnce := s.ueNext, ueNext := [] }

/-- One turn: the next of the agenda, or, where it is empty, the core in focus. -/
def stepWith (run : Run) (s : State) : Out :=
  let s := s.newTurn
  match s.agenda with
  | [] => if s.pkg.frozen then .next s else coreTurn run s.focus s
  | t :: r => runTurn run t { s with agenda := r }

end Sys2Proof.Machine
end

