-- ==== Sys2Proof/Machine/Dispatch.lean ====
section
/-! DEFINITION. The meaning of every instruction, one arm per constructor. -/

namespace Sys2Proof.Machine

open Sys2Proof

/-- The meaning of an instruction word, for the core (or Signal Box context) in focus, and of an event with the operands in `arg`. -/
def exec (i : Instr) (s : State) : Host.Outcome State Fault Refusal :=
  match i with
  | .add d a b => Sys2Proof.Machine.execAdd d a b s
  | .sub d a b => Sys2Proof.Machine.execSub d a b s
  | .and_ d a b => Sys2Proof.Machine.execAnd d a b s
  | .or_ d a b => Sys2Proof.Machine.execOr d a b s
  | .xor_ d a b => Sys2Proof.Machine.execXor d a b s
  | .andn d a b => Sys2Proof.Machine.execAndn d a b s
  | .shl d a b => Sys2Proof.Machine.execShl d a b s
  | .shr d a b => Sys2Proof.Machine.execShr d a b s
  | .sra d a b => Sys2Proof.Machine.execSra d a b s
  | .slt d a b => Sys2Proof.Machine.execSlt d a b s
  | .sltu d a b => Sys2Proof.Machine.execSltu d a b s
  | .min_ d a b => Sys2Proof.Machine.execMin d a b s
  | .max_ d a b => Sys2Proof.Machine.execMax d a b s
  | .minu d a b => Sys2Proof.Machine.execMinu d a b s
  | .maxu d a b => Sys2Proof.Machine.execMaxu d a b s
  | .sel d a b => Sys2Proof.Machine.execSel d a b s
  | .mul d a b => Sys2Proof.Machine.execMul d a b s
  | .mulh d a b => Sys2Proof.Machine.execMulh d a b s
  | .mulhu d a b => Sys2Proof.Machine.execMulhu d a b s
  | .div d a b => Sys2Proof.Machine.execDiv d a b s
  | .divu d a b => Sys2Proof.Machine.execDivu d a b s
  | .rem d a b => Sys2Proof.Machine.execRem d a b s
  | .remu d a b => Sys2Proof.Machine.execRemu d a b s
  | .clz d a => Sys2Proof.Machine.execClz d a s
  | .ctz d a => Sys2Proof.Machine.execCtz d a s
  | .popc d a => Sys2Proof.Machine.execPopc d a s
  | .addi d a imm => Sys2Proof.Machine.execAddi d a imm s
  | .andi d a imm => Sys2Proof.Machine.execAndi d a imm s
  | .ori d a imm => Sys2Proof.Machine.execOri d a imm s
  | .xori d a imm => Sys2Proof.Machine.execXori d a imm s
  | .shli d a sh => Sys2Proof.Machine.execShli d a sh s
  | .shri d a sh => Sys2Proof.Machine.execShri d a sh s
  | .srai d a sh => Sys2Proof.Machine.execSrai d a sh s
  | .slti d a imm => Sys2Proof.Machine.execSlti d a imm s
  | .lis d k imm => Sys2Proof.Machine.execLis d k imm s
  | .beq a b off => Sys2Proof.Machine.execBeq a b off s
  | .bne a b off => Sys2Proof.Machine.execBne a b off s
  | .blt a b off => Sys2Proof.Machine.execBlt a b off s
  | .bge a b off => Sys2Proof.Machine.execBge a b off s
  | .bltu a b off => Sys2Proof.Machine.execBltu a b off s
  | .bgeu a b off => Sys2Proof.Machine.execBgeu a b off s
  | .loop a off => Sys2Proof.Machine.execLoop a off s
  | .jmp off => Sys2Proof.Machine.execJmp off s
  | .call off => Sys2Proof.Machine.execCall off s
  | .jal d off => Sys2Proof.Machine.execJal d off s
  | .jalr d a imm => Sys2Proof.Machine.execJalr d a imm s
  | .mcall n d a b => Sys2Proof.Machine.execMcall n d a b s
  | .idle n => Sys2Proof.Machine.execIdle n s
  | .ldB d a imm => Sys2Proof.Machine.execLdB d a imm s
  | .ldBu d a imm => Sys2Proof.Machine.execLdBu d a imm s
  | .ldH d a imm => Sys2Proof.Machine.execLdH d a imm s
  | .ldHu d a imm => Sys2Proof.Machine.execLdHu d a imm s
  | .ldW d a imm => Sys2Proof.Machine.execLdW d a imm s
  | .ldWu d a imm => Sys2Proof.Machine.execLdWu d a imm s
  | .ldD d a imm => Sys2Proof.Machine.execLdD d a imm s
  | .stB a b off => Sys2Proof.Machine.execStB a b off s
  | .stH a b off => Sys2Proof.Machine.execStH a b off s
  | .stW a b off => Sys2Proof.Machine.execStW a b off s
  | .stD a b off => Sys2Proof.Machine.execStD a b off s
  | .ldx sz scale d a b => Sys2Proof.Machine.execLdx sz scale d a b s
  | .stx sz scale d a b => Sys2Proof.Machine.execStx sz scale d a b s
  | .pref hint a imm => Sys2Proof.Machine.execPref hint a imm s
  | .aptoPkg d a => Sys2Proof.Machine.execAptoPkg d a s
  | .aptoOwn d a => Sys2Proof.Machine.execAptoOwn d a s
  | .apis w d a => Sys2Proof.Machine.execApis w d a s
  | .ldaW d a imm => Sys2Proof.Machine.execLdaW d a imm s
  | .ldaD d a imm => Sys2Proof.Machine.execLdaD d a imm s
  | .stlW a b off => Sys2Proof.Machine.execStlW a b off s
  | .stlD a b off => Sys2Proof.Machine.execStlD a b off s
  | .atomW op ord d a b => Sys2Proof.Machine.execAtomW op ord d a b s
  | .atomD op ord d a b => Sys2Proof.Machine.execAtomD op ord d a b s
  | .casW succ fail d a b => Sys2Proof.Machine.execCasW succ fail d a b s
  | .casD succ fail d a b => Sys2Proof.Machine.execCasD succ fail d a b s
  | .fatomW op d a b => Sys2Proof.Machine.execFatomW op d a b s
  | .fatomD op d a b => Sys2Proof.Machine.execFatomD op d a b s
  | .fence kind scope => Sys2Proof.Machine.execFence kind scope s
  | .sigadd g a => Sys2Proof.Machine.execSigadd g a s
  | .sigwait g a => Sys2Proof.Machine.execSigwait g a s
  | .sigexpect g a => Sys2Proof.Machine.execSigexpect g a s
  | .sigread d g => Sys2Proof.Machine.execSigread d g s
  | .ringclaim d r a => Sys2Proof.Machine.execRingclaim d r a s
  | .ringcommit r a => Sys2Proof.Machine.execRingcommit r a s
  | .ringwaitf r a => Sys2Proof.Machine.execRingwaitf r a s
  | .ringwaite r a => Sys2Proof.Machine.execRingwaite r a s
  | .ringtake d r => Sys2Proof.Machine.execRingtake d r s
  | .ringdone r a => Sys2Proof.Machine.execRingdone r a s
  | .own first count1 o => Sys2Proof.Machine.execOwn first count1 o s
  | .ownwait first count1 o => Sys2Proof.Machine.execOwnwait first count1 o s
  | .tickwait a => Sys2Proof.Machine.execTickwait a s
  | .lamptest d => Sys2Proof.Machine.execLamptest d s
  | .collrdy a b => Sys2Proof.Machine.execCollrdy a b s
  | .rprobe d a b => Sys2Proof.Machine.execRprobe d a b s
  | .rput a b => Sys2Proof.Machine.execRput a b s
  | .rdrop a => Sys2Proof.Machine.execRdrop a s
  | .lvread d n => Sys2Proof.Machine.execLvread d n s
  | .lvwrite n a => Sys2Proof.Machine.execLvwrite n a s
  | .mfsel src base => Sys2Proof.Machine.execMfsel src base s
  | .acqp n => Sys2Proof.Machine.execAcqp n s
  | .relp n => Sys2Proof.Machine.execRelp n s
  | .setdiv eng dv => Sys2Proof.Machine.execSetdiv eng dv s
  | .phint a => Sys2Proof.Machine.execPhint a s
  | .trap n => Sys2Proof.Machine.execTrap n s
  | .sysr d n => Sys2Proof.Machine.execSysr d n s
  | .sysw n a => Sys2Proof.Machine.execSysw n a s
  | .l2conv back ways => Sys2Proof.Machine.execL2conv back ways s
  | .event a => Sys2Proof.Machine.execEvent a s
  | .xdset x a n => Sys2Proof.Machine.execXdset x a n s
  | .xdsetD1 x a b => Sys2Proof.Machine.execXdsetD1 x a b s
  | .xdsetD2 x a b => Sys2Proof.Machine.execXdsetD2 x a b s
  | .xdsetWin x a b => Sys2Proof.Machine.execXdsetWin x a b s
  | .xdsetLen x a b => Sys2Proof.Machine.execXdsetLen x a b s
  | .tbind a => Sys2Proof.Machine.execTbind a s
  | .tmap n a => Sys2Proof.Machine.execTmap n a s
  | .tgld real a g => Sys2Proof.Machine.execTgld real a g s
  | .tgate m a g => Sys2Proof.Machine.execTgate m a g s
  | .tcgate m d a g => Sys2Proof.Machine.execTcgate m d a g s
  | .tdiag m a g => Sys2Proof.Machine.execTdiag m a g s
  | .tswap a => Sys2Proof.Machine.execTswap a s
  | .tprob d a => Sys2Proof.Machine.execTprob d a s
  | .tnorm m d => Sys2Proof.Machine.execTnorm m d s
  | .vsetshape ty vl => Sys2Proof.Machine.execVsetshape ty vl s
  | .vadd d a b p => Sys2Proof.Machine.execVadd d a b p s
  | .vsub d a b p => Sys2Proof.Machine.execVsub d a b p s
  | .vmul d a b p => Sys2Proof.Machine.execVmul d a b p s
  | .vdiv d a b p => Sys2Proof.Machine.execVdiv d a b p s
  | .vmin d a b p => Sys2Proof.Machine.execVmin d a b p s
  | .vmax d a b p => Sys2Proof.Machine.execVmax d a b p s
  | .vfma d a b p => Sys2Proof.Machine.execVfma d a b p s
  | .vfms d a b p => Sys2Proof.Machine.execVfms d a b p s
  | .vfnma d a b p => Sys2Proof.Machine.execVfnma d a b p s
  | .vcmul d a b p => Sys2Proof.Machine.execVcmul d a b p s
  | .vabs d a p => Sys2Proof.Machine.execVabs d a p s
  | .vneg d a p => Sys2Proof.Machine.execVneg d a p s
  | .vrcp d a p => Sys2Proof.Machine.execVrcp d a p s
  | .vrsqrt d a p => Sys2Proof.Machine.execVrsqrt d a p s
  | .vsqrt d a p => Sys2Proof.Machine.execVsqrt d a p s
  | .vexp2 d a p => Sys2Proof.Machine.execVexp2 d a p s
  | .vlog2 d a p => Sys2Proof.Machine.execVlog2 d a p s
  | .vsinpi d a p => Sys2Proof.Machine.execVsinpi d a p s
  | .vcospi d a p => Sys2Proof.Machine.execVcospi d a p s
  | .vsig d a p => Sys2Proof.Machine.execVsig d a p s
  | .viadd d a b p => Sys2Proof.Machine.execViadd d a b p s
  | .visub d a b p => Sys2Proof.Machine.execVisub d a b p s
  | .vimul d a b p => Sys2Proof.Machine.execVimul d a b p s
  | .vand d a b p => Sys2Proof.Machine.execVand d a b p s
  | .vor d a b p => Sys2Proof.Machine.execVor d a b p s
  | .vxor d a b p => Sys2Proof.Machine.execVxor d a b p s
  | .vshl d a b p => Sys2Proof.Machine.execVshl d a b p s
  | .vshr d a b p => Sys2Proof.Machine.execVshr d a b p s
  | .vsra d a b p => Sys2Proof.Machine.execVsra d a b p s
  | .vcmp c d a b p => Sys2Proof.Machine.execVcmp c d a b p s
  | .vcmpU c d a b p => Sys2Proof.Machine.execVcmpU c d a b p s
  | .pand d a b => Sys2Proof.Machine.execPand d a b s
  | .por d a b => Sys2Proof.Machine.execPor d a b s
  | .pxor d a b => Sys2Proof.Machine.execPxor d a b s
  | .eform d a b p => Sys2Proof.Machine.execEform d a b p s
  | .pcount d a => Sys2Proof.Machine.execPcount d a s
  | .vql4dec d a blk p => Sys2Proof.Machine.execVql4dec d a blk p s
  | .vql4enc d a p => Sys2Proof.Machine.execVql4enc d a p s
  | .vredsum d a p => Sys2Proof.Machine.execVredsum d a p s
  | .vredmax d a p => Sys2Proof.Machine.execVredmax d a p s
  | .vredmin d a p => Sys2Proof.Machine.execVredmin d a p s
  | .vscan d a p => Sys2Proof.Machine.execVscan d a p s
  | .vcvt d a ty rm p => Sys2Proof.Machine.execVcvt d a ty rm p s
  | .vcvtS d a ty rm p => Sys2Proof.Machine.execVcvtS d a ty rm p s
  | .eclr d => Sys2Proof.Machine.execEclr d s
  | .eshift d a => Sys2Proof.Machine.execEshift d a s
  | .econv d a => Sys2Proof.Machine.execEconv d a s
  | .elshift d a => Sys2Proof.Machine.execElshift d a s
  | .eadd d a => Sys2Proof.Machine.execEadd d a s
  | .eord n => Sys2Proof.Machine.execEord n s
  | .vperm d a b p => Sys2Proof.Machine.execVperm d a b p s
  | .vslide d a n p => Sys2Proof.Machine.execVslide d a n p s
  | .vbcast d a p => Sys2Proof.Machine.execVbcast d a p s
  | .vcompress d a p => Sys2Proof.Machine.execVcompress d a p s
  | .vbucket d a b p => Sys2Proof.Machine.execVbucket d a b p s
  | .vld d x p => Sys2Proof.Machine.execVld d x p s
  | .vst d x p => Sys2Proof.Machine.execVst d x p s
  | .vlds d a b p => Sys2Proof.Machine.execVlds d a b p s
  | .vsts d a b p => Sys2Proof.Machine.execVsts d a b p s
  | .vgather d a b p => Sys2Proof.Machine.execVgather d a b p s
  | .vscatter d a b p => Sys2Proof.Machine.execVscatter d a b p s
  | .qld q x => Sys2Proof.Machine.execQld q x s
  | .vmovs d a n p => Sys2Proof.Machine.execVmovs d a n p s
  | .vguide d a b p => Sys2Proof.Machine.execVguide d a b p s
  | .vstep d a b p => Sys2Proof.Machine.execVstep d a b p s
  | .vtemb d a p => Sys2Proof.Machine.execVtemb d a p s
  | .vloop off n => Sys2Proof.Machine.execVloop off n s
  | .vbr c off p => Sys2Proof.Machine.execVbr c off p s
  | .tcfg t rows1 cols1 => Sys2Proof.Machine.execTcfg t rows1 cols1 s
  | .tldrow t x row => Sys2Proof.Machine.execTldrow t x row s
  | .tstrow t x row => Sys2Proof.Machine.execTstrow t x row s
  | .tmovr d t row => Sys2Proof.Machine.execTmovr d t row s
  | .tmovc d t col => Sys2Proof.Machine.execTmovc d t col s
  | .tzero t => Sys2Proof.Machine.execTzero t s
  | .tfma d a b => Sys2Proof.Machine.execTfma d a b s
  | .eeval d a b p => Sys2Proof.Machine.execEeval d a b p s
  | .ep2p d a b p => Sys2Proof.Machine.execEp2p d a b p s
  | .eadmit d a b => Sys2Proof.Machine.execEadmit d a b s
  | .eld d x => Sys2Proof.Machine.execEld d x s
  | .est d x => Sys2Proof.Machine.execEst d x s
  | .mma ab k1 mf rh ncol1 => Sys2Proof.Machine.execMma ab k1 mf rh ncol1 s
  | .mmasp ab k1 mf rh ncol1 => Sys2Proof.Machine.execMmasp ab k1 mf rh ncol1 s
  | .mmv ab k1 mf nv1 => Sys2Proof.Machine.execMmv ab k1 mf nv1 s
  | .mzero ab count => Sys2Proof.Machine.execMzero ab count s
  | .malloc ab count => Sys2Proof.Machine.execMalloc ab count s
  | .mfree ab count => Sys2Proof.Machine.execMfree ab count s
  | .mhand ab count core => Sys2Proof.Machine.execMhand ab count core s
  | .mdrain ab count x sg se => Sys2Proof.Machine.execMdrain ab count x sg se s
  | .mload ab count x => Sys2Proof.Machine.execMload ab count x s
  | .mfmt mf x => Sys2Proof.Machine.execMfmt mf x s
  | .mloop n off => Sys2Proof.Machine.execMloop n off s
  | .xcopy a b sg se => Sys2Proof.Machine.execXcopy a b sg se s
  | .xfeeda a n1 => Sys2Proof.Machine.execXfeeda a n1 s
  | .xfeedb a n1 => Sys2Proof.Machine.execXfeedb a n1 s
  | .xmcast mc b sg se => Sys2Proof.Machine.execXmcast mc b sg se s
  | .xgather a b c sg se => Sys2Proof.Machine.execXgather a b c sg se s
  | .xzce w a b sg se => Sys2Proof.Machine.execXzce w a b sg se s
  | .xzcd w a b sg se => Sys2Proof.Machine.execXzcd w a b sg se s
  | .xdelta ty a b sg se => Sys2Proof.Machine.execXdelta ty a b sg se s
  | .xhalo a b sg se => Sys2Proof.Machine.execXhalo a b sg se s
  | .xsig sg n => Sys2Proof.Machine.execXsig sg n s
  | .xloop n off => Sys2Proof.Machine.execXloop n off s
  | .sburst mc units src => Sys2Proof.Machine.execSburst mc units src s
  | .swrite addr v => Sys2Proof.Machine.execSwrite addr v s
  | .sloop n off => Sys2Proof.Machine.execSloop n off s
  | .swait core sg t => Sys2Proof.Machine.execSwait core sg t s
  | .ssig core sg n => Sys2Proof.Machine.execSsig core sg n s
  | .sexpert e mc => Sys2Proof.Machine.execSexpert e mc s
  | .sfetch e peer pkg => Sys2Proof.Machine.execSfetch e peer pkg s
  | .scount first n table => Sys2Proof.Machine.execScount first n table s
  | .sjump off => Sys2Proof.Machine.execSjump off s
  | .ret => Sys2Proof.Machine.execRet s
  | .halt => Sys2Proof.Machine.execHalt s
  | .vfence => Sys2Proof.Machine.execVfence s
  | .sync => Sys2Proof.Machine.execSync s
  | .lampsend => Sys2Proof.Machine.execLampsend s
  | .wake => Sys2Proof.Machine.execWake s
  | .eret => Sys2Proof.Machine.execEret s
  | .twait => Sys2Proof.Machine.execTwait s
  | .vnop => Sys2Proof.Machine.execVnop s
  | .mwait => Sys2Proof.Machine.execMwait s
  | .mstop => Sys2Proof.Machine.execMstop s
  | .xnop => Sys2Proof.Machine.execXnop s
  | .xwait => Sys2Proof.Machine.execXwait s
  | .shalt => Sys2Proof.Machine.execShalt s
  | .spark => Sys2Proof.Machine.execSpark s
  | .syncGroup => Sys2Proof.Machine.execSyncGroup s
  | .codeFetch => Sys2Proof.Machine.execCodeFetch s
  | .evRead => Sys2Proof.Machine.execEvRead s
  | .evWrite => Sys2Proof.Machine.execEvWrite s
  | .evFetch => Sys2Proof.Machine.execEvFetch s
  | .evEvict => Sys2Proof.Machine.execEvEvict s
  | .evDrain => Sys2Proof.Machine.execEvDrain s
  | .evWb => Sys2Proof.Machine.execEvWb s
  | .evMark => Sys2Proof.Machine.execEvMark s
  | .evExcl => Sys2Proof.Machine.execEvExcl s
  | .evFar => Sys2Proof.Machine.execEvFar s
  | .evVert => Sys2Proof.Machine.execEvVert s
  | .evHorz => Sys2Proof.Machine.execEvHorz s
  | .evEng => Sys2Proof.Machine.execEvEng s
  | .evDone => Sys2Proof.Machine.execEvDone s
  | .evSig => Sys2Proof.Machine.execEvSig s
  | .qldFill => Sys2Proof.Machine.execQldFill s
  | .feedEntryPush => Sys2Proof.Machine.execFeedEntryPush s
  | .manifestResolve => Sys2Proof.Machine.execManifestResolve s
  | .mCommandCommit => Sys2Proof.Machine.execMCommandCommit s
  | .tileRestore => Sys2Proof.Machine.execTileRestore s
  | .turntableCommand => Sys2Proof.Machine.execTurntableCommand s
  | .setdivRampEnd => Sys2Proof.Machine.execSetdivRampEnd s
  | .ringLink => Sys2Proof.Machine.execRingLink s
  | .lampArrive => Sys2Proof.Machine.execLampArrive s
  | .contextSave => Sys2Proof.Machine.execContextSave s
  | .preemptRequest => Sys2Proof.Machine.execPreemptRequest s
  | .preemptWithdraw => Sys2Proof.Machine.execPreemptWithdraw s
  | .debug => Sys2Proof.Machine.execDebug s
  | .resume => Sys2Proof.Machine.execResume s
  | .end_ => Sys2Proof.Machine.execEnd s
  | .save => Sys2Proof.Machine.execSave s
  | .retry => Sys2Proof.Machine.execRetry s
  | .abandon => Sys2Proof.Machine.execAbandon s
  | .macroStoreWrite => Sys2Proof.Machine.execMacroStoreWrite s
  | .ringConfigWrite => Sys2Proof.Machine.execRingConfigWrite s
  | .bindRecordWrite => Sys2Proof.Machine.execBindRecordWrite s
  | .dispatch => Sys2Proof.Machine.execDispatch s
  | .launch => Sys2Proof.Machine.execLaunch s
  | .stepStart => Sys2Proof.Machine.execStepStart s
  | .walkerExpand => Sys2Proof.Machine.execWalkerExpand s
  | .eventCoalesceTimeout => Sys2Proof.Machine.execEventCoalesceTimeout s
  | .evheadWrite => Sys2Proof.Machine.execEvheadWrite s
  | .lqpost => Sys2Proof.Machine.execLqpost s
  | .functionLevelReset => Sys2Proof.Machine.execFunctionLevelReset s
  | .sbStart => Sys2Proof.Machine.execSbStart s
  | .sbStop => Sys2Proof.Machine.execSbStop s
  | .sbctlResume => Sys2Proof.Machine.execSbctlResume s
  | .burstMemberDone => Sys2Proof.Machine.execBurstMemberDone s
  | .fetchEnd => Sys2Proof.Machine.execFetchEnd s
  | .expertEntryWrite => Sys2Proof.Machine.execExpertEntryWrite s
  | .pageOutPacked => Sys2Proof.Machine.execPageOutPacked s
  | .pageOutRaw => Sys2Proof.Machine.execPageOutRaw s
  | .pagesIn => Sys2Proof.Machine.execPagesIn s
  | .badcmd => Sys2Proof.Machine.execBadcmd s
  | .migrationComplete => Sys2Proof.Machine.execMigrationComplete s
  | .tlbInvalidate => Sys2Proof.Machine.execTlbInvalidate s
  | .invalidationComplete => Sys2Proof.Machine.execInvalidationComplete s
  | .l2WayGate => Sys2Proof.Machine.execL2WayGate s
  | .l2WayUngate => Sys2Proof.Machine.execL2WayUngate s
  | .vaultScrub => Sys2Proof.Machine.execVaultScrub s
  | .linkCrc => Sys2Proof.Machine.execLinkCrc s
  | .refreshWindow => Sys2Proof.Machine.execRefreshWindow s
  | .hbmRetrain => Sys2Proof.Machine.execHbmRetrain s
  | .retrain => Sys2Proof.Machine.execRetrain s
  | .healthClear => Sys2Proof.Machine.execHealthClear s
  | .flitReplay => Sys2Proof.Machine.execFlitReplay s
  | .portRetrain => Sys2Proof.Machine.execPortRetrain s
  | .portClear => Sys2Proof.Machine.execPortClear s
  | .fabricCountersClear => Sys2Proof.Machine.execFabricCountersClear s
  | .remoteTimeout => Sys2Proof.Machine.execRemoteTimeout s
  | .ptpMessage => Sys2Proof.Machine.execPtpMessage s
  | .collSendDone => Sys2Proof.Machine.execCollSendDone s
  | .collArrival => Sys2Proof.Machine.execCollArrival s
  | .parkedArrivalApply => Sys2Proof.Machine.execParkedArrivalApply s
  | .powerGrant => Sys2Proof.Machine.execPowerGrant s
  | .drawWindowEnd => Sys2Proof.Machine.execDrawWindowEnd s
  | .throttleInterval => Sys2Proof.Machine.execThrottleInterval s
  | .matrixGate => Sys2Proof.Machine.execMatrixGate s
  | .matrixWakeDone => Sys2Proof.Machine.execMatrixWakeDone s
  | .pwrcfgWrite => Sys2Proof.Machine.execPwrcfgWrite s
  | .reuseCountersClear => Sys2Proof.Machine.execReuseCountersClear s
  | .freeze => Sys2Proof.Machine.execFreeze s
  | .frzN => Sys2Proof.Machine.execFrzN s
  | .packageReset => Sys2Proof.Machine.execPackageReset s
  | .configurationImage => Sys2Proof.Machine.execConfigurationImage s
  | .getVersion => Sys2Proof.Machine.execGetVersion s
  | .getCapabilities => Sys2Proof.Machine.execGetCapabilities s
  | .negotiateAlgorithms => Sys2Proof.Machine.execNegotiateAlgorithms s
  | .getDigests => Sys2Proof.Machine.execGetDigests s
  | .getCertificate => Sys2Proof.Machine.execGetCertificate s
  | .challenge => Sys2Proof.Machine.execChallenge s
  | .getMeasurements => Sys2Proof.Machine.execGetMeasurements s
  | .registerWrite => Sys2Proof.Machine.execRegisterWrite s
  | .uncorrectableError => Sys2Proof.Machine.execUncorrectableError s

end Sys2Proof.Machine
end

