-- ==== Sys2Proof/Machine/Step.lean ====
section
/-! DEFINITION. One step of the machine, and a state that runs a given word next. -/

namespace Sys2Proof.Machine

open Sys2Proof

/-- One turn of the agenda; where the agenda is empty, the core in focus goes on (log 1). -/
def step (s : State) : Host.Outcome State Fault Refusal := stepWith exec s

/-- The core in focus runs, at its present level, a task whose one lane `l` holds the words `ws` as its whole section; the
other lanes are parked. -/
def Core.holding (c : Core) (l : Lane) (ws : List Code) : Core :=
  let section_ : Tab (Option Code) := { dflt := none, rows := ws.zipIdx.map fun p => (p.2, some p.1) }
  { c with
    mode := .running, inHandler := false, latch := none, traps := [], overdraw := false, trapHeld := none,
    lanes := (Tab.fill {}).set (laneIdx l) { parked := false, buf := section_ },
    ctl := { c.ctl with timed := false, clen := (Tab.fill 0).set (laneIdx l) (BitVec.ofNat 32 ws.length) } }

/-- The state with the instruction of an opcode-table pattern where the next step fetches it: the section of a lane of the
core in focus, or a program in the vault of core 0 that Signal Box context 0 runs next (log 7). -/
def State.withFetchWord (s : State) (nbits w : Nat) : State :=
  match tableSource nbits w with
  | none => s
  | some (.lane l) =>
    { s with agenda := [] }.updMe fun c => c.holding l ((tableWords w).take (laneStep l).toNat)
  | some .box =>
    let s := s.poke (keyVault 0 0) ((tableWords w).flatMap fun c => toBytes 4 c.toNat)
    { s with agenda := [.box 0], boxes := s.boxes.set 0 { pbase := 0xFF02000000000000, st := .run } }

end Sys2Proof.Machine
end

