-- ==== Sys2Proof/Safety.lean ====
section
/-! DEFINITION. What claims about the machine are stated in: when a word may issue, and what an instruction may change. -/

namespace Sys2Proof.Machine

open Sys2Proof

/-- The memory keeps its canonical form (log 3). -/
def State.Canonical (s : State) : Prop := Memory.wf s.mem = true

/-- The word of lane `l`, which reads the results `keys`, may issue (05 R126, 21 R433): it has not issued already, no draw
beyond the declared power has been found, and its results are readable. -/
structure Issues (l : Lane) (keys : List Nat) (s : State) : Prop where
  fresh : (s.lane l).waiting = false
  power : s.me.overdraw = false
  ready : ∀ k ∈ keys, s.isReady k = true
  shadow : l = .s → ∀ k ∈ keys, k < 32 → s.isReady (kSv k) = true

/-! ### Frames -/

/-- `t` differs from `s` in the core in focus alone: memory, every other core, the clusters, the dies, the virtual functions,
the Signal Box, the package and its clock stand. -/
structure OnlyCore (s t : State) : Prop where
  rest : { t with cores := s.cores } = s
  others : ∀ c, c ≠ s.focus → t.core c = s.core c

/-- Every byte of memory reads as before. -/
def SameMemory (s t : State) : Prop := ∀ a, memGet t.mem a = memGet s.mem a

/-- Of the lanes' records only that of `l` may differ. -/
def OnlyLane (l : Lane) (s t : State) : Prop := ∀ k, k ≠ l → t.lane k = s.lane k

/-- A word of the S lane that writes scalar `d` alone: the core in focus differs in that register, in when results are
readable, in the S lane's own record and in the equivalence snapshot; a write of `s0` changes no register (02 R45). -/
structure ScalarFrame (d : SReg) (s t : State) : Prop where
  outside : OnlyCore s t
  core : t.me = { s.me with r := { s.me.r with s := t.me.r.s, ready := t.me.r.ready }, lanes := t.me.lanes, eqj := t.me.eqj }
  regs : ∀ n, n ≠ d.toNat ∨ n = 0 → t.me.r.s.get n = s.me.r.s.get n
  lanes : OnlyLane .s s t
  memory : SameMemory s t

/-- The instructions of the S lane whose one effect is to write scalar `d`: the integer groups, the immediates, `LIS`, and the
address instructions (05 R121-R124, R145, R146). -/
def plainScalars (d a b : SReg) (imm : BitVec 11) (n : BitVec 6) (k : BitVec 2) (imm16 : BitVec 16) (w : Window) : List Instr :=
  [.add d a b, .sub d a b, .and_ d a b, .or_ d a b, .xor_ d a b, .andn d a b, .shl d a b, .shr d a b, .sra d a b,
   .slt d a b, .sltu d a b, .min_ d a b, .max_ d a b, .minu d a b, .maxu d a b, .sel d a b,
   .mul d a b, .mulh d a b, .mulhu d a b, .div d a b, .divu d a b, .rem d a b, .remu d a b, .clz d a, .ctz d a, .popc d a,
   .addi d a imm, .andi d a imm, .ori d a imm, .xori d a imm, .shli d a n, .shri d a n, .srai d a n, .slti d a imm,
   .lis d k imm16, .aptoPkg d a, .aptoOwn d a, .apis w d a]

/-! ### Accesses of the own scratchpad -/

/-- The lanes may use the `n` bytes at offset `o` of the own SRAM pool: they lie in the scratchpad and their slots are owned by
`lanes` (02 R60, R68). -/
structure OwnPool (s : State) (o n : Nat) : Prop where
  size : 0 < n
  low : s.me.ctl.pbReg ≤ o
  high : o + n ≤ s.me.ctl.pbSpad
  pool : o + n ≤ 0xC0000
  first : s.me.slotOwner o = .lanes
  last : s.me.slotOwner (o + n - 1) = .lanes

/-- No other core holds an open registration on the granule of a key: a plain access of it meets no race (13 R326). -/
def NoConflict (s : State) (key : Nat) : Prop := ∀ r ∈ s.regs, r.gran = key / 32 → r.core = s.focus.toNat

/-- No byte of memory is uncorrectable, no flit fails, and no channel is out of service. -/
def Sound (s : State) : Prop := s.ue = [] ∧ s.ueOnce = [] ∧ s.pkg.health.rows = []

/-- An access of lane `l` is performed as its word issues: nothing of the lane stands in its queue, and no barrier of the core holds
accesses back (13 R314, R317, R321). -/
structure Direct (l : Lane) (s : State) : Prop where
  eager : s.eager = true
  queue : s.me.lq.get (laneIdx l) = []
  barrier : s.me.barrier = none

/-- A load into scalar `d`: beside what a scalar word changes, only the registrations (13 R326). -/
structure LoadFrame (d : SReg) (s t : State) : Prop where
  rest : { t with cores := s.cores, regs := s.regs } = s
  others : ∀ c, c ≠ s.focus → t.core c = s.core c
  core : t.me = { s.me with r := { s.me.r with s := t.me.r.s, ready := t.me.r.ready }, lanes := t.me.lanes, eqj := t.me.eqj,
                            region := t.me.region }
  regs : ∀ n, n ≠ d.toNat ∨ n = 0 → t.me.r.s.get n = s.me.r.s.get n
  lanes : OnlyLane .s s t
  memory : SameMemory s t

/-- A store of `n` bytes at a key: every register stands, and every byte of memory outside the stored ones reads as before. -/
structure StoreFrame (key n : Nat) (s t : State) : Prop where
  rest : { t with cores := s.cores, regs := s.regs, mem := s.mem } = s
  others : ∀ c, c ≠ s.focus → t.core c = s.core c
  core : t.me = { s.me with lanes := t.me.lanes, eqj := t.me.eqj, region := t.me.region }
  lanes : OnlyLane .s s t
  memory : ∀ a, a < key ∨ key + n ≤ a → memGet t.mem a = memGet s.mem a

/-- The bytes at a key are the little-endian bytes of a value (00 R6). -/
def Holds (m : Memory) (key n : Nat) (v : Word) : Prop :=
  ∀ i, i < n → memGet m (key + i) = v.extractLsb' (8 * i) 8

/-! ### Words that complete, jump and wait -/

/-- What a word of lane `l` leaves that completes at `s` with the effect `u` and goes on at word `pc`: `u`, but for the lane's
own record, which has moved on and does not wait, and for the equivalence snapshot. -/
structure Leaves (l : Lane) (pc : BitVec 32) (s u t : State) : Prop where
  rest : { t with cores := u.cores } = u
  others : ∀ c, c ≠ s.focus → t.core c = u.core c
  core : t.me = { u.me with lanes := t.me.lanes, eqj := t.me.eqj }
  lanes : ∀ k, k ≠ l → t.lane k = s.lane k
  pc : (t.lane l).pc = pc
  free : (t.lane l).waiting = false

/-- The word of lane `l` after the one it stands at. -/
def State.nextPc (s : State) (l : Lane) : BitVec 32 := (s.lane l).pc + laneStep l

/-- `exec` answers a next state: instruction `i` of lane `l` completes, its effect on `s` is `u`, and nothing else changes. -/
def Completes (l : Lane) (i : Instr) (s u : State) : Prop := ∃ t, exec i s = .next t ∧ Leaves l (s.nextPc l) s u t

/-- `exec` answers a next state: the instruction completes with the effect `u`, and its lane goes on at word `pc`. -/
def Jumps (l : Lane) (i : Instr) (s u : State) (pc : BitVec 32) : Prop := ∃ t, exec i s = .next t ∧ Leaves l pc s u t

/-- `exec` answers a next state in which the instruction has not completed: its lane waits at the same word, and nothing else
than the lane's record has changed from `u`, and the equivalence snapshot. -/
def Waits (l : Lane) (i : Instr) (s u : State) : Prop :=
  ∃ t, exec i s = .next t ∧ { t with cores := u.cores } = u ∧ (∀ c, c ≠ s.focus → t.core c = u.core c) ∧
    t.me = { u.me with lanes := t.me.lanes, eqj := t.me.eqj } ∧ (∀ k, k ≠ l → t.lane k = s.lane k) ∧
    (t.lane l).pc = (s.lane l).pc ∧ (t.lane l).waiting = true

/-- Nothing of the core is on its way to memory: its lane queues, its dirty-line FIFO, its L1 and its list of drained lines are
empty, and no write-back has failed. A release and an acquire then have nothing to move (13 R316, R317). -/
structure Quiet (s : State) : Prop where
  eager : s.eager = true
  prog : s.prog .s = .none
  queues : s.me.queuesEmpty = true
  fifo : s.me.fifo = []
  drained : s.me.drained = []
  l1 : s.me.l1.rows = []
  failed : s.me.wbFail = none

/-- The state after a release of a scope by a core that is `Quiet`: its registrations are closed towards the scope, and a new
region begins (13 R326, R325). -/
def State.released (s : State) (sc : Scope) : State := (s.closeRegs s.focus sc).newRegion

/-- `s` with the memory of `t`. -/
def State.memOver (t s : State) : State := { s with mem := t.mem }

/-- `s` with everything that a write at the home of a line may change as it stands in `t`: memory, versions, the copies in
the L2s, and the counters that number versions and latencies (13 R313). -/
def State.homeOver (t s : State) : State :=
  { s with mem := t.mem, ue := t.ue, homeVer := t.homeVer, clusters := t.clusters, fresh := t.fresh, openLats := t.openLats }

/-- The result of an atomic on values of one width (06 R149). -/
def atomResult {w : Nat} (op : AtomOp) (old x : BitVec w) : BitVec w :=
  match op with
  | .add => old + x
  | .and => old &&& x
  | .or => old ||| x
  | .xor => old ^^^ x
  | .min => if old.sle x then old else x
  | .max => if x.sle old then old else x
  | .minu => if old.ule x then old else x
  | .maxu => if x.ule old then old else x
  | .swap => x

/-- A page of the local HBM that the lanes of the core may read and write, and that the TLB of the core holds: `n` bytes at the
virtual address `a` lie in it, from key `key` on, uncached when `mt` is not 0 (11 R299-R301). -/
structure Mapped (s : State) (a : Word) (n key : Nat) (mt : Nat) : Prop where
  low : a.toNat + n ≤ 2 ^ 56
  entry : ∃ e : TlbEntry, (∀ i, i < n → s.me.tlb.find? (fun x => x.covers s.me.ctl.vfid (a.toNat + i)) = some e) ∧
    e.w = true ∧ e.sys = false ∧ e.mt = mt ∧ key = e.pa + (a.toNat - e.va)
  local_ : key + n ≤ hbmSize
  unowned : ∀ i, i < n → s.owner.get ((key + i) / 128) = none

/-- The Turntable may read the `n` bytes at offset `o` of the own SRAM pool for a word of the S lane: they lie in the scratchpad,
their slots are owned by `turn`, and no other core has registered them (09 R245). -/
structure TurnPool (s : State) (o n : Nat) : Prop where
  low : s.me.ctl.pbReg ≤ o
  high : o + n ≤ s.me.ctl.pbSpad
  pool : o + n ≤ 0xC0000
  owner : ∀ i, i < n → s.me.slotOwner (o + i) = .turn
  alone : ∀ i, i < n → NoConflict s (keyPool s.focus (o + i))

/-- The Turntable command that a word of the S lane queues, at the end of the queue of its cluster (09 R240). -/
def Queues (i : Instr) (s : State) (op : TurnOp) (sa sd : Word) : Prop :=
  ∃ t c, exec i s = .next t ∧ c.op = op ∧ c.sa = sa ∧ c.sd = sd ∧ c.core = s.focus ∧ c.num = s.myCluster.turn.seq ∧
    t.myCluster.turn.queue = s.myCluster.turn.queue ++ [c] ∧ t.myCluster.turn.seq = s.myCluster.turn.seq + 1 ∧
    t.myCluster.turn.bound = s.myCluster.turn.bound ∧ t.myCluster.turn.map = s.myCluster.turn.map ∧
    Leaves .s (s.nextPc .s) s ((State.updMyCluster { s with openLats := t.openLats } fun k => { k with turn := t.myCluster.turn }).updMe
      fun c => { c with lq := t.me.lq }) t

/-! ### Vector words -/

/-- No value of an operand traps: no flag is enabled to, poison is not, and no vector register holds an uncorrectable word
(02 R62, 03 R88, 19 R418-R420). -/
structure Untrapped (s : State) : Prop where
  ten : s.me.src.ten = 0
  ptrap : s.me.src.ptrap = false
  words : s.me.vUe = []

/-- What a guarded V word reads that is active: the shape, its guard, its vector sources (all of them registers), and more. -/
def State.vReads (s : State) (p : PReg) (srcs : List VReg) (more : List Nat) : List Nat :=
  kShape :: kP (s.pp p) :: (vKeys s srcs ++ more)

/-- Element `i` of a vector register under the present shape. -/
def State.elem (s : State) (v : VReg) (i : Nat) : Nat := elemAt (etBytes s.ety) (s.me.v.get (s.pv v)) i

/-- The state after a vector word that gives results (index, pattern, flags) of width `w`: the flags are sticky, the listed
elements of the destination are replaced, and it is readable after `lat` cycles of the vector engine (03 R88, 07 R210). -/
def State.vDone (s : State) (d : VReg) (w lat : Nat) (res : List (Nat × Nat × FpFlags)) : State :=
  (s.updCtl fun c => { c with fpflags := c.fpflags ||| (allFlags (res.map fun r => r.2.2)).toBits }).wrV d w
    (res.map fun r => (r.1, r.2.1)) lat

/-- Every element of a memory word lies in the own scratchpad, at the pool offset that `off` gives, aligned, in slots of the
lanes, and registered by no other core. -/
def InOwnPool (s : State) (w : Nat) (act : List Nat) (off : Nat → Nat) : Prop :=
  ∀ i ∈ act, off i % w = 0 ∧ OwnPool s (off i) w ∧ NoConflict s (keyPool s.focus (off i))

/-- Byte `j` of a value. -/
def byteOf (x j : Nat) : Byte := BitVec.ofNat 8 (x / 2 ^ (8 * j))

/-- `n` walk bytes of a descriptor from its cursor are the own scratchpad from pool offset `o` on, in pieces of `w` bytes that
the lanes may use (08 R211, 07 R201). -/
structure WalkInOwnPool (s : State) (x : XdReg) (n w o : Nat) : Prop where
  shape : (s.rdXd x).shapeOk = true
  walk : (s.rdXd x).window = false
  long : (s.rdXd x).cur.toNat + n ≤ (s.rdXd x).len.toNat
  start : (s.rdXd x).addr (s.rdXd x).cur.toNat = 0xFF00000000000000 + BitVec.ofNat 64 o
  run : (s.rdXd x).contiguous (s.rdXd x).cur.toNat n = true
  whole : n % w = 0 ∧ 0 < n
  pool : ∀ i, i < n / w → (o + w * i) % w = 0 ∧ OwnPool s (o + w * i) w ∧ NoConflict s (keyPool s.focus (o + w * i))

/-- The divisor of an engine. -/
def Clock.divOf (c : Clock) (e : Engine) : Nat := match e with | .ctl => c.ctl | .mat => c.mat | .vec => c.vec | .copy => c.copy

/-! ### Matrix and X words -/

/-- The matrix engine is free and awake, and no drain still reads a bank of b .. b + n - 1 (08 R214, 21 R435). -/
structure EngineReady (s : State) (b n : Nat) : Prop where
  free : s.me.engineFree s.now = true
  awake : s.me.matGate = .awake
  drains : ∀ t ∈ s.me.xfers, ∀ d m, t.kind = .drain d m → b + n ≤ d ∨ d + t.a.len.toNat / (1024 * drainBytes m) ≤ b

/-- Bank `j` of the core is allocated. -/
def State.isAlloc (s : State) (j : Nat) : Prop := (s.me.banks.get j).alloc = true

/-- The runs that a word of the copy engine writes and reads pass the rows of 08 R227 below the length rule, the runs `al`
being made of whole elements of `w` bytes at multiples of `w`. -/
structure XPasses (s : State) (wr rd : List (Word × Nat)) (w : Nat) (al : List (Word × Nat)) : Prop where
  inside : ∀ p ∈ pieces4 true wr ++ pieces4 false rd, (decodeAddr s s.focus p.a p.n p.wr).isSome = true
  banks : ∀ p ∈ pieces4 true wr ++ pieces4 false rd, ∀ c o, decodeAddr s s.focus p.a p.n p.wr = some (.acc c o) →
    ((s.core c).banks.get (o / 12288)).alloc = true ∧ ((s.core c).banks.get (o / 12288)).holder = s.focus ∧ o % 12 = 0 ∧ p.n % 12 = 0
  aligned : ∀ r ∈ al, r.1.toNat % w = 0 ∧ r.2 % w = 0
  owned : ∀ p ∈ pieces4 true wr ++ pieces4 false rd, ∀ c b o, decodeAddr s s.focus p.a p.n p.wr = some (.spad c b o) →
    (s.core c).slotOwner o = .xe

/-- `exec` answers a next state in which instruction `i` of lane `l` has put the item `x` behind the others of its core's
engine, numbered after every earlier item; all else is as in `u`. -/
def Enqueues (l : Lane) (i : Instr) (s u : State) (x : Transfer) : Prop :=
  ∃ t y, exec i s = .next t ∧ y = { x with id := y.id, at_ := y.at_, sys := s.me.ctl.pl, iss := s.now } ∧ y.id = s.fresh ∧ s.now ≤ y.at_ ∧
    Leaves l (s.nextPc l) s (State.updMe { u with fresh := s.fresh + 1, openLats := t.openLats } fun c => { c with xfers := s.me.xfers ++ [y] }) t

end Sys2Proof.Machine
end

