-- ==== Sys2Proof/Certificates/Slice0/Obligations.lean ====
section
/-! DEFINITION. The statements for the provers. -/

open Sys2Proof Sys2Proof.Machine

/-! ### S lane: arithmetic and control -/

/-- 05 R121: the integer group completes with the result of the table, modulo 2^64; `SEL` reads the old destination as its
condition. The result is readable one cycle later (05 R125). -/
def Obligations.IntegerGroupCompletes : Prop :=
  ∀ (s : State) (d a b : SReg), Issues .s [kS a, kS b] s →
    let x := s.rdS a
    let y := s.rdS b
    let done (v : Word) : Out := .next (((s.starts .s).wrS d v 1).retire .s)
    exec (.add d a b) s = done (x + y) ∧ exec (.sub d a b) s = done (x - y) ∧
    exec (.and_ d a b) s = done (x &&& y) ∧ exec (.or_ d a b) s = done (x ||| y) ∧
    exec (.xor_ d a b) s = done (x ^^^ y) ∧ exec (.andn d a b) s = done (x &&& ~~~y) ∧
    exec (.shl d a b) s = done (x <<< (bits y 0 6).toNat) ∧
    exec (.shr d a b) s = done (x >>> (bits y 0 6).toNat) ∧
    exec (.sra d a b) s = done (x.sshiftRight (bits y 0 6).toNat) ∧
    exec (.slt d a b) s = done (if x.slt y then 1 else 0) ∧
    exec (.sltu d a b) s = done (if x.ult y then 1 else 0) ∧
    exec (.min_ d a b) s = done (if y.slt x then y else x) ∧
    exec (.max_ d a b) s = done (if x.slt y then y else x) ∧
    exec (.minu d a b) s = done (if y.ult x then y else x) ∧
    exec (.maxu d a b) s = done (if x.ult y then y else x) ∧
    (Issues .s [kS d, kS a, kS b] s → exec (.sel d a b) s = done (if s.rdS d = 0 then y else x))

/-- 05 R122: the multiply, divide and count group completes with the results of the rule: `MULH` and `MULHU` the high halves
of exact 128-bit products, the divisions rounding toward zero with the fixed results for a zero divisor, `CLZ` and `CTZ` 64
for 0. Results are readable after 3, 34 and 1 cycles, and a division needs the divider free (05 R125, R126). -/
def Obligations.MultiplyDivideCountCompletes : Prop :=
  (∀ (s : State) (d a b : SReg), Issues .s [kS a, kS b] s →
    let x := s.rdS a
    let y := s.rdS b
    let done (v : Word) : Out := .next (((s.starts .s).wrS d v 3).retire .s)
    exec (.mul d a b) s = done (x * y) ∧
    exec (.mulh d a b) s = done ((x.signExtend 128 * y.signExtend 128).extractLsb' 64 64) ∧
    exec (.mulhu d a b) s = done ((x.setWidth 128 * y.setWidth 128).extractLsb' 64 64)) ∧
  (∀ (s : State) (d a b : SReg), Issues .s [kS a, kS b, kDiv] s →
    let x := s.rdS a
    let y := s.rdS b
    let done (v : Word) : Out := .next ((((s.starts .s).wrS d v 34).setReady kDiv 34).retire .s)
    exec (.div d a b) s = done (if y = 0 then -1 else x.sdiv y) ∧
    exec (.rem d a b) s = done (if y = 0 then x else x.srem y) ∧
    exec (.divu d a b) s = done (if y = 0 then -1 else x / y) ∧
    exec (.remu d a b) s = done (if y = 0 then x else x % y)) ∧
  (∀ (s : State) (d a : SReg), Issues .s [kS a] s →
    let x := s.rdS a
    let done (n : Nat) : Out := .next (((s.starts .s).wrS d (BitVec.ofNat 64 n) 1).retire .s)
    (∃ n, exec (.clz d a) s = done n ∧ n ≤ 64 ∧ x.toNat < 2 ^ (64 - n) ∧ (n < 64 → 2 ^ (63 - n) ≤ x.toNat)) ∧
    (∃ n, exec (.ctz d a) s = done n ∧ n ≤ 64 ∧ x.toNat % 2 ^ n = 0 ∧ (n < 64 → x.getLsbD n = true)) ∧
    exec (.popc d a) s = done ((List.range 64).countP fun i => x.getLsbD i))

/-- 05 R123: the immediates complete as the rule says, and the three shifts with a nonzero imm11[10:6] are no instruction,
RESERVED_FIELD. -/
def Obligations.ImmediatesComplete : Prop :=
  (∀ (s : State) (d a : SReg) (imm : BitVec 11) (n : BitVec 6), Issues .s [kS a] s →
    let x := s.rdS a
    let done (v : Word) : Out := .next (((s.starts .s).wrS d v 1).retire .s)
    exec (.addi d a imm) s = done (x + imm.signExtend 64) ∧
    exec (.slti d a imm) s = done (if x.slt (imm.signExtend 64) then 1 else 0) ∧
    exec (.andi d a imm) s = done (x &&& imm.setWidth 64) ∧
    exec (.ori d a imm) s = done (x ||| imm.setWidth 64) ∧
    exec (.xori d a imm) s = done (x ^^^ imm.setWidth 64) ∧
    exec (.shli d a n) s = done (x <<< n.toNat) ∧
    exec (.shri d a n) s = done (x >>> n.toNat) ∧
    exec (.srai d a n) s = done (x.sshiftRight n.toNat)) ∧
  ∀ w : Code, bits w 21 7 = 0x0C ∨ bits w 21 7 = 0x0D ∨ bits w 21 7 = 0x0E → bits w 6 5 ≠ 0 →
    decode (.lane .s) [w] = .error .reservedField

/-- 05 R124: `LIS` clears the bits below 16k, keeps those above 16k + 15, and places its value between them. -/
def Obligations.LisCompletes : Prop :=
  ∀ (s : State) (d : SReg) (k : BitVec 2) (imm : BitVec 16), Issues .s (if k = 3 then [] else [kS d]) s →
    ∃ v : Word, exec (.lis d k imm) s = .next (((s.starts .s).wrS d v 1).retire .s) ∧
      ∀ i, i < 64 → v.getLsbD i =
        (if i < 16 * k.toNat then false
         else if i < 16 * k.toNat + 16 then imm.getLsbD (i - 16 * k.toNat)
         else (s.rdS d).getLsbD i)

/-- 02 R45, 05 R121-R124, R145, R146: an instruction of these groups changes no register but its destination, none at all
when that is `s0`, no other lane, nothing else of the core but when results are readable and the equivalence snapshot, and
nothing outside the core; or it raises SCHED_MISS. -/
def Obligations.PlainScalarFrame : Prop :=
  ∀ (d a b : SReg) (imm : BitVec 11) (n : BitVec 6) (k : BitVec 2) (imm16 : BitVec 16) (w : Window) (s t : State),
  ∀ i ∈ plainScalars d a b imm n k imm16 w, s.me.overdraw = false → exec i s = .next t →
    t = s.raise .s .schedMiss s.cycIn ∨ ScalarFrame d s t

/-- 05 R128, R129: the six branches compare and go to PC + sext(off11) when the comparison holds, to the next word when not;
a taken target outside the section raises ILLEGAL_OP with the target, and nothing changes. -/
def Obligations.BranchesComplete : Prop :=
  ∀ (s : State) (a b : SReg) (off : BitVec 11), Issues .s [kS a, kS b] s →
    let x := s.rdS a
    let y := s.rdS b
    let target := (s.lane .s).pc + off.signExtend 32
    ∀ (i : Instr) (holds : Prop),
      (i, holds) ∈ ([(.beq a b off, x = y), (.bne a b off, x ≠ y), (.blt a b off, x.toInt < y.toInt),
        (.bge a b off, y.toInt ≤ x.toInt), (.bltu a b off, x.toNat < y.toNat), (.bgeu a b off, y.toNat ≤ x.toNat)]
        : List (Instr × Prop)) →
      (¬ holds → ∃ t, exec i s = .next t ∧ (t.lane .s).pc = (s.lane .s).pc + 1 ∧ ScalarFrame 0 s t) ∧
      (holds → target.toNat < s.me.clen .s → ∃ t, exec i s = .next t ∧ (t.lane .s).pc = target ∧ ScalarFrame 0 s t) ∧
      (holds → s.me.clen .s ≤ target.toNat → exec i s = .next (s.raise .s .illegalOp (target.setWidth 64)))

/-- 05 R130, R131: `LOOP` counts its register down and goes back while it is not zero; `JMP`, `JAL` and `JALR` transfer, the
link being the index of the next word; `JALR` reads its base before it writes the link. -/
def Obligations.LoopAndJumpsComplete : Prop :=
  (∀ (s : State) (a : SReg) (off : BitVec 11), Issues .s [kS a] s →
    let x := s.rdS a
    let target := (s.lane .s).pc + off.signExtend 32
    (x = 0 → ∃ t, exec (.loop a off) s = .next t ∧ (t.lane .s).pc = (s.lane .s).pc + 1 ∧ ScalarFrame 0 s t) ∧
    (x = 1 → ∃ t, exec (.loop a off) s = .next t ∧ (t.lane .s).pc = (s.lane .s).pc + 1 ∧ t.me.r.s.get a.toNat = 0 ∧
      ScalarFrame a s t) ∧
    (1 < x.toNat → target.toNat < s.me.clen .s → ∃ t, exec (.loop a off) s = .next t ∧ (t.lane .s).pc = target ∧
      t.me.r.s.get a.toNat = x - 1 ∧ ScalarFrame a s t)) ∧
  (∀ (s : State) (off : BitVec 21), Issues .s [] s →
    let target := (s.lane .s).pc + off.signExtend 32
    target.toNat < s.me.clen .s → ∃ t, exec (.jmp off) s = .next t ∧ (t.lane .s).pc = target ∧ ScalarFrame 0 s t) ∧
  (∀ (s : State) (d : SReg) (off : BitVec 16), Issues .s [] s →
    let target := (s.lane .s).pc + off.signExtend 32
    target.toNat < s.me.clen .s → ∃ t, exec (.jal d off) s = .next t ∧ (t.lane .s).pc = target ∧
      (d ≠ 0 → t.me.r.s.get d.toNat = ((s.lane .s).pc + 1).setWidth 64) ∧ ScalarFrame d s t) ∧
  (∀ (s : State) (d a : SReg) (imm : BitVec 11), Issues .s [kS a] s →
    let target := (s.rdS a).setWidth 32 + imm.signExtend 32
    target.toNat < s.me.clen .s → ∃ t, exec (.jalr d a imm) s = .next t ∧ (t.lane .s).pc = target ∧
      (d ≠ 0 → t.me.r.s.get d.toNat = ((s.lane .s).pc + 1).setWidth 64) ∧ ScalarFrame d s t)

/-! ### S lane: memory -/

/-- 05 R141, R125: a load of the own scratchpad completes with the little-endian value of its bytes, sign-extended or, in the
`u` forms, zero-extended, readable after 3 cycles; a load that names `s0` discards the value. It changes no byte of memory. -/
def Obligations.LoadsOfOwnScratchpadComplete : Prop :=
  ∀ (s : State) (d a b : SReg) (imm : BitVec 11) (sc : BitVec 2) (o : Nat), Direct .s s → Sound s →
    ∀ (i : Instr) (ks : List Nat) (addr : Word) (n : Nat) (signed : Bool),
      (i, ks, addr, n, signed) ∈ ([
        (.ldB d a imm, [kS a], s.rdS a + imm.signExtend 64, 1, true),
        (.ldBu d a imm, [kS a], s.rdS a + imm.signExtend 64, 1, false),
        (.ldH d a imm, [kS a], s.rdS a + imm.signExtend 64, 2, true),
        (.ldHu d a imm, [kS a], s.rdS a + imm.signExtend 64, 2, false),
        (.ldW d a imm, [kS a], s.rdS a + imm.signExtend 64, 4, true),
        (.ldWu d a imm, [kS a], s.rdS a + imm.signExtend 64, 4, false),
        (.ldD d a imm, [kS a], s.rdS a + imm.signExtend 64, 8, true),
        (.ldx .b sc d a b, [kS a, kS b], s.rdS a + s.rdS b <<< sc.toNat, 1, true),
        (.ldx .bu sc d a b, [kS a, kS b], s.rdS a + s.rdS b <<< sc.toNat, 1, false),
        (.ldx .h sc d a b, [kS a, kS b], s.rdS a + s.rdS b <<< sc.toNat, 2, true),
        (.ldx .hu sc d a b, [kS a, kS b], s.rdS a + s.rdS b <<< sc.toNat, 2, false),
        (.ldx .w sc d a b, [kS a, kS b], s.rdS a + s.rdS b <<< sc.toNat, 4, true),
        (.ldx .wu sc d a b, [kS a, kS b], s.rdS a + s.rdS b <<< sc.toNat, 4, false),
        (.ldx .d sc d a b, [kS a, kS b], s.rdS a + s.rdS b <<< sc.toNat, 8, true)]
        : List (Instr × List Nat × Word × Nat × Bool)) →
      Issues .s ks s → addr = 0xFF00000000000000 + BitVec.ofNat 64 o → o % n = 0 → OwnPool s o n →
      NoConflict s (keyPool s.focus o) →
      ∃ t v, exec i s = .next t ∧ Holds s.mem (keyPool s.focus o) n v ∧
        (if signed then v = (v.setWidth (8 * n)).signExtend 64 else v = (v.setWidth (8 * n)).setWidth 64) ∧
        (d ≠ 0 → t.me.r.s.get d.toNat = v ∧ t.me.r.ready.get (kS d) = some (s.now + 3)) ∧
        (t.lane .s).pc = (s.lane .s).pc + 1 ∧ LoadFrame d s t

/-- 05 R141: a store to the own scratchpad completes; its bytes are the low bytes of the data register, least significant
first, and no other byte of memory and no register changes. -/
def Obligations.StoresToOwnScratchpadComplete : Prop :=
  ∀ (s : State) (d a b : SReg) (off : BitVec 11) (sc : BitVec 2) (o : Nat), Direct .s s → s.me.latch = none → Sound s →
    ∀ (i : Instr) (ks : List Nat) (addr v : Word) (n : Nat),
      (i, ks, addr, v, n) ∈ ([
        (.stB a b off, [kS a, kS b], s.rdS a + off.signExtend 64, s.rdS b, 1),
        (.stH a b off, [kS a, kS b], s.rdS a + off.signExtend 64, s.rdS b, 2),
        (.stW a b off, [kS a, kS b], s.rdS a + off.signExtend 64, s.rdS b, 4),
        (.stD a b off, [kS a, kS b], s.rdS a + off.signExtend 64, s.rdS b, 8),
        (.stx .b sc d a b, [kS a, kS b, kS d], s.rdS a + s.rdS b <<< sc.toNat, s.rdS d, 1),
        (.stx .h sc d a b, [kS a, kS b, kS d], s.rdS a + s.rdS b <<< sc.toNat, s.rdS d, 2),
        (.stx .w sc d a b, [kS a, kS b, kS d], s.rdS a + s.rdS b <<< sc.toNat, s.rdS d, 4),
        (.stx .d sc d a b, [kS a, kS b, kS d], s.rdS a + s.rdS b <<< sc.toNat, s.rdS d, 8)]
        : List (Instr × List Nat × Word × Word × Nat)) →
      Issues .s ks s → addr = 0xFF00000000000000 + BitVec.ofNat 64 o → o % n = 0 → OwnPool s o n →
      NoConflict s (keyPool s.focus o) →
      ∃ t, exec i s = .next t ∧ Holds t.mem (keyPool s.focus o) n v ∧ (t.lane .s).pc = (s.lane .s).pc + 1 ∧
        StoreFrame (keyPool s.focus o) n s t

/-- 05 R145, R146: `APTO` converts between the own-core and the package-wide windows and passes every other value through;
`APIS` tells whether a one-byte read would decode to the window. -/
def Obligations.AddressInstructionsComplete : Prop :=
  ∀ (s : State) (d a : SReg), Issues .s [kS a] s →
    let x := s.rdS a
    let top := bits x 48 16
    let w := bits x 0 48
    let peer := peerOf s.focus (bits x 20 3).toNat
    let within (v : Window) : Prop := match v with
      | .ownSpad => top = 0xFF00 ∧ s.me.ctl.pbReg ≤ w.toNat ∧ w.toNat < s.me.ctl.pbSpad
      | .ownVault => top = 0xFF01 ∧ w.toNat < 0x400000
      | .anyVault => top = 0xFF02 ∧ w.toNat < 2 ^ 33 ∧ (bits x 25 5).toNat < 18
      | .peerSpad => top = 0xFF03 ∧ w.toNat < 2 ^ 23 ∧ (s.core peer).ctl.pbReg ≤ (bits x 0 20).toNat ∧
          (bits x 0 20).toNat < (s.core peer).ctl.pbSpad
      | .peerAcc => top = 0xFF04 ∧ w.toNat < 2 ^ 22 ∧ (bits x 0 19).toNat < 0x60000
      | .global => bits x 56 8 ≠ 0xFF ∧ bits x 57 7 = if x.getLsbD 56 then 0x7F else 0
    Completes .s (.aptoPkg d a) s (s.wrS d
      (if top = 0xFF00 ∧ w.toNat < 0xC0000 then 0xFF03000000000000 + ((bits s.focus 0 3).setWidth 64 <<< 20) + w.setWidth 64
       else if top = 0xFF01 ∧ w.toNat < 0x400000 then 0xFF02000000000000 + (s.focus.setWidth 64 <<< 22) + w.setWidth 64
       else x) 1) ∧
    Completes .s (.aptoOwn d a) s (s.wrS d
      (if top = 0xFF02 ∧ bits x 33 15 = 0 ∧ bits x 22 11 = s.focus then 0xFF01000000000000 + (bits x 0 22).setWidth 64
       else if top = 0xFF03 ∧ bits x 23 25 = 0 ∧ bits x 20 3 = bits s.focus 0 3 then
         0xFF00000000000000 + (bits x 0 20).setWidth 64
       else x) 1) ∧
    ∀ v : Window, ∃ y : Word, Completes .s (.apis v d a) s (s.wrS d y 1) ∧ (within v → y = 1) ∧ (¬ within v → y = 0)

/-- 05 R132-R134: `CALL` pushes the return index and `s24` to `s31` at `SPILLTOP`, least significant byte first, and
transfers; `RET` reads a frame back and transfers to its return index; a `SPILLTOP` outside the spill area raises SPILL_LIMIT
and nothing is pushed or popped. -/
def Obligations.CallAndReturnComplete : Prop :=
  (∀ (s : State) (off : BitVec 21), Issues .s (frameRegs.map kS) s → Direct .s s → s.me.latch = none → Sound s →
    let top := s.me.ctl.spillTop
    let key := keyPool s.focus top.toNat
    let target := (s.lane .s).pc + off.signExtend 32
    let fits := top.toNat % 8 = 0 ∧ s.me.ctl.spillBase.toNat ≤ top.toNat ∧ top.toNat + 72 ≤ s.me.ctl.spillLim.toNat
    (fits → OwnPool s top.toNat 72 → target.toNat < s.me.clen .s →
      ∃ t, exec (.call off) s = .next t ∧
        Leaves .s target s ((t.memOver s).updCtl fun c => { c with spillTop := top + 72 }) t ∧
        Holds t.mem key 8 (((s.lane .s).pc + 1).setWidth 64) ∧
        (∀ n : SReg, 24 ≤ n.toNat → Holds t.mem (key + 8 * (n.toNat - 23)) 8 (s.rdS n)) ∧
        ∀ a, a < key ∨ key + 72 ≤ a → memGet t.mem a = memGet s.mem a) ∧
    (¬ fits → exec (.call off) s = .next (s.raise .s .spillLimit top))) ∧
  ∀ (s : State) (f : Nat → Word), Issues .s [] s → Quiet s → Sound s →
    let top := s.me.ctl.spillTop
    let fits := top.toNat % 8 = 0 ∧ top.toNat ≤ s.me.ctl.spillLim.toNat ∧ s.me.ctl.spillBase.toNat + 72 ≤ top.toNat
    (fits → OwnPool s (top.toNat - 72) 72 → (∀ n, n < 9 → Holds s.mem (keyPool s.focus (top.toNat - 72) + 8 * n) 8 (f n)) →
      (bits (f 0) 0 32).toNat < s.me.clen .s →
      ∃ t, exec .ret s = .next t ∧
        Leaves .s (bits (f 0) 0 32) s ((s.updCtl fun c => { c with spillTop := top - 72 }).updR fun r =>
          { r with s := t.me.r.s, ready := t.me.r.ready }) t ∧
        ∀ n : SReg, t.me.r.s.get n.toNat = if 24 ≤ n.toNat then f (n.toNat - 23) else s.me.r.s.get n.toNat) ∧
    (¬ fits → exec .ret s = .next (s.raise .s .spillLimit top))

/-- 05 R135, R144: `IDLE n` has no effect but that the next word issues IDLE + n + 1 cycles later; `PREF` has none.
05 R139, R140: `MCALL` of a macro that is not well formed raises ILLEGAL_FN with its number; a macro of one word, whose
register fields the call has filled in, completes with that word's result. -/
def Obligations.IdlePrefetchAndMacroCallComplete : Prop :=
  ((∀ (s : State) (n : BitVec 16), Issues .s [] s →
     ∃ t, exec (.idle n) s = .next t ∧ Leaves .s (s.nextPc .s) s s t ∧
       (t.lane .s).due = s.spacedFrom + (s.lane .s).frame.idle.toNat + n.toNat + 1) ∧
   ∀ (s : State) (h : BitVec 2) (a : SReg) (imm : BitVec 11), Issues .s [kS a] s → Completes .s (.pref h a imm) s s) ∧
  ((∀ (s : State) (n : BitVec 6) (d a b : SReg), Issues .s [] s → macroOk s.me n.toNat = false →
     exec (.mcall n d a b) s = .next (s.raise .s .illegalFn (n.setWidth 64))) ∧
   ∀ (s : State) (n : BitVec 6) (d a b d' a' b' : SReg) (imm : BitVec 11) (e : MacroEntry) (i : Instr) (v : Word),
     Issues .s [] s → (∀ k, k < 32 → s.me.src.ready.get k ≠ none) →
     s.me.macros.get (16 * n.toNat) = e → e.last = true → e.valid = true → macroOk s.me n.toNat = true →
     decode (.lane .s) [BitVec.ofNat 32 (macroWord e d a b)] = .ok i →
     (i, v) ∈ ([(.add d' a' b', s.rdS a' + s.rdS b'), (.sub d' a' b', s.rdS a' - s.rdS b'),
       (.mul d' a' b', s.rdS a' * s.rdS b'), (.addi d' a' imm, s.rdS a' + imm.signExtend 64)] : List (Instr × Word)) →
     ∃ lat free, Completes .s (.mcall n d a b) s ((s.wrS d' v lat).setReady kDiv free))

/-- 06 R148: `LDA` of the own scratchpad completes with the zero-extended value, and `STL` stores the low bytes of its data
register; a new region begins behind either (13 R325). -/
def Obligations.OrderedAccessesOfOwnScratchpadComplete : Prop :=
  ∀ (s : State) (d a b : SReg) (off : BitVec 11) (o : Nat), Quiet s → Sound s →
    let key := keyPool s.focus o
    s.rdS a + off.signExtend 64 = 0xFF00000000000000 + BitVec.ofNat 64 o →
    (∀ (i : Instr) (n : Nat) (v : Word), (i, n) ∈ ([(.ldaW d a off, 4), (.ldaD d a off, 8)] : List (Instr × Nat)) →
      Issues .s [kS a] s → o % n = 0 → OwnPool s o n → Holds s.mem key n v → v.toNat < 2 ^ (8 * n) →
      Completes .s i s (s.newRegion.wrS d v 3)) ∧
    ∀ (i : Instr) (n : Nat), (i, n) ∈ ([(.stlW a b off, 4), (.stlD a b off, 8)] : List (Instr × Nat)) →
      Issues .s [kS a, kS b] s → o % n = 0 → OwnPool s o n →
      ∃ t, exec i s = .next t ∧ Leaves .s (s.nextPc .s) s ((t.memOver s).newRegion) t ∧
        Holds t.mem key n (s.rdS b) ∧ ∀ x, x < key ∨ key + n ≤ x → memGet t.mem x = memGet s.mem x

/-- 06 R149, R151: `ATOM` gives the old value and stores the result of its operation; `CAS` gives the old value and stores
its operand exactly when the old value is the expected one. The result is readable after 3 + 1 cycles (05 R125).
06 R150, R151: `FATOM` outside global memory raises APERTURE; on a line of the local HBM that no core holds exclusively and
no core has registered, the home performs the operation and the old value is the result. -/
def Obligations.AtomicsComplete : Prop :=
  (∀ (s : State) (d a b : SReg) (op : AtomOp) (ord succ fail : MemOrder) (o : Nat), Quiet s → Sound s →
     Issues .s [kS a, kS b, kS d] s → s.rdS a = 0xFF00000000000000 + BitVec.ofNat 64 o →
     let key := keyPool s.focus o
     let done (i : Instr) (n : Nat) (old new : Word) : Prop :=
       ∃ t, exec i s = .next t ∧ (t.me.region = [] ∨ t.me.region = s.me.region) ∧
         Leaves .s (s.nextPc .s) s ((t.memOver (s.wrS d old 4)).updMe fun c => { c with region := t.me.region }) t ∧
         Holds t.mem key n new ∧ ∀ x, x < key ∨ key + n ≤ x → memGet t.mem x = memGet s.mem x
     (∀ old : BitVec 32, Holds s.mem key 4 (old.setWidth 64) → o % 4 = 0 → OwnPool s o 4 →
       done (.atomW op ord d a b) 4 (old.setWidth 64) ((atomResult op old ((s.rdS b).setWidth 32)).setWidth 64) ∧
       done (.casW succ fail d a b) 4 (old.setWidth 64) (if old = (s.rdS d).setWidth 32 then s.rdS b else old.setWidth 64)) ∧
     ∀ old : BitVec 64, Holds s.mem key 8 old → o % 8 = 0 → OwnPool s o 8 →
       done (.atomD op ord d a b) 8 old (atomResult op old (s.rdS b)) ∧
       done (.casD succ fail d a b) 8 old (if old = s.rdS d then s.rdS b else old)) ∧
  (∀ (s : State) (d a b : SReg) (op : AtomOp), Issues .s [kS a, kS b] s → s.prog .s = .none →
     (bits (s.rdS a) 48 16 = 0xFF00 →
       exec (.fatomW op d a b) s = .next (s.raise .s .aperture (s.rdS a)) ∧
       exec (.fatomD op d a b) s = .next (s.raise .s .aperture (s.rdS a))) ∧
     ∀ (key mt : Nat), Quiet s → Sound s →
       let done (i : Instr) (n : Nat) (old new : Word) : Prop :=
         ∃ t lat, exec i s = .next t ∧
           Leaves .s (s.nextPc .s) s ((t.homeOver s).wrS d old lat) t ∧
           (∀ c, t.cluster c = { s.cluster c with l2 := (t.cluster c).l2 }) ∧
           Holds t.mem key n new ∧ ∀ x, x < key ∨ key + n ≤ x → memGet t.mem x = memGet s.mem x
       (∀ old : BitVec 32, Holds s.mem key 4 (old.setWidth 64) → (s.rdS a).toNat % 4 = 0 → Mapped s (s.rdS a) 4 key mt →
         key % 4 = 0 → (∀ r ∈ s.regs, r.gran ≠ key / 32) →
         done (.fatomW op d a b) 4 (old.setWidth 64) ((atomResult op old ((s.rdS b).setWidth 32)).setWidth 64)) ∧
       ∀ old : BitVec 64, Holds s.mem key 8 old → (s.rdS a).toNat % 8 = 0 → Mapped s (s.rdS a) 8 key mt →
         key % 8 = 0 → (∀ r ∈ s.regs, r.gran ≠ key / 32) →
         done (.fatomD op d a b) 8 old (atomResult op old (s.rdS b)))

/-! ### S lane: order, signals, rings -/

/-- 06 R152, R154, R166, R177: `FENCE` of a core with nothing on its way closes its registrations as its scope asks (a release),
begins a new region, and takes 2 cycles at core scope; `VFENCE` completes once no vault write
that issued before it is on its way; `SYNC` asks its
group to open a region at the present `CYC`; `WAKE` starts a gated matrix engine and changes nothing else. -/
def Obligations.FencesComplete : Prop :=
  (∀ (s : State) (k : FenceKind) (sc : Scope), Issues .s [] s → Quiet s →
    ∃ t lat, exec (.fence k sc) s = .next t ∧
      Leaves .s (s.nextPc .s) s { (if k = .acq then s.newRegion else s.released sc) with openLats := t.openLats } t ∧
      (t.lane .s).due = s.spacedFrom + lat + (s.lane .s).frame.idle.toNat + 1 ∧ (sc = .core → lat = 2 ∧ t.openLats = s.openLats)) ∧
  (∀ s : State, Issues .s [] s → s.prog .s = .none → s.me.vaultQuiet s.now = true →
    ∃ t, exec .vfence s = .next t ∧ Leaves .s (s.nextPc .s) s s.newRegion t ∧
      (t.lane .s).due = s.spacedFrom + (s.lane .s).frame.idle.toNat + 2) ∧
  (∀ s : State, Issues .s [] s → s.prog .s = .none → s.me.vaultQuiet s.now = false → Waits .s .vfence s s) ∧
  (∀ (s : State) (p : Nat), (s.lane .s).waiting = true → s.prog .s = .vfence p →
    (s.me.vaultQuiet p = false → Waits .s .vfence s s) ∧ (s.me.vaultQuiet p = true → Completes .s .vfence s s.newRegion)) ∧
  (∀ s : State, Issues .s [] s → Completes .s .sync s (s.updMe fun c => { c with opens := some s.cyc })) ∧
  (∀ s : State, Issues .s [] s → s.me.matGate ≠ .gated → Completes .s .wake s s) ∧
  (∀ s : State, Issues .s [] s → s.me.matGate = .gated → ∃ p, Completes .s .wake s
    (s.updMe fun c => { c with matGate := .waking p, mBusy := p, mPaid := p })) ∧
  (∀ s : State, Issues .v [] s → Completes .v .vnop s s) ∧ ∀ s : State, Issues .x [] s → Completes .x .xnop s s

/-- 06 R157: what an addition of `n` does to a signal. In count mode it adds modulo 2^32; in byte mode it saturates, and an
armed signal that has reached EXPECT fires: it keeps the excess, and records it. -/
def Obligations.SignalAddition : Prop :=
  ∀ (g : Signal) (n : Nat), n < 2 ^ 32 →
    (g.byteMode = false → g.add n = { g with value := g.value + BitVec.ofNat 32 n }) ∧
    (g.byteMode = true →
      let v := if g.value.toNat + n ≤ 0xFFFFFFFF then g.value.toNat + n else 0xFFFFFFFF
      (g.armed = false ∨ v < g.expect.toNat → g.add n = { g with value := BitVec.ofNat 32 v }) ∧
      (g.armed = true → g.expect.toNat ≤ v → (g.add n).value.toNat = v - g.expect.toNat ∧ (g.add n).armed = false ∧
        (g.add n).byteMode = true ∧ (g.add n).expect = g.expect ∧
        (v = g.expect.toNat → (g.add n).ovr = g.ovr ∧ (g.add n).overcnt = g.overcnt) ∧
        (g.expect.toNat < v → (g.add n).ovr = true ∧ (g.add n).overcnt = if g.overcnt = 0xFFFF then 0xFFFF else g.overcnt + 1)))

/-- 06 R158-R161: `SIGADD` sends its addition to the own core or the core it names, after a release; `SIGWAIT` takes its
threshold from a count, waits for less, and completes on a byte-mode signal that is not armed; `SIGEXPECT` arms or disarms;
`SIGREAD` reads. A target that names no core raises APERTURE. -/
def Obligations.SignalWordsComplete : Prop :=
  ∀ (s : State) (g : SgReg) (d a : SReg), Issues .s [kS a] s → Quiet s → (∀ p ∈ s.me.pendSig, p.sg ≠ g.toNat) →
    let x := s.rdS a
    let sig := s.me.sigs.get g.toNat
    let need : BitVec 32 := if a = 0 then 1 else x.setWidth 32
    let target : CoreId := if x.getLsbD 47 then bits x 32 11 else s.focus
    let sc : Scope := if target = s.focus then .core else if clusterOf target = clusterOf s.focus then .cluster else .package
    ((bits target 3 5).toNat < 18 → Completes .s (.sigadd g a) s
      ((s.released sc).updCore target fun c =>
        { c with pendSig := c.pendSig ++ [{ sg := g.toNat, amount := x.toNat % 2 ^ 32, src := s.focus.toNat, tick := s.pkg.ticks }] })) ∧
    (18 ≤ (bits target 3 5).toNat → exec (.sigadd g a) s = .next (s.raise .s .aperture x)) ∧
    (sig.byteMode = false → need.toNat ≤ sig.value.toNat → Completes .s (.sigwait g a) s
      ((s.updMe fun c => { c with sigs := c.sigs.set g.toNat { sig with value := sig.value - need } }).newRegion)) ∧
    (sig.byteMode = true → sig.armed = false → Completes .s (.sigwait g a) s s.newRegion) ∧
    ((if sig.byteMode then sig.armed = true else sig.value.toNat < need.toNat) → Waits .s (.sigwait g a) s s) ∧
    (let clear := if x.getLsbD 62 then { sig with ovr := false, overcnt := 0 } else sig
     let now := if x.getLsbD 63 then { clear with byteMode := false, armed := false }
       else Signal.add { clear with byteMode := true, expect := x.setWidth 32, armed := true } 0
     Completes .s (.sigexpect g a) s (s.updMe fun c => { c with sigs := c.sigs.set g.toNat now })) ∧
    ∃ v : Word, Completes .s (.sigread d g) s (s.wrS d v 1) ∧ bits v 0 32 = sig.value ∧ v.getLsbD 32 = sig.byteMode ∧
      v.getLsbD 33 = sig.armed ∧ v.getLsbD 34 = sig.ovr ∧ bits v 35 16 = sig.overcnt ∧ bits v 51 13 = 0

/-- 06 R163, 15 R359-R361: the six words of the rings. `RINGCLAIM` is granted to the oldest claim, one per cycle, where the ring has
room, and gives the entry's window-0x03 address; `RINGCOMMIT` and `RINGDONE` mark the entry whose address they are given and move
TAIL and HEAD over marked entries alone; `RINGTAKE` takes the oldest committed entry; the two waits change nothing; each waits
where its condition does not hold, and a wait on a full ring asks for a segment, which is linked where HEAD stands at its origin.
A ring that is not configured raises RING_UNCFG with its number, an address of no such entry RING_ORDER.
06 R164, R165: `OWN` writes the owner of exactly its slots, and `OWNWAIT` completes, once no access of the core's lanes and
of the engines to them is outstanding; slots beyond the pool raise APERTURE, and a slot of another owner OWNER_VIOLATION at
`OWNWAIT`. -/
def Obligations.RingAndOwnerWordsComplete : Prop :=
  (∀ (s : State) (r : BitVec 4) (d a : SReg), Issues .s [kS a] s →
     let x := s.rdS a
     let me := s.focus.toNat
     let k := bits x 0 3
     let peer := peerOf s.focus k.toNat
     let mine := s.ring s.focus r
     let theirs := s.ring peer r
     let room := 64 * (theirs.nseg.toNat + 1) - (theirs.claim - theirs.head).toNat
     let m := (bits x 8 7).toNat
     let granted := (theirs.claims = [] ∨ theirs.claims.head? = some me) ∧ theirs.granted ≠ some s.now ∧ 0 < room
     (theirs.valid = false → exec (.ringclaim d r a) s = .next (s.raise .s .ringUncfg (r.setWidth 64)) ∧
       exec (.ringwaitf r a) s = .next (s.raise .s .ringUncfg (r.setWidth 64))) ∧
     (mine.valid = false → exec (.ringwaite r a) s = .next (s.raise .s .ringUncfg (r.setWidth 64)) ∧
       exec (.ringtake d r) s = .next (s.raise .s .ringUncfg (r.setWidth 64)) ∧
       exec (.ringdone r a) s = .next (s.raise .s .ringUncfg (r.setWidth 64))) ∧
     (theirs.valid = true → granted → (s.core peer).slotOwner (theirs.entry (s.core peer) theirs.claim) = .lanes → Quiet s →
       Completes .s (.ringclaim d r a) s ((State.newRegion (s.setRing peer r
           { theirs with claim := theirs.claim + 1, claims := theirs.claims.drop 1, granted := some s.now })).wrS d
         (0xFF03000000000000 + BitVec.ofNat 64 (k.toNat * 2 ^ 20 + theirs.entry (s.core peer) theirs.claim)) 1)) ∧
     (theirs.valid = true → ¬ granted → Waits .s (.ringclaim d r a) s (s.setRing peer r
       { theirs with claims := if me ∈ theirs.claims then theirs.claims else theirs.claims ++ [me],
                     asked := theirs.asked || decide (room = 0) })) ∧
     (theirs.valid = true → m ≠ 0 → m ≤ room → Completes .s (.ringwaitf r a) s s) ∧
     (theirs.valid = true → m ≠ 0 → room < m → Waits .s (.ringwaitf r a) s (s.setRing peer r { theirs with asked := true })) ∧
     (theirs.valid = true → m = 0 → exec (.ringwaitf r a) s = .next (s.raise .s .ringOrder x)) ∧
     (mine.valid = true → m ≠ 0 → m ≤ (mine.tail - mine.take).toNat → Completes .s (.ringwaite r a) s s) ∧
     (mine.valid = true → m ≠ 0 → (mine.tail - mine.take).toNat < m → Waits .s (.ringwaite r a) s s) ∧
     (mine.valid = true → m = 0 → exec (.ringwaite r a) s = .next (s.raise .s .ringOrder x)) ∧
     (mine.valid = true → mine.tail = mine.take → Waits .s (.ringtake d r) s s) ∧
     (mine.valid = true → mine.tail ≠ mine.take → s.me.slotOwner (mine.entry s.me mine.take) = .lanes → Quiet s →
       Completes .s (.ringtake d r) s (((s.setRing s.focus r { mine with take := mine.take + 1 }).updMe fun c =>
           if c.task.lamp.isEmpty then c else { c with lamp := { c.lamp with sentRecv := c.lamp.sentRecv - 1 } }).newRegion.wrS d
         (0xFF00000000000000 + BitVec.ofNat 64 (mine.entry s.me mine.take)) 1)) ∧
     ((∀ p own o, decodeByte s s.focus x true ≠ some (.spad p own o)) →
       exec (.ringcommit r a) s = .next (s.raise .s .ringOrder x) ∧
       (mine.valid = true → exec (.ringdone r a) s = .next (s.raise .s .ringOrder x))) ∧
     (∀ (p : CoreId) (own : Bool) (o : Nat), decodeByte s s.focus x true = some (.spad p own o) →
       let ring := s.ring p r
       let found := ring.find (s.core p) o ring.tail (ring.claim - ring.tail).toNat
       (ring.valid = false → exec (.ringcommit r a) s = .next (s.raise .s .ringUncfg (r.setWidth 64))) ∧
       (ring.valid = true → found = none ∨ (∃ c, found = some c ∧ c ∈ ring.committed) →
         exec (.ringcommit r a) s = .next (s.raise .s .ringOrder x)) ∧
       ∀ c, ring.valid = true → found = some c → c ∉ ring.committed → (s.core p).slotOwner o = .lanes → Quiet s →
         ∃ tail marks, Completes .s (.ringcommit r a) s
             ((State.setRing (s.released .cluster) p r { ring with tail := tail, committed := marks }).updMe fun y =>
               if y.task.lamp.isEmpty then y else { y with lamp := { y.lamp with
                 sentRecv := y.lamp.sentRecv + 1, black := y.lamp.black || decide (p ∈ y.task.lamp ∧ p.toNat < me) } }) ∧
           (∀ i, i ∈ marks ↔ i ∈ c :: ring.committed ∧ (i - tail).toNat < 2 ^ 31) ∧
           ∀ n : Nat, (∀ i : Nat, i < n → ring.tail + BitVec.ofNat 32 i ∈ c :: ring.committed) →
             ring.tail + BitVec.ofNat 32 n ∉ c :: ring.committed → n ≤ (c :: ring.committed).length → tail = ring.tail + BitVec.ofNat 32 n) ∧
     (∀ (own : Bool) (o : Nat) (c : BitVec 32), decodeByte s s.focus x true = some (.spad s.focus own o) → mine.valid = true →
       mine.find s.me o mine.head (mine.take - mine.head).toNat = some c → c ∉ mine.done → s.me.slotOwner o = .lanes → Quiet s →
       ∃ head marks, Completes .s (.ringdone r a) s
           (State.setRing (s.released .cluster) s.focus r (Ring.link { mine with head := head, done := marks })) ∧
         (∀ i, i ∈ marks ↔ i ∈ c :: mine.done ∧ (i - head).toNat < 2 ^ 31) ∧
         ∀ n : Nat, (∀ i : Nat, i < n → mine.head + BitVec.ofNat 32 i ∈ c :: mine.done) →
           mine.head + BitVec.ofNat 32 n ∉ c :: mine.done → n ≤ (c :: mine.done).length → head = mine.head + BitVec.ofNat 32 n) ∧
     let free := mine.pv = true ∧ mine.valid = true ∧ mine.nseg.toNat < 31 ∧ (mine.head - mine.org).toNat % (64 * (mine.nseg.toNat + 1)) = 0
     (free → mine.link = { mine with org := mine.head, slots := mine.slots.set (mine.nseg.toNat + 1) mine.pend, nseg := mine.nseg + 1,
                                     pv := false, asked := false }) ∧ (¬ free → mine.link = mine)) ∧
  (∀ (s : State) (first : BitVec 8) (n1 : BitVec 5) (o : Owner), Issues .s [] s →
     let f := first.toNat
     let n := n1.toNat + 1
     let slots := (s.me.ctl.pbSpad - s.me.ctl.pbReg) / 4096
     let at_ (i : Nat) : Word := 0xFF00000000000000 + BitVec.ofNat 64 (s.me.ctl.pbReg + 4096 * i)
     (f + n ≤ slots → s.me.slotsQuiet s.focus f n = true → (∀ k, k < 8 → (s.core (peerOf s.focus k)).xfers = []) →
       (∃ t, exec (.own first n1 o) s = .next t ∧
         Leaves .s (s.nextPc .s) s (s.newRegion.updMe fun c => { c with slots := t.me.slots }) t ∧
         ∀ i, t.me.slots.get i = if f ≤ i ∧ i < f + n then o else s.me.slots.get i) ∧
       ((∀ i, f ≤ i → i < f + n → s.me.slots.get i = o) → Completes .s (.ownwait first n1 o) s s)) ∧
     (f + n ≤ slots → ∀ i, f ≤ i → i < f + n → s.me.slots.get i ≠ o → (∀ j, f ≤ j → j < i → s.me.slots.get j = o) →
       exec (.ownwait first n1 o) s = .next (s.raise .s .ownerViolation (at_ i))) ∧
     (slots < f + n → exec (.own first n1 o) s = .next (s.raise .s .aperture (at_ f)) ∧
       exec (.ownwait first n1 o) s = .next (s.raise .s .aperture (at_ f))))

/-- 06 R167, R168, 15 R361: `TICKWAIT` completes when `PTIME` has reached its operand, and traps where it is found more than
64 ns late; `LAMPTEST` reports the Lamp; `LAMPSEND` does nothing without it, and with it hands the Lamp on.
06 R169, 17 R386: `COLLRDY` reads the header and the entry of a tile by S-lane reads after a release of package scope; a tile
beyond COUNT raises COLL_TABLE; an entry that is ready already changes nothing, any other is marked and its tile is sent. -/
def Obligations.TickLampAndCollectiveWordsComplete : Prop :=
  (∀ (s : State) (d a : SReg), Issues .s [kS a] s →
     let v := s.rdS a
     (v.toNat ≤ s.ptime → s.ptime ≤ v.toNat + 64 → Completes .s (.tickwait a) s (s.updMe fun c => { c with opens := some v })) ∧
     (v.toNat + 64 < s.ptime → s.prog .s = .none → exec (.tickwait a) s = .next (s.raise .s .tickLate (BitVec.ofNat 64 s.ptime))) ∧
     (s.ptime < v.toNat → ∃ t, exec (.tickwait a) s = .next t ∧ (t.lane .s).pc = (s.lane .s).pc ∧ t.me.r = s.me.r) ∧
     (s.me.task.lamp = [] → Completes .s (.lamptest d) s (s.wrS d 0 1)) ∧
     (s.me.task.lamp ≠ [] → ∃ y : Word, Completes .s (.lamptest d) s (s.wrS d y 1) ∧ y.toNat < 16 ∧
       y.getLsbD 0 = s.me.lamp.hold ∧ y.getLsbD 1 = s.me.lamp.lb ∧ y.getLsbD 3 = s.me.lamp.init ∧
       (y.getLsbD 2 = true ↔ s.me.lamp.init = true ∧ s.me.lamp.hold = true ∧ s.me.lamp.lb = false ∧ s.me.lamp.black = false ∧
         s.me.lamp.ls + s.me.lamp.sentRecv = 0)) ∧
     (s.me.lamp.hold = false ∨ s.me.task.lamp = [] → Completes .s .lampsend s s) ∧
     (s.me.lamp.hold = true → s.me.task.lamp ≠ [] →
       let lb := if s.me.lamp.init then false else s.me.lamp.lb || s.me.lamp.black
       let ls := if s.me.lamp.init then 0 else s.me.lamp.ls + s.me.lamp.sentRecv
       ∃ next ∈ s.me.task.lamp, Completes .s .lampsend s
           ((s.updMe fun c => { c with lamp := { c.lamp with lb := lb, ls := ls, black := false, hold := false } }).updCore next
             fun c => { c with lampIn := c.lampIn ++ [{ id := s.me.task.lampOf, to_ := s.me.task.lamp, lb := lb, ls := ls }] }) ∧
         (s.me.task.lamp.Pairwise (fun x y => x.toNat < y.toNat) →
           ((∃ c ∈ s.me.task.lamp, s.focus.toNat < c.toNat) → s.focus.toNat < next.toNat ∧
             ∀ c ∈ s.me.task.lamp, s.focus.toNat < c.toNat → next.toNat ≤ c.toNat) ∧
           ((∀ c ∈ s.me.task.lamp, c.toNat ≤ s.focus.toNat) → ∀ c ∈ s.me.task.lamp, next.toNat ≤ c.toNat)))) ∧
  (∀ (s : State) (a b : SReg), Issues .s [kS a, kS b] s →
     let va := s.rdS a
     let tile := (s.rdS b).toNat
     let entry := va + BitVec.ofNat 64 (64 + 128 * tile)
     ((∀ p, decodeAddr s s.focus va 1 false ≠ some (.global p)) → exec (.collrdy a b) s = .next (s.raise .s .collTable va)) ∧
     ∀ p, decodeAddr s s.focus va 1 false = some (.global p) →
       ∀ s1, release .s .package false (s.starts .s) = .ok s1 → ∀ hd ks0 s2, readWords va 8 s1 = .ok (hd, ks0, s2) →
       (fieldOf hd 0 4 ≤ tile → exec (.collrdy a b) s = .next (s.raise .s .collTable va)) ∧
       ∀ bs ks s3, tile < fieldOf hd 0 4 → readWords entry 16 s2 = .ok (bs, ks, s3) →
         let home := s3.homeWords ks
         let flags := ks.getD 10 0 + 7
         ∃ lat u, exec (.collrdy a b) s = .next (State.retire
             (if TileEntry.ready { bs := home.1 } then u
              else (u.setFlags flags 1).fire u.me.ctl.vfid u.focus.toNat flags va entry hd { bs := home.1 }) .s) ∧
           u = (State.delay { home.2 with openLats := u.openLats } .s lat))

/-! ### S lane: reuse cache, registers, power, traps, launches, Turntable -/

/-- 06 R170, R171, 15 R364-R368: the decision of `RPROBE` on the entry that holds the tag, in the order of the rule; a COMPUTE
or SKIP adds 1 to the die's counter, a SKIP adds 1 to the chain, a SKIP or CANDIDATE pins the entry after an acquire.
06 R172, 15 R365: `RPUT` copies the entry image into the data region of the way it takes, once every byte has been checked,
and then marks the tag valid with the present step; a refused byte raises its cause and changes nothing. `RDROP` invalidates
the tag where it is present. -/
def Obligations.ReuseWordsComplete : Prop :=
  (∀ (s : State) (d a b : SReg), Issues .s [kS a, kS b] s → Quiet s →
     let die := dieOf s.focus
     let found := (s.die die).lookup (bits (s.rdS a) 0 44)
     let delta := (s.rdS b).toNat % 2 ^ 32
     let theta := (if s.me.task.thsrc then s.me.src.lv.get 5 else s.me.task.theta).toNat
     let done (y : Word) (u : State) : Prop := ∃ t lat, exec (.rprobe d a b) s = .next t ∧
       Leaves .s (s.nextPc .s) s (State.wrS { u with openLats := t.openLats } d y lat) t
     let counts (u : State) (n : Nat) : State := u.updDie die fun x => { x with counters := x.counters.upd n fun k => (k + 1) % 2 ^ 48 }
     let pinned (u : State) (i : Nat) : State := State.newRegion (u.updMe fun c => { c with pin := some i })
     (found = none → done 4 (counts s 1)) ∧
     ∀ i, found = some i →
       let e := (s.die die).tags.get i
       let age := (s.me.src.lv.get 0 - e.s0).toInt
       ((s.me.task.maxage : Int) < age → done 8 (counts s 2)) ∧
       (age ≤ s.me.task.maxage → s.me.task.maxchain ≤ e.chain.toNat → done 12 (counts s 3)) ∧
       (age ≤ s.me.task.maxage → e.chain.toNat < s.me.task.maxchain →
         (b = 0 → done (BitVec.ofNat 64 (2 + 32 * i)) (pinned s i)) ∧
         (b ≠ 0 → f32Less delta theta = false → done 16 (counts s 4)) ∧
         (b ≠ 0 → f32Less delta theta = true → done (BitVec.ofNat 64 (1 + 32 * i))
           (pinned ((counts s 0).updDie die fun x =>
             { x with tags := x.tags.upd i fun e => { e with chain := if e.chain = 15 then 15 else e.chain + 1 } }) i)))) ∧
  (∀ (s : State) (a b : SReg),
     let die := dieOf s.focus
     let tag := bits (s.rdS a) 0 44
     let size := s.me.task.rout + s.me.task.rin
     (∀ rel, Issues .s [kS a, kS b] s ∨ (s.lane .s).waiting = true →
       (if s.prog .s = .choosing then .ok (s.starts .s) else release .s .package false (s.starts .s)) = .ok rel →
       (∀ i, rel.chooseWay tag = some i →
         let start := State.updMe rel fun c => { c with pin := none }
         (∀ c v, engineReadRun start.engine (s.rdS b) size start = .error (.trap c v) →
           exec (.rput a b) s = .next (s.raise .s c v)) ∧
         ∀ bs s2 s3 s4, rel.me.task = s.me.task → rel.focus = s.focus → engineReadRun start.engine (s.rdS b) size start = .ok (bs, s2) →
           engineCheckRun s2.engine (dataAddr s.me.task i) size true s2 = .ok s3 →
           engineWriteRun s3.engine (dataAddr s.me.task i) bs s3 = .ok s4 →
           ∃ u : State, exec (.rput a b) s = .next (u.retire .s) ∧ u.mem = s4.mem ∧
             (u.die die).tags.get i = { valid := true, tag := tag, s0 := s.me.src.lv.get 0, chain := 0, stamp := (s4.die die).stampCtr } ∧
             (u.die die).stampCtr = (s4.die die).stampCtr + 1 ∧ ∀ j, j ≠ i → (u.die die).tags.get j = (s4.die die).tags.get j) ∧
       (rel.chooseWay tag = none → ∃ t, exec (.rput a b) s = .next t ∧ (t.lane .s).waiting = true ∧ t.prog .s = .choosing ∧
         t.me.pin = rel.me.pin)) ∧
     (Issues .s [kS a] s → (s.die die).lookup tag = none → Completes .s (.rdrop a) s (s.updMe fun c => { c with pin := none })) ∧
     ∀ i, Issues .s [kS a] s → (s.die die).lookup tag = some i → Completes .s (.rdrop a) s
       ((s.updMe fun c => { c with pin := none }).updDie die fun x => { x with tags := x.tags.upd i fun e => { e with valid := false } }))

/-- 06 R173, R174, R183: `LVREAD`, at system level `LVWRITE`, `MFSEL` and the five forms of `XDSET` write what they name and
nothing else; every form of `XDSET` sets CUR to 0, and the first every other part too. -/
def Obligations.LoopAndDescriptorWordsComplete : Prop :=
  ∀ (s : State) (n : BitVec 4) (d a b : SReg) (x : XdReg) (k : BitVec 11) (src : MfSrc) (base : BitVec 4),
    Issues .s [kS a, kS b] s →
    Completes .s (.lvread d n) s (s.wrS d ((s.me.src.lv.get n.toNat).setWidth 64) 1) ∧
    (s.me.ctl.pl = true → Completes .s (.lvwrite n a) s
      (s.updR fun r => { r with lv := r.lv.set n.toNat ((s.rdS a).setWidth 32) })) ∧
    Completes .s (.mfsel src base) s (s.updR fun r => { r with mfsrc := BitVec.ofNat 2 src.code, mfbase := base }) ∧
    ∀ (i : Instr) (y : Desc), (i, y) ∈ ([
      (.xdset x a k, { base := s.rdS a, len := BitVec.ofNat 32 (32 * k.toNat), cnt1 := 0, cnt2 := 0, str1 := 0, str2 := 0, win := 0, cur := 0 }),
      (.xdsetD1 x a b, { s.rdXd x with cnt1 := (s.rdS a).setWidth 16, str1 := (s.rdS b).setWidth 32, cur := 0 }),
      (.xdsetD2 x a b, { s.rdXd x with cnt2 := (s.rdS a).setWidth 16, str2 := (s.rdS b).setWidth 32, cur := 0 }),
      (.xdsetWin x a b, { s.rdXd x with win := (s.rdS a).setWidth 32, cur := 0 }),
      (.xdsetLen x a b, { s.rdXd x with len := (s.rdS a).setWidth 32, cur := 0 })] : List (Instr × Desc)) →
      ∃ l, Completes .s i s ((s.updR fun r => { r with xd := r.xd.set x.toNat y }).updMe fun c => { c with xdWrote := l })

/-- 02 R61-R66, 06 R180: `SYSR` of every assigned number completes with the register's value, and of every other number raises
ILLEGAL_FN. -/
def Obligations.SystemRegisterReads : Prop :=
  ∀ (s : State) (d : SReg) (n : BitVec 11), Issues .s [] s →
    let c := s.me.ctl
    let r := s.me.src
    let div := s.myCluster.clk
    (∀ v : Word, (n.toNat, v) ∈ ([(0x000, s.cyc), (0x001, c.cycorg), (0x002, BitVec.ofNat 64 s.ptime), (0x008, r.fpctl.setWidth 64),
        (0x009, c.fpflags.setWidth 64), (0x00B, r.rbv.setWidth 64), (0x00C, r.rbp.setWidth 64), (0x010, c.mxnan.setWidth 64),
        (0x011, c.mxovf.setWidth 64), (0x012, c.mspbad.setWidth 64), (0x020, r.eord.setWidth 64), (0x021, r.eta.setWidth 64),
        (0x035, c.tval), (0x036, c.tvec), (0x040, BitVec.ofNat 64 c.pbReg), (0x041, BitVec.ofNat 64 c.pbSpad),
        (0x042, BitVec.ofNat 64 c.pbL1), (0x048, c.spillBase), (0x049, c.spillLim), (0x04A, c.spillTop),
        (0x050, BitVec.ofNat 64 c.pwrdecl), (0x051, BitVec.ofNat 64 (div.ctl + div.mat * 2 ^ 8 + div.vec * 2 ^ 16 + div.copy * 2 ^ 24)),
        (0x058, s.focus.setWidth 64), (0x059, BitVec.ofNat 64 c.vfid)] ++
        (List.range 4).map (fun k => (0x031 + k, c.epc.get k)) ++ (List.range 4).map (fun k => (0x038 + k, c.cbase.get k)) ++
        (List.range 4).map (fun k => (0x03C + k, (c.clen.get k).setWidth 64)) : List (Nat × Word)) →
      Completes .s (.sysr d n) s (s.wrS d v 1)) ∧
    (n = 0x00A → s.isReady kShape = true → ∃ v : Word, Completes .s (.sysr d n) s (s.wrS d v 1) ∧ v.toNat = r.ety.code + 2 ^ 8 * r.vl.toNat) ∧
    (n = 0x00D → ∃ v : Word, Completes .s (.sysr d n) s (s.wrS d v 1) ∧ v.toNat = r.mfsrc.toNat + 2 ^ 4 * r.mfbase.toNat) ∧
    (n = 0x00E → ∃ v : Word, Completes .s (.sysr d n) s (s.wrS d v 1) ∧ v.toNat < 2 ^ 32 ∧
      ∀ k, k < 32 → v.getLsbD k = (s.me.banks.get k).alloc) ∧
    (n = 0x030 → ∃ v : Word, Completes .s (.sysr d n) s (s.wrS d v 1) ∧ v.toNat = c.causeCode.toNat + 2 ^ 8 * c.causeLane.toNat) ∧
    (n = 0x037 → ∃ v : Word, Completes .s (.sysr d n) s (s.wrS d v 1) ∧ v.toNat < 16 ∧ v.getLsbD 0 = c.pl ∧ v.getLsbD 1 = c.ppl ∧
      v.getLsbD 2 = c.timed ∧ v.getLsbD 3 = c.pe) ∧
    (∀ k, k < 8 → n.toNat = 0x018 + k → ∃ v : Word, Completes .s (.sysr d n) s (s.wrS d v 1) ∧
      v = BitVec.ofNat 64 ((s.me.tiles.get k).rows.toNat + 2 ^ 8 * (s.me.tiles.get k).cols.toNat + 2 ^ 29 * boolNat (s.me.tiles.get k).resid
        + 2 ^ 30 * boolNat (s.me.tiles.get k).dirty + 2 ^ 31 * boolNat (s.me.tiles.get k).cfg)) ∧
    (∀ k, k < 4 → n.toNat = 0x028 + k → ∃ v : Word, Completes .s (.sysr d n) s (s.wrS d v 1) ∧ bits v 60 4 = 0 ∧
      ∀ j, j < 10 → bits v (6 * j) 6 = s.myCluster.turn.map.get (10 * k + j)) ∧
    (n.toNat ∉ [0x000, 0x001, 0x002] ++ (List.range 7).map (0x008 + ·) ++ [0x010, 0x011, 0x012] ++ (List.range 8).map (0x018 + ·) ++
        [0x020, 0x021] ++ (List.range 4).map (0x028 + ·) ++ (List.range 16).map (0x030 + ·) ++ [0x040, 0x041, 0x042, 0x048, 0x049,
        0x04A, 0x050, 0x051, 0x058, 0x059] →
      exec (.sysr d n) s = .next (s.raise .s .illegalFn (thisWord s .s (.sysr d n))))

/-- 02 R61, R67, 06 R180: at task level `SYSW` writes `FPCTL` and `FPFLAGS` and of any other assigned number raises PRIVILEGE; at
system level it writes each writable register, ignores a write of a read-only one, and raises RESERVED_FIELD for a value
outside the register's range, and nothing changes.
02 R67: at task level `LVWRITE`, `ERET` and `L2CONV` raise PRIVILEGE with the word, and nothing changes but what the trap
does. -/
def Obligations.SystemRegisterWritesAndGuards : Prop :=
  (∀ (s : State) (a : SReg) (n : BitVec 11), Issues .s [kS a] s →
     let v := s.rdS a
     let bad := thisWord s .s (.sysw n a)
     let ro : List Nat := [0x000, 0x001, 0x002, 0x00E, 0x040, 0x041, 0x042, 0x050, 0x051, 0x058, 0x059] ++ (List.range 8).map (0x018 + ·)
     let rw : List (Nat × Prop × State) := [
       (0x008, v.toNat < 2 ^ 9 ∧ v.getLsbD 2 = false, s.updR fun r => { r with fpctl := v.setWidth 9 }),
       (0x009, v.toNat < 2 ^ 5, s.updCtl fun c => { c with fpflags := v.setWidth 5 }),
       (0x00B, v.toNat ≤ 43, s.updR fun r => { r with rbv := v.setWidth 6 }),
       (0x00C, v.toNat ≤ 7, s.updR fun r => { r with rbp := v.setWidth 3 }),
       (0x00D, v.toNat < 2 ^ 8 ∧ bits v 2 2 = 0 ∧ bits v 0 2 ≠ 3, s.updR fun r => { r with mfsrc := v.setWidth 2, mfbase := bits v 4 4 }),
       (0x010, v.toNat < 2 ^ 32, s.updCtl fun c => { c with mxnan := v.setWidth 32 }),
       (0x011, v.toNat < 2 ^ 32, s.updCtl fun c => { c with mxovf := v.setWidth 32 }),
       (0x012, v.toNat < 2 ^ 32, s.updCtl fun c => { c with mspbad := v.setWidth 32 }),
       (0x020, 1 ≤ v.toNat ∧ v.toNat ≤ 31, s.updR fun r => { r with eord := v.setWidth 5 }),
       (0x021, v.toNat < 2 ^ 32, s.updR fun r => { r with eta := v.setWidth 32 }),
       (0x030, v.toNat < 2 ^ 10 ∧ v.getLsbD 7 = false, s),
       (0x035, True, s.updCtl fun c => { c with tval := v }),
       (0x036, True, s.updCtl fun c => { c with tvec := v }),
       (0x037, v.toNat < 16, s.updCtl fun c => { c with pe := v.getLsbD 3, ppl := v.getLsbD 1 }),
       (0x048, True, s.updCtl fun c => { c with spillBase := v }),
       (0x049, True, s.updCtl fun c => { c with spillLim := v }),
       (0x04A, True, s.updCtl fun c => { c with spillTop := v })] ++
       (List.range 4).map (fun k => (0x028 + k, v.toNat < 2 ^ 60, s)) ++
       (List.range 4).map (fun k => (0x031 + k, True, s.updCtl fun c => { c with epc := c.epc.set k v })) ++
       (List.range 4).map (fun k => (0x038 + k, v.toNat % 4 = 0, s.updCtl fun c => { c with cbase := c.cbase.set k v })) ++
       (List.range 4).map (fun k => (0x03C + k, v.toNat < 2 ^ 32, s.updCtl fun c => { c with clen := c.clen.set k (v.setWidth 32) }))
     (∀ ok u, (n.toNat, ok, u) ∈ rw → s.me.ctl.pl = true ∨ n = 8 ∨ n = 9 →
       (ok → Completes .s (.sysw n a) s u) ∧ (¬ ok → exec (.sysw n a) s = .next (s.raise .s .reservedField bad))) ∧
     (n.toNat ∈ ro → s.me.ctl.pl = true → Completes .s (.sysw n a) s s) ∧
     (n.toNat ∈ ro ∨ (∃ ok u, (n.toNat, ok, u) ∈ rw ∧ n ≠ 8 ∧ n ≠ 9) ∨ n = 0x00A → s.me.ctl.pl = false →
       exec (.sysw n a) s = .next (s.raise .s .privilege bad)) ∧
     (n = 0x00A → s.me.ctl.pl = true → ∀ ty : EType, v.toNat = ty.code + 2 ^ 8 * (v.toNat / 2 ^ 8) →
       (1 ≤ v.toNat / 2 ^ 8 → v.toNat / 2 ^ 8 ≤ 256 / etBytes ty →
         Completes .s (.sysw n a) s (s.updR fun r => { r with ety := ty, vl := BitVec.ofNat 9 (v.toNat / 2 ^ 8) })) ∧
       (v.toNat / 2 ^ 8 = 0 → exec (.sysw n a) s = .next (s.raise .s .shapeIllegal (vshape s.me.src)))) ∧
     (n.toNat ∉ ro → (∀ ok u, (n.toNat, ok, u) ∉ rw) → n ≠ 0x00A →
       exec (.sysw n a) s = .next (s.raise .s .illegalFn bad))) ∧
  (∀ (s : State) (i : Instr) (n : BitVec 4) (a : SReg) (back : Bool) (ways : BitVec 5),
     i ∈ [.lvwrite n a, .eret, .l2conv back ways] → Issues .s [kS a] s → s.me.ctl.pl = false →
     exec i s = .next (s.raise .s .privilege (thisWord s .s i)))

/-- 06 R175, R176, 21 R430, R431: `ACQP 0` completes at once, a request beyond 1,024 units or beyond the cluster's SHARE raises
POWER_OVERDRAW, any other waits in arrival order and completes once it is granted; `RELP` returns units down to none;
`SETDIV` of a divisor outside 4-64 raises DIV_ILLEGAL, any other waits for its ramp, and completes when that has ended. -/
def Obligations.PowerWordsComplete : Prop :=
  (∀ (s : State) (n : BitVec 16) (e : Engine) (dv : BitVec 7), Issues .s [] s → s.prog .s = .none →
    let held := s.me.ctl.pwrdecl
    (n = 0 → Completes .s (.acqp n) s s) ∧
    (n ≠ 0 → 1024 < held + n.toNat ∨ s.myCluster.share.toNat < held + n.toNat →
      exec (.acqp n) s = .next (s.raise .s .powerOverdraw (n.setWidth 64))) ∧
    (n ≠ 0 → held + n.toNat ≤ 1024 → held + n.toNat ≤ s.myCluster.share.toNat →
      Waits .s (.acqp n) s (s.updMyCluster fun k => { k with pend := k.pend ++ [(s.focus.toNat, n.toNat)] })) ∧
    Completes .s (.relp n) s (s.updCtl fun c => { c with pwrdecl := if n.toNat ≤ held then held - n.toNat else 0 }) ∧
    (dv.toNat < 4 ∨ 64 < dv.toNat → exec (.setdiv e dv) s = .next (s.raise .s .divIllegal (dv.setWidth 64))) ∧
    (4 ≤ dv.toNat → dv.toNat ≤ 64 → ∃ t, exec (.setdiv e dv) s = .next t ∧ (t.lane .s).waiting = true ∧ t.me.r = s.me.r ∧
      (s.myCluster.clk.ramp = none → t.myCluster.clk.target = some (e, dv.toNat) ∧ t.myCluster.clk.ramp.isSome = true) ∧
      (s.myCluster.clk.ramp ≠ none → t.myCluster.clk.held = s.myCluster.clk.held ++ [(s.focus.toNat, e, dv.toNat)] ∧
        t.myCluster.clk.ramp = s.myCluster.clk.ramp))) ∧
  ∀ (s : State) (n : BitVec 16) (e : Engine) (dv : BitVec 7), (s.lane .s).waiting = true →
    (∀ m, s.prog .s = .granted m → Completes .s (.acqp n) s s) ∧ (s.prog .s = .acqp → n ≠ 0 → Waits .s (.acqp n) s s) ∧
    (∀ b, s.prog .s = .setdiv b → 4 ≤ dv.toNat → dv.toNat ≤ 64 → Waits .s (.setdiv e dv) s s) ∧
    (s.prog .s = .ramped → 4 ≤ dv.toNat → dv.toNat ≤ 64 → Completes .s (.setdiv e dv) s s)

/-- 19 R399-R403: taking a trap. While the ramp of the S lane's `SETDIV` runs the trap is held until it has ended (R401). Otherwise the
four EPCs name the lanes' words (a `SETDIV` whose ramp has ended: the word after it), `CAUSE` and `TVAL` are written, the timed region
closes and no lane waits; at task level with a handler the core enters it at system level, and otherwise it stops with its report. Units
granted to an `ACQP` that has not completed are returned. No other register of the core and no byte of memory changes, and of the other
cores only the claims of a `RINGCLAIM` that is abandoned. -/
def Obligations.TakingATrap : Prop :=
  ∀ (s : State) (l : Lane) (cause : Cause) (v : Word), s.me.latch = none →
    let t := s.raise l cause v
    let enters := s.me.ctl.pl = false ∧ s.me.ctl.tvec ≠ 0 ∧ cause ≠ .preempt ∧ cause ≠ .debug
    let ramps := (s.lane .s).waiting = true ∧ s.prog .s = .setdiv true
    (ramps → t = s.updMe fun c => if c.trapHeld.isSome then c else { c with trapHeld := some (l, cause, v) }) ∧
    (¬ ramps →
      (∀ k, t.me.ctl.epc.get (laneIdx k) = BitVec.setWidth 64
        (if s.prog k = .setdiv true ∨ s.prog k = .ramped then (s.lane k).pc + laneStep k else (s.lane k).pc)) ∧
      t.me.ctl.causeLane.toNat = laneIdx l ∧ t.me.ctl.causeCode.toNat = cause.code ∧ t.me.ctl.tval = v ∧ t.me.ctl.timed = false ∧
      t.me.ctl.tvec = s.me.ctl.tvec ∧ (∀ k, (t.lane k).waiting = false) ∧
      (∀ n, s.prog .s = .granted n → t.me.ctl.pwrdecl = s.me.ctl.pwrdecl - n) ∧
      ((∀ n, s.prog .s ≠ .granted n) → t.me.ctl.pwrdecl = s.me.ctl.pwrdecl) ∧
      (enters → t.me.ctl.ppl = false ∧ t.me.ctl.pl = true ∧ (t.lane .s).pc = s.me.ctl.tvec.setWidth 32 ∧ t.me.inHandler = true ∧
        t.me.mode = s.me.mode ∧ t.me.report = s.me.report) ∧
      (¬ enters → t.me.ctl.ppl = s.me.ctl.ppl ∧ t.me.ctl.pl = s.me.ctl.pl ∧ (∀ k, (t.lane k).pc = (s.lane k).pc) ∧
        (cause ≠ .preempt → t.me.mode = .stopped ∧ t.me.report = some (cause, v)) ∧ (cause = .preempt → t.me.mode = .saving)) ∧
      t.me = { s.me with lanes := t.me.lanes, released := false, far := none, trapHeld := none, ctl := t.me.ctl,
                         inHandler := t.me.inHandler, mode := t.me.mode, report := t.me.report, rings := t.me.rings } ∧
      t.me.ctl = { s.me.ctl with epc := t.me.ctl.epc, causeLane := t.me.ctl.causeLane, causeCode := t.me.ctl.causeCode, tval := v,
                                 timed := false, ppl := t.me.ctl.ppl, pl := t.me.ctl.pl, pwrdecl := t.me.ctl.pwrdecl } ∧
      (∀ c, t.core c = if c = s.focus then t.me else { s.core c with rings := (t.core c).rings }) ∧
      ((∀ p, s.prog .s ≠ .acquiring p) → ∀ c, (t.core c).rings = (s.core c).rings) ∧ SameMemory s t)

/-- 06 R179: `TRAP n` raises TRAP_SW with `n`, its EPC naming the word after it; at system level `ERET` sets PL from PPL, and
every lane goes on at its EPC, elastic. -/
def Obligations.TrapAndReturnComplete : Prop :=
  (∀ (s : State) (n : BitVec 16), Issues .s [] s →
    ∃ u, exec (.trap n) s = .next (u.raise .s .trapSw (n.setWidth 64)) ∧ OnlyCore s u ∧
      u.me = { s.me with lanes := u.me.lanes, eqj := u.me.eqj } ∧ OnlyLane .s s u ∧ (u.lane .s).pc = (s.lane .s).pc + 1 ∧
      u.prog .s = s.prog .s) ∧
  ∀ s : State, Issues .s [] s → s.me.ctl.pl = true →
    ∃ t, exec .eret s = .next t ∧ OnlyCore s t ∧ t.me.ctl = { s.me.ctl with pl := s.me.ctl.ppl, timed := false } ∧
      (∀ l, (t.lane l).pc = (s.me.ctl.epc.get (laneIdx l)).setWidth 32 ∧ (t.lane l).waiting = false) ∧
      t.me = { s.me with lanes := t.me.lanes, ctl := t.me.ctl, inHandler := false, mode := .running, report := none }

/-- 06 R181: at system level `L2CONV` moves ways between the cache and the cluster scratchpad, the ways that become
scratchpad zeroed and their lines gone from the cache; more ways than there are raise L2CONV_RANGE.
06 R182: `EVENT` of an aperture address raises APERTURE, of a global address that is no multiple of 8 MISALIGN; else, after
a release of package scope, the 32 bytes at the address go to the end of the own die's launch queue of the core's virtual
function. -/
def Obligations.L2ConversionAndLaunchComplete : Prop :=
  (∀ (s : State) (ways : BitVec 5), Issues .s [] s → s.me.ctl.pl = true →
     let ci := clusterOf s.focus
     let c := (s.cluster ci).conv
     (c < ways.toNat → exec (.l2conv true ways) s = .next (s.raise .s .l2convRange (ways.setWidth 64))) ∧
     (15 - c < ways.toNat → exec (.l2conv false ways) s = .next (s.raise .s .l2convRange (ways.setWidth 64))) ∧
     (ways = 0 → Completes .s (.l2conv true ways) s s ∧ Completes .s (.l2conv false ways) s s) ∧
     (ways ≠ 0 → ways.toNat ≤ c → ∃ t, exec (.l2conv true ways) s = .next t ∧ Leaves .s (s.nextPc .s) s
       (State.updCluster { s with openLats := t.openLats } ci fun k => { k with conv := c - ways.toNat }) t) ∧
     (ways ≠ 0 → ways.toNat ≤ 15 - c → ∃ t, exec (.l2conv false ways) s = .next t ∧ (t.lane .s).pc = s.nextPc .s ∧
       (t.cluster ci).conv = c + ways.toNat ∧ t.me.r = s.me.r ∧ t.me.ctl = s.me.ctl ∧
       (∀ n x, (s.cluster ci).l2.get n = some x → 15 - c < x.way + ways.toNat → x.way ≤ 15 - c → (t.cluster ci).l2.get n = none) ∧
       ((∀ r ∈ (s.cluster ci).l2.rows, ∀ x, r.2 = some x → ¬ (15 - c < x.way + ways.toNat ∧ x.way ≤ 15 - c)) →
         (t.cluster ci).l2 = (s.cluster ci).l2) ∧
       (∀ o, c * 0x20000 ≤ o → o < (c + ways.toNat) * 0x20000 → memGet t.mem (0xFE00000000000 + ci * 0x200000 + o) = 0) ∧
       (s.l2Dirty ci = [] → ∀ x, x < 0xFE00000000000 + ci * 0x200000 + c * 0x20000 ∨
         0xFE00000000000 + ci * 0x200000 + (c + ways.toNat) * 0x20000 ≤ x → memGet t.mem x = memGet s.mem x))) ∧
  (∀ (s : State) (a : SReg), Issues .s [kS a] s →
     let va := s.rdS a
     let die := dieOf s.focus
     s.prog .s = .none →
     (bits va 48 16 = 0xFF00 → exec (.event a) s = .next (s.raise .s .aperture va)) ∧
     (va.toNat + 32 ≤ 2 ^ 56 → va.toNat % 8 ≠ 0 → exec (.event a) s = .next (s.raise .s .misalign va)) ∧
     ∀ (key mt : Nat) (rec : BitVec 256), Quiet s → Sound s → va.toNat % 8 = 0 → Mapped s va 32 key mt → mt ≠ 0 → key % 8 = 0 →
       (∀ i, i < 32 → memGet s.mem (key + i) = rec.extractLsb' (8 * i) 8) → ((s.die die).lq.get s.me.ctl.vfid).length < 64 →
       Completes .s (.event a) s ((s.released .package).updDie die fun x =>
         { x with lq := x.lq.set s.me.ctl.vfid (x.lq.get s.me.ctl.vfid ++ [rec]) }))

/-- 06 R178: `PHINT` completes with no effect where its point is not taken; where it is, a record that keeps the rules of
19 R409 raises PREEMPT at the word after it, the core begins its save procedure, and the record is kept.
05 R136: `HALT` waits for the other lanes, the engines and every write and signal of the core; then the task ends after a
release of package scope: with no cause at task level, with `CAUSE` at system level. The core then holds no task, every lane
is parked and its energy units are returned; owners, banks, signals and registers stand. -/
def Obligations.TaskEndWordsComplete : Prop :=
  (∀ (s : State) (a : SReg), Issues .s [kS a] s →
     (s.me.preempt = none ∨ s.me.takesPoint = false → Completes .s (.phint a) s s) ∧
     ∀ (o : Nat) (ctx : Word) (rec : BitVec 384), s.me.preempt = some ctx → s.me.takesPoint = true → s.me.latch = none → s.prog .s = .none →
       Sound s →
       s.me.lq.get (laneIdx .s) = [] → s.rdS a = 0xFF00000000000000 + BitVec.ofNat 64 o → o % 8 = 0 →
       s.me.ctl.pbReg ≤ o → o + 48 ≤ s.me.ctl.pbSpad → o + 48 ≤ 0xC0000 → s.me.slotOwner o = .lanes → s.me.slotOwner (o + 47) = .lanes →
       (∀ i, i < 48 → memGet s.mem (keyPool s.focus o + i) = rec.extractLsb' (8 * i) 8) →
       (liveOk rec s.me.ctl.pbReg s.me.ctl.pbSpad = true →
         ∃ t, exec (.phint a) s = .next t ∧ t.me.mode = .saving ∧ t.me.saveAt = ctx ∧ t.me.live = rec ∧ t.me.ctl.causeCode = 0x42 ∧
           t.me.ctl.epc.get 0 = ((s.lane .s).pc + 1).setWidth 64 ∧ t.me.r = s.me.r ∧ SameMemory s t) ∧
       (liveOk rec s.me.ctl.pbReg s.me.ctl.pbSpad = false →
         ∃ t, exec (.phint a) s = .next t ∧ t.me.ctl.causeCode = 0x46 ∧ t.me.ctl.tval = s.rdS a ∧ t.me.r = s.me.r ∧ SameMemory s t)) ∧
  ((∀ s : State, Issues .s [] s → Quiet s → (∀ l, l ≠ .s → s.me.laneDone l = true) → s.me.enginesDone s.now = true →
     s.me.pathsEmpty = true → s.sigsDone s.focus = true → s.turnDone s.focus = true →
     ∃ u, exec .halt s = .next (u.endTask s.focus (if s.me.ctl.pl then some s.me.ctl.causeCode.toNat else none)) ∧
       SameMemory s u ∧ u.regs = s.regs.filter (fun r => r.core != s.focus.toNat) ∧
       u.me = { s.me with region := [], lanes := u.me.lanes, eqj := u.me.eqj, drained := [] } ∧ OnlyLane .s s u ∧ ∀ c, c ≠ s.focus → u.core c = s.core c) ∧
   (∀ s : State, Issues .s [] s → (∃ l, l ≠ .s ∧ s.me.laneDone l = false) → ∃ t, exec .halt s = .next t ∧
     (t.lane .s).waiting = true ∧ t.me.mode = s.me.mode) ∧
   ∀ s : State, Quiet s → s.me.pathsEmpty = true →
     let x := (s.haltCore s.focus).core s.focus
     x.mode = .idle ∧ (∀ l, (x.lane l).parked = true) ∧ x.ctl = { s.me.ctl with pwrdecl := 0, timed := false } ∧ x.r = s.me.r ∧
       x.slots = s.me.slots ∧ x.banks = s.me.banks ∧ x.sigs = s.me.sigs ∧ SameMemory s (s.haltCore s.focus))

/-- 09 R240, R246, R247, R239: with no vault write of the core on its way and room in the queue, `TMAP`, `TGATE`, `TCGATE`,
`TDIAG` and `TSWAP` queue their command with their operands and the gate as it stands, and complete.
09 R241, R244, R248: `TWAIT` queues behind the commands there are and waits for them, raises the cause recorded for its core,
and else completes; `TPROB` and `TNORM` queue their reduction, wait, and write its result when it has come. -/
def Obligations.TurntableWordsComplete : Prop :=
  (∀ (s : State) (n : BitVec 2) (m : TurnMode) (d a : SReg) (g : GReg), Issues .s [kS a, kS d] s → s.prog .s = .none →
     s.me.vaultQuiet s.now = true → s.myCluster.turn.queue.length < 16 →
     let gate := s.me.gates.get g.toNat
     Queues (.tmap n a) s (.map n.toNat) (s.rdS a) 0 ∧
     Queues (.tgate m a g) s (.gate false false m gate) (s.rdS a) 0 ∧
     Queues (.tcgate m d a g) s (.gate false true m gate) (s.rdS a) (s.rdS d) ∧
     Queues (.tdiag m a g) s (.gate true false m gate) (s.rdS a) 0 ∧
     Queues (.tswap a) s .swap (s.rdS a) 0) ∧
  (∀ (s : State) (d a : SReg) (m : TurnMode),
     let turn := s.myCluster.turn
     let blame := turn.blame.get s.focus.toNat
     let raises (i : Instr) : Prop := ∀ c v, blame = some (c, v) →
       ∃ u : State, exec i s = .next (u.raise .s c v) ∧ u.myCluster.turn.blame.get s.focus.toNat = none ∧ u.me.r = s.me.r
     let waits (i : Instr) (op : TurnOp) (sa : Word) : Prop :=
       ∃ t c, exec i s = .next t ∧ (t.lane .s).waiting = true ∧ (t.lane .s).pc = (s.lane .s).pc ∧ t.prog .s = .turn turn.seq ∧
         c.op = op ∧ c.sa = sa ∧ c.core = s.focus ∧ c.num = turn.seq ∧ t.myCluster.turn.queue = turn.queue ++ [c] ∧ t.me.r = s.me.r
     (Issues .s [] s → s.prog .s = .none → s.me.vaultQuiet s.now = true → turn.queue = [] →
       (blame = none → Completes .s .twait s s) ∧ raises .twait) ∧
     (Issues .s [] s → s.prog .s = .none → s.me.vaultQuiet s.now = true → turn.queue ≠ [] → turn.queue.length < 16 → waits .twait .wait 0) ∧
     (∀ n, (s.lane .s).waiting = true → s.prog .s = .turn n →
       ((∃ q ∈ turn.queue, q.num = n) → Waits .s .twait s s) ∧
       ((∀ q ∈ turn.queue, q.num ≠ n) → (blame = none → Completes .s .twait s s) ∧ raises .twait)) ∧
     ∀ (i : Instr) (op : TurnOp) (sa : Word), (i, op, sa) ∈ ([(.tprob d a, .prob, s.rdS a), (.tnorm m d, .norm m, 0)] : List (Instr × TurnOp × Word)) →
       (Issues .s [kS a] s → s.prog .s = .none → s.me.vaultQuiet s.now = true → turn.queue.length < 16 → waits i op sa) ∧
       ∀ n v, (s.lane .s).waiting = true → s.prog .s = .turn n → turn.results.find? (fun r => r.1 == n) = some (n, v) →
         (blame = none → Completes .s i s
           ((s.updMyCluster fun k => { k with turn := { k.turn with results := k.turn.results.filter fun x => x.1 != n } }).wrS d v 1)) ∧
         raises i)

/-- 09 R236, R237, R245: `TBIND` of a record that keeps the rules queues its binding, and `TGLD` loads a gate, from the own
scratchpad in slots of `turn`; a record that does not raises TURN_BIND, and a gate of more than 4 bits TURN_GATE. -/
def Obligations.TurntableLoadsComplete : Prop :=
  ∀ (s : State) (a : SReg) (g : GReg) (o : Nat), Issues .s [kS a] s → Sound s → s.me.lq.get (laneIdx .s) = [] →
    s.rdS a = 0xFF00000000000000 + BitVec.ofNat 64 o → o % 8 = 0 →
    let key := keyPool s.focus o
    (∀ rec : BitVec 256, TurnPool s o 32 → (∀ i, i < 32 → memGet s.mem (key + i) = rec.extractLsb' (8 * i) 8) →
      let b := (bindingOf rec.toNat).1
      let ok := (bindingOf rec.toNat).2 && b.ok (clusterOf s.focus) s.pkg.pkgid.toNat
      s.prog .s = .none → s.me.vaultQuiet s.now = true → s.myCluster.turn.queue.length < 16 →
      (ok = false → exec (.tbind a) s = .next (s.raise .s .turnBind (s.rdS a))) ∧
      (ok = true →
        ∃ t c, exec (.tbind a) s = .next t ∧ (t.lane .s).pc = s.nextPc .s ∧ c.op = .bind b ∧ c.core = s.focus ∧
          t.myCluster.turn = { s.myCluster.turn with queue := s.myCluster.turn.queue ++ [c], seq := s.myCluster.turn.seq + 1,
                                                     inBinding := 0, queued := some b } ∧ t.me.r = s.me.r ∧ SameMemory s t)) ∧
    ∀ (real : Bool) (k : Nat), TurnPool s o 8 → (memGet s.mem key).toNat % 8 = k →
      (4 < k → exec (.tgld real a g) s = .next (s.raise .s .turnGate (s.rdS a))) ∧
      (k ≤ 4 →
        let n := 2 ^ k
        let w := if real then 4 else 8
        TurnPool s o (8 + w * n * n) →
        ∃ t el, exec (.tgld real a g) s = .next t ∧ (t.lane .s).pc = s.nextPc .s ∧ SameMemory s t ∧ t.me.r = s.me.r ∧
          t.me.gates = s.me.gates.set g.toNat { k := BitVec.ofNat 3 k, real := real, el := el } ∧
          ∀ r c, r < 16 → c < 16 → if r < n ∧ c < n then
              Holds s.mem (key + 8 + w * (n * r + c)) w (el.get (16 * r + c)) ∧ (real = true → bits (el.get (16 * r + c)) 32 32 = 0)
            else el.get (16 * r + c) = 0)

/-! ### V lane -/

/-- 02 R47: writing elements of a vector changes exactly the listed ones, and writing a predicate sets exactly the listed bits;
a write of `p0` is discarded. -/
def Obligations.ElementWrites : Prop :=
  (∀ (w : Nat) (v : BitVec 2048) (l : List (Nat × Nat)), w ∈ [1, 2, 4, 8] → (l.map Prod.fst).Nodup →
    (∀ e ∈ l, e.1 < 256 / w ∧ e.2 < 2 ^ (8 * w)) →
    (∀ e ∈ l, elemAt w (setElems w v l) e.1 = e.2) ∧
    ∀ i, i < 256 / w → i ∉ l.map Prod.fst → elemAt w (setElems w v l) i = elemAt w v i) ∧
  ∀ (s : State) (p : PReg) (on : List Nat) (lat : Nat), on.Nodup → (∀ i ∈ on, i < 256) →
    (p = 0 → s.wrP p on lat = s) ∧
    (p ≠ 0 → ∀ i, i < 256 → ((s.wrP p on lat).me.p.get (s.pp p)).getLsbD i = decide (i ∈ on)) ∧
    ∀ k, k ≠ s.pp p → (s.wrP p on lat).me.p.get k = s.me.p.get k

/-- 07 R184, R186, R188, R189-R191: with an active element, the element words of the table complete with each active element's
result, each with its flags; with none they have no effect; under a type they do not accept they raise SHAPE_ILLEGAL. -/
def Obligations.VectorElementWordsComplete : Prop :=
  ∀ (s : State) (d a b : VReg) (p : PReg), Untrapped s → a.toNat < 60 → b.toNat < 60 →
    let t := s.ety
    let n := 8 * etBytes t
    let rm := s.me.src.rm
    let act := s.active p
    let int (f : Nat → Nat → Nat) (x y : Nat) : Nat × FpFlags := (f x y % 2 ^ n, noFlags)
    let f8 : EType → Bool := fun t => t == .e4m3 || t == .e5m2
    let fl : EType → Bool := fun t => t == .f64 || t == .f32 || t == .bf16 || t == .f16
    let it : EType → Bool := fun t => t == .i32 || t == .i16 || t == .i8
    let two : List (Instr × Bool × Nat × (Nat → Nat → Nat × FpFlags)) := [
      (.vadd d a b p, fl t || t == .c64, 3, elAdd t rm), (.vsub d a b p, fl t || t == .c64, 3, elSub t rm),
      (.vmul d a b p, fl t || t == .c64, 3, elMul t rm), (.vdiv d a b p, fl t, 8, fpDiv (etFmt t) rm),
      (.vmin d a b p, fl t, 3, fpMin (etFmt t)), (.vmax d a b p, fl t, 3, fpMax (etFmt t)), (.vcmul d a b p, t == .c64, 3, cMul rm),
      (.viadd d a b p, it t, 3, int (· + ·)), (.visub d a b p, it t, 3, int fun x y => x + 2 ^ n - y), (.vimul d a b p, it t, 3, int (· * ·)),
      (.vand d a b p, true, 1, int (· &&& ·)), (.vor d a b p, true, 1, int (· ||| ·)), (.vxor d a b p, true, 1, int (· ^^^ ·)),
      (.vshl d a b p, it t, 3, int fun x y => x * 2 ^ (y % n)), (.vshr d a b p, it t, 3, int fun x y => x / 2 ^ (y % n)),
      (.vsra d a b p, it t, 3, int fun x y => (natSigned n x / (2 ^ (y % n) : Nat) % (2 ^ n : Nat)).toNat),
      (.vguide d a b p, t == .f32 || t == .bf16 || t == .f16, 3, elGuide (s.me.src.lv.get 4).toNat t rm),
      (.vstep d a b p, t == .f32 || t == .bf16 || t == .f16, 3, elStep (s.me.src.lv.get 6).toNat (s.me.src.lv.get 7).toNat t rm)]
    let three : List (Instr × (Nat → Nat → Nat → Nat × FpFlags)) := [(.vfma d a b p, elFused false false t rm),
      (.vfms d a b p, elFused false true t rm), (.vfnma d a b p, elFused true false t rm)]
    let one : List (Instr × Bool × Nat × (Nat → Nat × FpFlags)) := [
      (.vabs d a p, fl t || f8 t || it t, 1, fun x => if it t then ((natSigned n x).natAbs % 2 ^ n, noFlags) else (x % 2 ^ (n - 1), noFlags)),
      (.vneg d a p, true, 1, fun x => if it t then ((2 ^ n - x) % 2 ^ n, noFlags)
        else if t = .c64 then (x ^^^ (2 ^ 63 + 2 ^ 31), noFlags) else (x ^^^ 2 ^ (n - 1), noFlags)),
      (.vrcp d a p, t == .f32, 8, fpRcp), (.vrsqrt d a p, t == .f32, 8, fpRsqrt), (.vsqrt d a p, t == .f32, 8, fpSqrt),
      (.vexp2 d a p, t == .f32, 8, fpExp2), (.vlog2 d a p, t == .f32, 8, fpLog2), (.vsinpi d a p, t == .f32, 8, fpSinpi),
      (.vcospi d a p, t == .f32, 8, fpCospi), (.vsig d a p, t == .f32, 8, fpSig)]
    (act ≠ [] → (Issues .v (s.vReads p [a, b] []) s → ∀ i ok lat f, (i, ok, lat, f) ∈ two →
        (ok = true → Completes .v i s (s.vDone d (etBytes t) lat (act.map fun k => (k, f (s.elem a k) (s.elem b k))))) ∧
        (ok = false → exec i s = .next (s.raise .v .shapeIllegal (vshape s.me.src)))) ∧
      (Issues .v (s.vReads p [a, b] [kV (s.pv d)]) s → fl t = true → ∀ i f, (i, f) ∈ three →
        Completes .v i s (s.vDone d (etBytes t) 3 (act.map fun k => (k, f (s.elem a k) (s.elem b k) (s.elem d k))))) ∧
      (Issues .v (s.vReads p [a] []) s → ∀ i ok lat f, (i, ok, lat, f) ∈ one →
        (ok = true → Completes .v i s (s.vDone d (etBytes t) lat (act.map fun k => (k, f (s.elem a k))))) ∧
        (ok = false → exec i s = .next (s.raise .v .shapeIllegal (vshape s.me.src))))) ∧
    (act = [] → Issues .v [kShape, kP (s.pp p)] s → ∀ i, i ∈ two.map (·.1) ++ three.map (·.1) ++ one.map (·.1) → Completes .v i s s)

/-- 03 R88, 19 R419: of a two-source floating word, a poison pattern in an active source element raises POISON with its lowest
index under PTRAP, and else an enabled flag raises FP_EXC with the enabled flags raised; nothing is written. -/
def Obligations.VectorTrapsArePrecise : Prop :=
  ∀ (s : State) (d a b : VReg) (p : PReg), s.me.vUe = [] → a.toNat < 60 → b.toNat < 60 → s.active p ≠ [] →
    Issues .v (s.vReads p [a, b] []) s →
    s.ety = .f32 ∨ s.ety = .f64 ∨ s.ety = .bf16 ∨ s.ety = .f16 →
    ∀ (i : Instr) (f : Nat → Nat → Nat × FpFlags),
      (i, f) ∈ ([(.vadd d a b p, elAdd s.ety s.me.src.rm), (.vsub d a b p, elSub s.ety s.me.src.rm),
        (.vmul d a b p, elMul s.ety s.me.src.rm), (.vdiv d a b p, fpDiv (etFmt s.ety) s.me.src.rm)] : List (Instr × (Nat → Nat → Nat × FpFlags))) →
      let hits := (allFlags ((s.active p).map fun k => (f (s.elem a k) (s.elem b k)).2)).toBits &&& s.me.src.ten
      (∀ k, s.me.src.ptrap = true → k ∈ s.active p → poisoned s.ety (s.elem a k) = true ∨ poisoned s.ety (s.elem b k) = true →
        (∀ j ∈ s.active p, j < k → poisoned s.ety (s.elem a j) = false ∧ poisoned s.ety (s.elem b j) = false) →
        exec i s = .next (s.raise .v .poison (BitVec.ofNat 64 k))) ∧
      ((s.me.src.ptrap = true → ∀ j ∈ s.active p, poisoned s.ety (s.elem a j) = false ∧ poisoned s.ety (s.elem b j) = false) →
        hits ≠ 0 → exec i s = .next (s.raise .v .fpExc (hits.setWidth 64)))

/-- 07 R187, R192, R193, R203, 04 R111: `VSETSHAPE`, the compares, predicate logic, `PCOUNT` and `VMOVS` complete with the results
of their rules. -/
def Obligations.PredicateWordsComplete : Prop :=
  ∀ (s : State) (d a b : PReg) (x y : VReg) (sd : SReg) (n : BitVec 6) (ty : EType) (vl : BitVec 9) (c : Cmp) (cu : CmpU), Untrapped s →
    x.toNat < 60 → y.toNat < 60 →
    let t := s.ety
    let act := s.active a
    let it : Bool := t == .i32 || t == .i16 || t == .i8
    let bits8 := 8 * etBytes t
    let both (f : Bool → Bool → Bool) : List Nat := (List.range s.vl).filter fun i => f ((s.rdP a).getLsbD i) ((s.rdP b).getLsbD i)
    (Issues .v [] s → Completes .v (.vsetshape ty vl) s ((s.updR fun r => { r with ety := ty, vl := vl }).setReady kShape (s.vCycles 1))) ∧
    (Issues .v [kShape, kP (s.pp a), kP (s.pp b)] s → Completes .v (.pand d a b) s (s.wrP d (both (· && ·)) 1) ∧
      Completes .v (.por d a b) s (s.wrP d (both (· || ·)) 1) ∧ Completes .v (.pxor d a b) s (s.wrP d (both (· ^^ ·)) 1)) ∧
    (Issues .v [kShape, kP (s.pp a)] s → Completes .v (.pcount sd a) s (s.wrSv sd (BitVec.ofNat 64 act.length))) ∧
    (Issues .v (s.vReads a [x, y] []) s → act ≠ [] →
      (it = true → c ≠ .un → Completes .v (.vcmp c d x y a) s (s.wrP d (act.filter fun k =>
        let u := natSigned bits8 (s.elem x k)
        let v := natSigned bits8 (s.elem y k)
        match c with | .eq => decide (u = v) | .lt => decide (u < v) | _ => decide (u ≤ v)) 3)) ∧
      (it = true → Completes .v (.vcmpU cu d x y a) s (s.wrP d (act.filter fun k =>
        match cu with | .ltu => decide (s.elem x k < s.elem y k) | .leu => decide (s.elem x k ≤ s.elem y k)) 3)) ∧
      (t = .f32 ∨ t = .f64 ∨ t = .bf16 ∨ t = .f16 → ∀ res, res = act.map (fun k => (k, fCmp (etFmt t) c (s.elem x k) (s.elem y k))) →
        Completes .v (.vcmp c d x y a) s (State.wrP (s.updCtl fun r =>
          { r with fpflags := r.fpflags ||| (allFlags (res.map fun r => r.2.2)).toBits }) d ((res.filter fun r => r.2.1).map Prod.fst) 3))) ∧
    (Issues .v (s.vReads a [x] []) s → act ≠ [] →
      (s.vl ≤ n.toNat → Completes .v (.vmovs sd x n a) s (s.wrSv sd 0)) ∧
      (n.toNat < s.vl → n.toNat ∉ act → Completes .v (.vmovs sd x n a) s s) ∧
      (n.toNat ∈ act → Completes .v (.vmovs sd x n a) s (s.wrSv sd
        (if it then BitVec.ofInt 64 (natSigned bits8 (s.elem x n.toNat)) else BitVec.ofNat 64 (s.elem x n.toNat)))))

/-- 07 R194-R199, R205, 03 R85-R87, R96, R97: conversions, QL4, reductions, scans, permutations, `VBUCKET` and `VTEMB` complete with
the results of their rules; a conversion to or from C64 raises ILLEGAL_FN, one that does not fit the register SHAPE_ILLEGAL. -/
def Obligations.VectorRearrangementComplete : Prop :=
  ∀ (s : State) (d a b : VReg) (sa : SReg) (p : PReg) (ty : EType) (rm : Rm) (blk : BitVec 2) (k : BitVec 6), Untrapped s →
    a.toNat < 57 → b.toNat < 60 →
    let t := s.ety
    let w := etBytes t
    let act := s.active p
    let fl : Bool := t == .f64 || t == .f32 || t == .bf16 || t == .f16
    let it : Bool := t == .i32 || t == .i16 || t == .i8
    let whole (i : Instr) (lat : Nat) (res : List (Nat × Nat × FpFlags)) : Prop := Completes .v i s (s.vDone d w lat res)
    act ≠ [] →
    (Issues .v (s.vReads p [a] []) s →
      (∀ (i : Instr) (sat : Bool), (i, sat) ∈ ([(.vcvt d a ty rm p, false), (.vcvtS d a ty rm p, true)] : List (Instr × Bool)) →
        (t ≠ .c64 → ty ≠ .c64 → s.vl * max w (etBytes ty) ≤ 256 → Completes .v i s (s.vDone d (etBytes ty) 3
          (act.map fun j => (j, cvtElem t ty rm sat (s.elem a j))))) ∧
        (t = .c64 ∨ ty = .c64 → exec i s = .next (s.raise .v .illegalFn (thisWord s .v i))) ∧
        (t ≠ .c64 → ty ≠ .c64 → 256 < s.vl * max w (etBytes ty) → exec i s = .next (s.raise .v .shapeIllegal (vshape s.me.src)))) ∧
      (t = .f32 → s.vl = 64 → whole (.vql4dec d a blk p) 8 (act.map fun j =>
        (j, ql4Decode (toBytes 136 (s.me.v.get (s.pv a)).toNat) (64 * blk.toNat + j)))) ∧
      (∀ (i : Instr) (op : RedOp), (i, op) ∈ ([(.vredsum d a p, .sum), (.vredmax d a p, .max), (.vredmin d a p, .min)] : List (Instr × RedOp)) →
        fl = true ∨ it = true ∨ (t = .c64 ∧ op = .sum) →
        Completes .v i s (s.vDone d (etBytes (nodeType t)) 10 [(0, (redTree (fun j => if act.contains j then some (redLeaf t (s.elem a j)) else none)
          (redCombine op (nodeType t) s.me.src.rm) (redDepth s.vl) 0).getD (redEmpty op (nodeType t), noFlags))])) ∧
      (fl = true ∨ it = true ∨ t = .c64 → whole (.vscan d a p) 10 (scanFrom
        (if it then fun x y => ((x + y) % 2 ^ (8 * w), noFlags) else elAdd t s.me.src.rm) 0 (act.map fun j => (j, s.elem a j)))) ∧
      whole (.vslide d a k p) 1 (act.map fun j =>
        (j, if 0 ≤ (j : Int) + k.toInt ∧ (j : Int) + k.toInt < s.vl then s.elem a ((j : Int) + k.toInt).toNat else 0, noFlags)) ∧
      whole (.vcompress d a p) 1 ((List.range s.vl).map fun j => (j, (match act[j]? with | some i => s.elem a i | none => 0), noFlags)) ∧
      (t = .f32 → whole (.vtemb d a p) 8 (act.map fun j =>
        let m := fpMul fmtF32 .rne (s.me.src.lv.get 2).toNat (s.elem a j)
        let r := if j < s.vl / 2 then fpSinpi m.1 else fpCospi m.1
        (j, r.1, m.2.or r.2)))) ∧
    (Issues .v (s.vReads p [] [kS sa]) s → whole (.vbcast d sa p) 1 (act.map fun j => (j, (s.rdSv sa).toNat % 2 ^ (8 * w), noFlags))) ∧
    (Issues .v (s.vReads p [a, b] []) s →
      whole (.vperm d a b p) 1 (act.map fun j =>
        (j, if s.elem b j % 256 < s.vl then s.elem a (s.elem b j % 256) else 0, noFlags)) ∧
      (t = .i16 ∨ t = .i32 → ∃ low : List (Nat × Nat), low.Pairwise (fun x y => x.1 ≤ y.1) ∧
        (∀ id, low.filter (fun e => e.1 == id) = ((act.map fun j => (s.elem a j, s.elem b j)).filter fun e => decide (e.1 < 4096)).filter fun e => e.1 == id) ∧
        Completes .v (.vbucket d a b p) s (low.foldl (fun u e => u.countExpert e.1 1) (s.vDone d w 10 ((List.range s.vl).map fun j =>
          (j, (match (low ++ (act.map fun j => (s.elem a j, s.elem b j)).filter fun e => !decide (e.1 < 4096))[j]? with
            | some e => e.2 | none => 2 ^ (8 * w) - 1), noFlags)))))) ∧
    (Issues .v (s.vReads p [a, a + 1, a + 2, a + 3] []) s → t = .f32 → s.vl = 64 → ∀ bs fl,
      ql4Encode ([a, a + 1, a + 2, a + 3].flatMap fun v => (List.range 64).map fun j => if act.contains j then s.elem v j else 0) = (bs, fl) →
      Completes .v (.vql4enc d a p) s ((s.updCtl fun c => { c with fpflags := c.fpflags ||| fl.toBits }).wrV d 256
        [(0, leBytes bs)] 8))

/-- 07 R200, R201, R202: the vector loads of the own scratchpad write the bytes at each active element's address into that
element and nothing else; `VLD` advances its cursor by VL elements; `QLD` fills a new queue entry with 256 walk bytes. -/
def Obligations.VectorLoadsComplete : Prop :=
  ∀ (s : State) (d b : VReg) (a sb : SReg) (x : XdReg) (q : BitVec 2) (p : PReg) (off : Nat → Nat), Untrapped s → Sound s → Direct .v s →
    s.me.xdWrote = [] →
    let w := etBytes s.ety
    let act := s.active p
    let dx := s.rdXd x
    let at_ (o : Nat) : Word := 0xFF00000000000000 + BitVec.ofNat 64 o
    let done (i : Instr) (xd : Tab Desc) : Prop := ∃ t, exec i s = .next t ∧ (t.lane .v).pc = s.nextPc .v ∧ SameMemory s t ∧
      (∀ k ∈ act, ∀ j, j < w → byteOf (elemAt w (t.me.v.get (s.pv d)) k) j = memGet s.mem (keyPool s.focus (off k) + j)) ∧
      (∀ k, k < 256 / w → k ∉ act → elemAt w (t.me.v.get (s.pv d)) k = s.elem d k) ∧
      (∀ n, n ≠ s.pv d → t.me.v.get n = s.me.v.get n) ∧ t.me.r = { s.me.r with xd := xd, ready := t.me.r.ready } ∧ t.me.p = s.me.p ∧
      t.me.tiles = s.me.tiles ∧ t.me.ctl = s.me.ctl
    (act ≠ [] → InOwnPool s w act off →
      (Issues .v (s.vReads p [] [kS a, kS sb]) s → (∀ k ∈ act, s.rdSv a + BitVec.ofNat 64 k * s.rdSv sb = at_ (off k)) →
        done (.vlds d a sb p) s.me.r.xd) ∧
      (Issues .v (s.vReads p [b] [kS a]) s → b.toNat < 60 →
        (∀ k ∈ act, s.rdSv a + BitVec.ofInt 64 (natSigned (8 * w) (s.elem b k)) = at_ (off k)) → done (.vgather d a b p) s.me.r.xd) ∧
      (Issues .v (s.vReads p [] []) s → dx.shapeOk = true → dx.window = false → dx.cur.toNat + s.vl * w ≤ dx.len.toNat →
        (∀ k ∈ act, dx.addr (dx.cur.toNat + k * w) = at_ (off k) ∧ dx.contiguous (dx.cur.toNat + k * w) w = true) →
        done (.vld d x p) (s.me.r.xd.set x.toNat { dx with cur := dx.cur + BitVec.ofNat 32 (s.vl * w) }))) ∧
    (Issues .v (s.vReads p [] []) s → act ≠ [] → dx.shapeOk = true → dx.window = false → dx.len.toNat < dx.cur.toNat + s.vl * w →
      exec (.vld d x p) s = .next (s.raise .v .descEnd (x.setWidth 64))) ∧
    ∀ o, Issues .v [] s → WalkInOwnPool s x 256 8 o → (s.me.q.get q.toNat).length < 8 →
      (∀ e ∈ s.me.q.get q.toNat, e.id ≠ s.fresh) →
      ∃ t e, exec (.qld q x) s = .next t ∧ (t.lane .v).pc = s.nextPc .v ∧ SameMemory s t ∧
        t.me.q.get q.toNat = (s.me.q.get q.toNat) ++ [e] ∧ e.filled = true ∧ e.bad = [] ∧
        (∀ j, j < 256 → memGet s.mem (keyPool s.focus o + j) = e.data.extractLsb' (8 * j) 8) ∧
        t.me.r.xd.get x.toNat = { dx with cur := dx.cur + 256 } ∧ t.me.v = s.me.v

/-- 07 R200, R201: the vector stores to the own scratchpad write each active element's bytes at its address, and no other byte of
memory and no register but `VST`'s cursor changes. -/
def Obligations.VectorStoresComplete : Prop :=
  ∀ (s : State) (d b : VReg) (a sb : SReg) (x : XdReg) (p : PReg) (off : Nat → Nat), Untrapped s → Sound s → Direct .v s →
    s.me.latch = none → s.me.xdWrote = [] → d.toNat < 60 → b.toNat < 60 →
    let w := etBytes s.ety
    let act := s.active p
    let dx := s.rdXd x
    let at_ (o : Nat) : Word := 0xFF00000000000000 + BitVec.ofNat 64 o
    let done (i : Instr) (xd : Tab Desc) : Prop := ∃ t, exec i s = .next t ∧ (t.lane .v).pc = s.nextPc .v ∧
      (∀ k ∈ act, ∀ j, j < w → memGet t.mem (keyPool s.focus (off k) + j) = byteOf (s.elem d k) j) ∧
      (∀ y, (∀ k ∈ act, y < keyPool s.focus (off k) ∨ keyPool s.focus (off k) + w ≤ y) → memGet t.mem y = memGet s.mem y) ∧
      t.me.v = s.me.v ∧ t.me.r = { s.me.r with xd := xd } ∧ t.me.p = s.me.p ∧ t.me.tiles = s.me.tiles ∧ t.me.ctl = s.me.ctl
    act ≠ [] → InOwnPool s w act off → (∀ k ∈ act, ∀ l ∈ act, k ≠ l → off k + w ≤ off l ∨ off l + w ≤ off k) →
      (Issues .v (s.vReads p [d] [kS a, kS sb]) s → (∀ k ∈ act, s.rdSv a + BitVec.ofNat 64 k * s.rdSv sb = at_ (off k)) →
        done (.vsts d a sb p) s.me.r.xd) ∧
      (Issues .v (s.vReads p [d, b] [kS a]) s →
        (∀ k ∈ act, s.rdSv a + BitVec.ofInt 64 (natSigned (8 * w) (s.elem b k)) = at_ (off k)) → done (.vscatter d a b p) s.me.r.xd) ∧
      (Issues .v (s.vReads p [d] []) s → dx.shapeOk = true → dx.window = false → dx.cur.toNat + s.vl * w ≤ dx.len.toNat →
        (∀ k ∈ act, dx.addr (dx.cur.toNat + k * w) = at_ (off k) ∧ dx.contiguous (dx.cur.toNat + k * w) w = true) →
        done (.vst d x p) (s.me.r.xd.set x.toNat { dx with cur := dx.cur + BitVec.ofNat 32 (s.vl * w) }))

/-- 07 R206, R207: `VLOOP` steps both register bases, counts its record down and goes back while it is not used up, popping the
records above; it pushes a record at its first pass, and a fifth record raises VLOOP_DEPTH; `VBR` branches on its predicate. -/
def Obligations.VectorControlCompletes : Prop :=
  ∀ (s : State) (off : BitVec 12) (n : BitVec 10) (c : BrCond) (p : PReg),
    let pc := (s.lane .v).pc
    let target := pc + off.signExtend 32
    let stack (l : List LoopRec) : State := s.updMe fun c => { c with vloop := l, r := rotate c.src c.r }
    (Issues .v [] s → ∀ below r above, s.me.vloop = below ++ r :: above → r.addr = pc → (∀ q ∈ below, q.addr ≠ pc) →
      (r.rem ≤ 1 → Completes .v (.vloop off n) s (stack below)) ∧
      (1 < r.rem → target.toNat < s.me.clen .v →
        Jumps .v (.vloop off n) s (stack (below ++ [{ addr := pc, rem := r.rem - 1 }])) target)) ∧
    (Issues .v [] s → (∀ q ∈ s.me.vloop, q.addr ≠ pc) →
      (n.toNat ≤ 1 → Completes .v (.vloop off n) s (stack s.me.vloop)) ∧
      (1 < n.toNat → s.me.vloop.length ≠ 4 → target.toNat < s.me.clen .v →
        Jumps .v (.vloop off n) s (stack (s.me.vloop ++ [{ addr := pc, rem := n.toNat - 1 }])) target) ∧
      (1 < n.toNat → s.me.vloop.length = 4 → exec (.vloop off n) s = .next (s.raise .v .vloopDepth (pc.setWidth 64)))) ∧
    (Issues .v [kShape, kP (s.pp p)] s →
      let set := (List.range s.vl).filter fun i => (s.rdP p).getLsbD i
      let holds := match c with | .any => set ≠ [] | .none => set = [] | .all => set.length = s.vl
      (holds → target.toNat < s.me.clen .v → Jumps .v (.vbr c off p) s s target) ∧
      (¬ holds → Completes .v (.vbr c off p) s s))

/-- 07 R208, R209, 02 R50: the tile words complete on tiles that are configured and resident; a word that names one that is not
configured raises TILE_UNCFG with its number, and a row or column outside it TILE_RANGE. -/
def Obligations.TileWordsComplete : Prop :=
  ∀ (s : State) (t ta tb : TReg) (d : VReg) (x : XdReg) (r1 c1 row : BitVec 4) (o : Nat), Untrapped s → s.me.xdWrote = [] →
    let y := s.me.tiles.get t.toNat
    let ready (u : TReg) : Prop := (s.me.tiles.get u.toNat).cfg = true ∧ (s.me.tiles.get u.toNat).resid = true ∧
      (s.me.tiles.get u.toNat).rows.toNat ≤ 16 ∧ (s.me.tiles.get u.toNat).cols.toNat ≤ 16
    let dx := s.rdXd x
    let n := 4 * y.cols.toNat
    (Issues .v [kTile] s → ∃ z : Tile, Completes .v (.tcfg t r1 c1) s (s.wrTile t z 1) ∧ z.cfg = true ∧ z.resid = true ∧ z.dirty = false ∧
      z.rows.toNat = r1.toNat + 1 ∧ z.cols.toNat = c1.toNat + 1 ∧ ∀ i, z.el.get i = 0) ∧
    (Issues .v [kTile, kT t] s → ready t →
      (∃ z : Tile, Completes .v (.tzero t) s (s.wrTile t z 1) ∧ z = { y with el := z.el, dirty := true } ∧ ∀ i j, z.at i j = 0) ∧
      (s.isReady kShape = true → s.ety = .f32 → row.toNat < y.rows.toNat → Completes .v (.tmovr d t row) s
        (s.wrV d 4 ((List.range (min s.vl 16)).map fun j => (j, y.at row.toNat j)) 1)) ∧
      (s.isReady kShape = true → s.ety = .f32 → row.toNat < y.cols.toNat → Completes .v (.tmovc d t row) s
        (s.wrV d 4 ((List.range (min s.vl 16)).map fun j => (j, y.at j row.toNat)) 1)) ∧
      (s.isReady kShape = true → s.ety = .f32 → y.rows.toNat ≤ row.toNat → exec (.tmovr d t row) s = .next (s.raise .v .tileRange (row.setWidth 64))) ∧
      (Direct .v s → s.me.latch = none → Sound s → row.toNat < y.rows.toNat → WalkInOwnPool s x n 4 o →
        (∃ u, exec (.tldrow t x row) s = .next u ∧ (u.lane .v).pc = s.nextPc .v ∧ SameMemory s u ∧
          (∀ j, j < y.cols.toNat → ∀ k, k < 4 → ((u.me.tiles.get t.toNat).el.get (16 * row.toNat + j)).extractLsb' (8 * k) 8 =
            memGet s.mem (keyPool s.focus o + 4 * j + k)) ∧
          (∀ i, i < 16 * row.toNat ∨ 16 * row.toNat + y.cols.toNat ≤ i → (u.me.tiles.get t.toNat).el.get i = y.el.get i) ∧
          (u.me.tiles.get t.toNat).dirty = true ∧ (∀ k, k ≠ t.toNat → u.me.tiles.get k = s.me.tiles.get k) ∧
          u.me.r.xd = s.me.r.xd.set x.toNat { dx with cur := dx.cur + BitVec.ofNat 32 n }) ∧
        ∃ u, exec (.tstrow t x row) s = .next u ∧ (u.lane .v).pc = s.nextPc .v ∧ u.me.tiles = s.me.tiles ∧
          (∀ j, j < y.cols.toNat → ∀ k, k < 4 → memGet u.mem (keyPool s.focus o + 4 * j + k) = byteOf (y.at row.toNat j) k) ∧
          (∀ m, m < keyPool s.focus o ∨ keyPool s.focus o + n ≤ m → memGet u.mem m = memGet s.mem m) ∧
          u.me.r.xd = s.me.r.xd.set x.toNat { dx with cur := dx.cur + BitVec.ofNat 32 n })) ∧
    (Issues .v [kTile, kT t, kT ta, kT tb] s → ready t → ready ta → ready tb →
      let el (i j : Nat) : Nat × FpFlags := fmaElem s.me.src.rm y (s.me.tiles.get ta.toNat) (s.me.tiles.get tb.toNat) i j
      let all := (List.range y.rows.toNat).flatMap fun i => (List.range y.cols.toNat).map fun j => el i j
      ∃ z : Tile, Completes .v (.tfma t ta tb) s (((s.updCtl fun c => { c with fpflags := c.fpflags ||| (allFlags (all.map Prod.snd)).toBits }).wrTile t z 16).setReady
          kTile (s.vCycles 16)) ∧ z = { y with el := z.el, dirty := true } ∧
        ∀ i j, i < y.rows.toNat → j < y.cols.toNat → z.at i j = (el i j).1 % 2 ^ 32) ∧
    (Issues .v [kTile, kT t] s → y.cfg = false →
      exec (.tzero t) s = .next (s.raise .v .tileUncfg (t.setWidth 64)) ∧
      exec (.tldrow t x row) s = .next (s.raise .v .tileUncfg (t.setWidth 64)) ∧
      exec (.tstrow t x row) s = .next (s.raise .v .tileUncfg (t.setWidth 64)))

/-- 09 R252-R258, 02 R51: the expansion words complete with the contents, radius and flags that their rules give; a word whose
registers have the wrong kinds raises EXP_KIND with the word, and `EADD` of unequal centres EXP_CENTRE. -/
def Obligations.ExpansionWordsComplete : Prop :=
  ∀ (s : State) (d a : EReg) (va vb vd : VReg) (pd p : PReg) (n : BitVec 5) (x : XdReg), Untrapped s → s.me.xdWrote = [] →
    va.toNat < 60 → vb.toNat < 59 →
    let e := s.me.exps.get d.toNat
    let g := s.me.exps.get a.toNat
    let o := s.ord
    let rm := s.me.src.rm
    let act := s.active p
    let old (k : Nat) : Cx := Cx.of (BitVec.ofNat 64 (s.elem vd k))
    let z (k : Nat) : Cx := Cx.of (BitVec.ofNat 64 (s.elem va k))
    let sets (i : Instr) (lat : Nat) (r : Fx Expn) : Prop :=
      Completes .v i s ((s.updCtl fun c => { c with fpflags := c.fpflags ||| r.2.toBits }).wrExp d r.1 lat)
    (Issues .v [kExp] s → Completes .v (.eord n) s ((s.updR fun r => { r with eord := n }).setReady kExp (s.vCycles 2))) ∧
    (Issues .v [kExp, kE d] s → Completes .v (.eclr d) s (s.wrExp d { e with c := .fill 0, radius := 0 } 2)) ∧
    (Issues .v [kExp, kE d, kE a] s →
      (e.isLocal = false → g.isLocal = false → sets (.eshift d a) ((o + 1) * (o + 2) / 2 + 8)
        (let r := maxRadius (e.radius.toNat, noFlags) (distUp g.at e.at g.radius.toNat)
         let cs := m2m rm o e g
         ({ e with radius := BitVec.ofNat 32 r.1 }.withCo o cs.1, r.2.or cs.2))) ∧
      (e.isLocal = true ∨ g.isLocal = true → exec (.eshift d a) s = .next (s.raise .v .expKind (thisWord s .v (.eshift d a)))) ∧
      (e.isLocal = true → g.isLocal = false → sets (.econv d a) ((o + 1) * (o + 2) + 16) (e.withCo o (m2l rm o e g).1, (m2l rm o e g).2)) ∧
      (e.isLocal = true → g.isLocal = true → sets (.elshift d a) ((o + 1) * (o + 2) / 2 + 8) (e.withCo o (l2l rm o e g).1, (l2l rm o e g).2)) ∧
      (e.isLocal = g.isLocal → e.centre = g.centre → sets (.eadd d a) 2
        (let cs := mapFx (fun l => cadd rm (e.co l) (g.co l)) (span 0 o)
         let r := maxRadius (e.radius.toNat, noFlags) (g.radius.toNat, noFlags)
         ({ e with radius := BitVec.ofNat 32 r.1 }.withCo o cs.1, r.2.or cs.2))) ∧
      (e.isLocal = g.isLocal → e.centre ≠ g.centre → exec (.eadd d a) s = .next (s.raise .v .expCentre (thisWord s .v (.eadd d a)))) ∧
      (s.isReady kShape = true → Completes .v (.eadmit pd d a) s ((s.wrP pd (if admissible s.me.src.eta.toNat e g then List.range s.vl else []) 4).setReady kExp (s.vCycles 4)))) ∧
    (s.ety = .c64 → act ≠ [] →
      (Issues .v (s.vReads p [va, vb] [kExp, kE d]) s → e.isLocal = false → sets (.eform d va vb p) (s.vl * (o + 1) + 8)
        (act.foldl (fun r k => formOne rm o r (z k) (Cx.of (BitVec.ofNat 64 (s.elem vb k)))) (Fx.pure (e.withCo o ((span 0 o).map e.co))))) ∧
      (Issues .v (s.vReads p [va] [kExp, kE a, kV (s.pv vd)]) s → Completes .v (.eeval vd va a p) s
        ((s.vDone vd 8 (s.vl * (o + 2) + 16) (act.map fun k =>
          let r := (evalExp rm o g (z k)).bind fun v => cadd rm (old k) v
          (k, r.1.pat.toNat, r.2))).setReady kExp (s.vCycles (s.vl * (o + 2) + 16)))) ∧
      (Issues .v (s.vReads p [va, vb, vb + 1] [kExp, kV (s.pv vd)]) s → Completes .v (.ep2p vd va vb p) s
        ((s.vDone vd 8 (s.vl * s.vl + 16) (act.map fun k =>
          let r := (List.range s.vl).foldl (fun (acc : Fx Cx) j =>
            let c := Cx.of (BitVec.ofNat 64 (s.elem vb j))
            if cxSame (z k) c then acc else
            (csub rm (z k) c).bind fun t => (clog rm t).bind fun l => (cmul rm (Cx.of (BitVec.ofNat 64 (s.elem (vb + 1) j))) l).bind fun y =>
              acc.bind fun v => cadd rm v y) (Fx.pure (old k))
          (k, r.1.pat.toNat, r.2))).setReady kExp (s.vCycles (s.vl * s.vl + 16))))) ∧
    ∀ q, Issues .v [kExp, kE d] s → Direct .v s → s.me.latch = none → Sound s → o < 32 → WalkInOwnPool s x 272 8 q →
      (∃ t, exec (.eld d x) s = .next t ∧ (t.lane .v).pc = s.nextPc .v ∧ SameMemory s t ∧
        (∀ i, i ≤ o → Holds s.mem (keyPool s.focus q + 8 * i) 8 ((t.me.exps.get d.toNat).c.get i)) ∧
        (∀ i, o < i → i < 32 → (t.me.exps.get d.toNat).c.get i = 0) ∧
        Holds s.mem (keyPool s.focus q + 256) 8 (t.me.exps.get d.toNat).centre ∧
        Holds s.mem (keyPool s.focus q + 264) 4 ((t.me.exps.get d.toNat).radius.setWidth 64) ∧
        (t.me.exps.get d.toNat).isLocal = (memGet s.mem (keyPool s.focus q + 268)).getLsbD 0 ∧
        ∀ k, k ≠ d.toNat → t.me.exps.get k = s.me.exps.get k) ∧
      ∃ t, exec (.est d x) s = .next t ∧ (t.lane .v).pc = s.nextPc .v ∧ t.me.exps = s.me.exps ∧
        (∀ i, i < 32 → Holds t.mem (keyPool s.focus q + 8 * i) 8 (e.c.get i)) ∧ Holds t.mem (keyPool s.focus q + 256) 8 e.centre ∧
        Holds t.mem (keyPool s.focus q + 264) 8 (e.radius.setWidth 64 + if e.isLocal then 0x100000000 else 0) ∧
        ∀ m, m < keyPool s.focus q ∨ keyPool s.focus q + 272 ≤ m → memGet t.mem m = memGet s.mem m

/-! ### M lane -/

/-- 08 R218-R221, R219: a matrix command whose checks at issue pass starts its computation with the manifest it resolved,
which becomes the last one; the first of the first five rows of R219 that fails decides the cause. -/
def Obligations.MatrixCommandsComplete : Prop :=
  ∀ (s : State) (ab : AbReg) (k1 : BitVec 8) (n : MfReg) (rh : Bool) (nc1 : BitVec 5) (nv1 : BitVec 3), Issues .m [] s →
    let e := mfIndex s.me.src s.me.mlc n
    let m := s.me.mf.get e
    let b := ab.toNat
    let k := k1.toNat + 1
    ∀ (i : Instr) (kind : MatKind) (banks rows cols : Nat), (i, kind, banks, rows, cols) ∈ ([
        (.mma ab k1 n rh nc1, .mma, if rh then 1 else 2, if rh then 32 else 64, nc1.toNat + 1),
        (.mmasp ab k1 n rh nc1, .mmasp, if rh then 1 else 2, if rh then 32 else 64, nc1.toNat + 1),
        (.mmv ab k1 n nv1, .mmv, 1, nv1.toNat + 1, 32)] : List (Instr × MatKind × Nat × Nat × Nat)) →
      EngineReady s b banks →
      let fits := mfAccepted m = true ∧ (mfSp m = true ↔ kind = .mmasp)
      let allocd := ∀ j, j < banks → s.isAlloc (b + j)
      let mode := ∀ j, j < banks → (s.me.banks.get (b + j)).i96 = mfI96 m
      let run : MatRun :=
        { kind := kind, pc := (s.lane .m).pc, man := m, bank := b, k := k, rows := rows, cols := cols, at_ := s.now, step := 0,
          a := [], b := [], timed := s.timed, cyc := s.cycIn, done := none, undo := s.me.mUndo }
      (¬ fits → exec i s = .next (s.raise .m .manifest (BitVec.ofNat 64 e))) ∧
      (fits → 32 < b + banks → exec i s = .next (s.raise .m .accRange (ab.setWidth 64))) ∧
      (fits → b + banks ≤ 32 → ∀ j, j < banks → (∀ h, h < j → s.isAlloc (b + h)) → ¬ s.isAlloc (b + j) →
        exec i s = .next (s.raise .m .accUnalloc (BitVec.ofNat 64 (b + j)))) ∧
      (fits → b + banks ≤ 32 → allocd → ¬ mode → exec i s = .next (s.raise .m .manifest (BitVec.ofNat 64 e))) ∧
      (fits → b + banks ≤ 32 → allocd → mode → (kind = .mmasp ∧ k % 4 ≠ 0) →
        exec i s = .next (s.raise .m .reservedField (thisWord s .m i))) ∧
      (fits → b + banks ≤ 32 → allocd → mode → (kind = .mmasp → k % 4 = 0) → Completes .m i s
        (s.updMe fun c => { c with mrun := some run, lmf := some m, lmfNo := some (BitVec.ofNat 4 e) }))

/-- 03 R90, R92, 08 R218: a computation whose last cycle has passed commits all its outputs together: each entry of its rows
and columns gets its old value with the products added, every other byte of memory stands, the illegal 2:4 groups are
counted, and the engine is free. -/
def Obligations.MatrixCommandCommits : Prop :=
  ∀ (s : State) (m : MatRun) (p : Nat), s.me.mrun = some m → m.done = some p → p ≤ s.now → Sound s → m.rows ≤ 64 → m.cols ≤ 32 →
    m.man.getLsbD 16 = false → m.man.getLsbD 18 = false →
    let key (i j : Nat) : Nat := keyAcc s.focus m.bank (384 * i + 12 * j)
    ∃ t, exec .mCommandCommit s = .next t ∧
      (∀ i j k, i < m.rows → j < m.cols → k < 12 →
        memGet t.mem (key i j + k) = byteOf (m.entry (m.pairs i) j (s.peekN (key i j) 12)) k) ∧
      (∀ a, (∀ i j, i < m.rows → j < m.cols → a < key i j ∨ key i j + 12 ≤ a) → memGet t.mem a = memGet s.mem a) ∧
      t.me.mrun = none ∧ t.me.ctl.mspbad = BitVec.ofNat 32 (min (s.me.ctl.mspbad.toNat + m.illegal) 0xFFFFFFFF) ∧
      t.me.banks = s.me.banks ∧ t.me.r = s.me.r ∧ ∀ c, c ≠ s.focus → t.core c = s.core c

/-- 08 R222, R214, 12 R307: the bank commands check their whole range first; on their completion cycle, which the table gives, they change
every bank of it and no other: `MZERO` its entries, `MALLOC` ALLOC, MODE and HOLDER, `MFREE` ALLOC, `MHAND` HOLDER. -/
def Obligations.BankCommandsComplete : Prop :=
  (∀ (s : State) (ab : AbReg) (count : BitVec 6) (core : CoreId), Issues .m [] s →
    let b := ab.toNat
    let n := count.toNat
    let inside (j : Nat) : Prop := b ≤ j ∧ j < b + n
    let later (i : Instr) (busy : Nat) (bs : Tab Bank) (zero : Option (Nat × Nat)) : Prop :=
      Completes .m i s ((s.engineBusy busy).updMe fun c => { c with bankNext := some { at_ := c.mBusy, banks := bs, zero := zero } })
    let changes (i : Instr) (f : Bank → Bank) : Prop := ∃ bs : Tab Bank, later i 1 bs none ∧
      ∀ j, (inside j → bs.get j = f (s.me.banks.get j)) ∧ (¬ inside j → bs.get j = s.me.banks.get j)
    let allocd := ∀ j, inside j → s.isAlloc j
    let near := bits core 3 8 = bits s.focus 3 8 ∧ (bits core 3 5).toNat < 18
    EngineReady s b n →
    (32 < b + n → ∀ i ∈ ([.malloc ab count, .mzero ab count, .mfree ab count, .mhand ab count core] : List Instr),
      exec i s = .next (s.raise .m .accRange (ab.setWidth 64))) ∧
    (b + n ≤ 32 → ∀ j, inside j → (∀ h, b ≤ h → h < j → s.isAlloc h) → ¬ s.isAlloc j →
      ∀ i ∈ ([.mzero ab count, .mfree ab count, .mhand ab count core] : List Instr),
        exec i s = .next (s.raise .m .accUnalloc (BitVec.ofNat 64 j))) ∧
    (b + n ≤ 32 → ∀ j, inside j → (∀ h, b ≤ h → h < j → ¬ s.isAlloc h) → s.isAlloc j →
      exec (.malloc ab count) s = .next (s.raise .m .accRealloc (BitVec.ofNat 64 j))) ∧
    (b + n ≤ 32 → allocd → ¬ near → exec (.mhand ab count core) s = .next (s.raise .m .accBand (ab.setWidth 64))) ∧
    (b + n ≤ 32 → allocd → later (.mzero ab count) n s.me.banks (some (b, n)) ∧
      changes (.mfree ab count) (fun k => { k with alloc := false }) ∧
      (near → changes (.mhand ab count core) fun k => { k with holder := core })) ∧
    (b + n ≤ 32 → (∀ j, inside j → ¬ s.isAlloc j) →
      (∀ e, s.me.pendingM = .entry e →
        changes (.malloc ab count) fun _ => { alloc := true, i96 := mfI96 (s.me.mf.get e), holder := s.focus }) ∧
      (s.me.pendingM = .none ∨ s.me.pendingM = .unknown →
        changes (.malloc ab count) fun _ => { alloc := true, i96 := false, holder := s.focus }))) ∧
  ∀ (s : State) (k : BankNext), s.me.bankNext = some k →
    (s.now < k.at_ → s.bankSettle = s) ∧
    (k.at_ ≤ s.now → s.bankSettle.me = { s.me with banks := k.banks, bankNext := none } ∧
      (k.zero = none → SameMemory s s.bankSettle) ∧
      ∀ b n, k.zero = some (b, n) → ∀ a, memGet s.bankSettle.mem a =
        if keyAcc s.focus b 0 ≤ a ∧ a < keyAcc s.focus b 0 + 12288 * n then 0 else memGet s.mem a)

/-- 08 R223, R224: `MDRAIN`, `MLOAD` and `MFMT` whose checks at issue pass hand their walk to the copy engine, a drain with the
format of the last manifest; the first row that fails decides the cause. -/
def Obligations.MatrixMovesComplete : Prop :=
  ∀ (s : State) (ab : AbReg) (count : BitVec 6) (x : XdReg) (mf : MfReg) (sg : SgReg) (se : Bool), Issues .m [] s →
    let b := ab.toNat
    let n := count.toNat
    let d := s.rdXd x
    let pc := (s.lane .m).pc
    let allocd := ∀ j, j < n → s.isAlloc (b + j)
    let walk := d.shapeOk = true ∧ d.window = false
    (∀ m no, EngineReady s b n → s.me.lmf = some m → s.me.lmfNo = some no →
      let wd := drainBytes m
      let bytes := n * 1024 * wd
      let accepted := ∀ j, j < n → b + j < 32 → drainOk (s.me.banks.get (b + j)).i96 (mfDrain m) = true
      (¬ accepted → exec (.mdrain ab count x sg se) s = .next (s.raise .m .manifest (no.setWidth 64))) ∧
      (accepted → 32 < b + n → exec (.mdrain ab count x sg se) s = .next (s.raise .m .accRange (ab.setWidth 64))) ∧
      (accepted → b + n ≤ 32 → allocd → ∀ j, j < n → (∀ h, h < j → (s.me.banks.get (b + h)).holder = s.focus) →
        (s.me.banks.get (b + j)).holder ≠ s.focus →
        exec (.mdrain ab count x sg se) s = .next (s.raise .m .accBand (BitVec.ofNat 64 (b + j)))) ∧
      (accepted → b + n ≤ 32 → allocd → (∀ j, j < n → (s.me.banks.get (b + j)).holder = s.focus) → walk →
        (d.len.toNat < bytes → exec (.mdrain ab count x sg se) s = .next (s.raise .m .descEnd (x.setWidth 64))) ∧
        (0 < n → bytes ≤ d.len.toNat → XPasses s (d.spans 0 bytes) [] wd (d.spans 0 bytes) →
          Enqueues .m (.mdrain ab count x sg se) s (s.engineBusy (16 * n))
            { id := 0, kind := .drain b m, a := { d with len := BitVec.ofNat 32 bytes }, da := x,
              sg := if se then some sg else none, pc := pc, left := List.range (n * 128) }))) ∧
    (EngineReady s b n → b + n ≤ 32 → allocd → walk →
      (d.len.toNat < n * 12288 → exec (.mload ab count x) s = .next (s.raise .m .descEnd (x.setWidth 64))) ∧
      (0 < n → n * 12288 ≤ d.len.toNat → (∀ r ∈ d.spans 0 (n * 12288), bits r.1 48 16 ≠ 0xFF04) → XPasses s [] (d.spans 0 (n * 12288)) 1 [] →
        Enqueues .m (.mload ab count x) s s
          { id := 0, kind := .load b, a := d, da := x, pc := pc, left := List.range (n * 128) })) ∧
    (EngineReady s 0 0 → walk →
      (d.len.toNat < 16 → exec (.mfmt mf x) s = .next (s.raise .m .descEnd (x.setWidth 64))) ∧
      (16 ≤ d.len.toNat → XPasses s [] (d.spans 0 16) 1 [] →
        Enqueues .m (.mfmt mf x) s s { id := 0, kind := .fmt mf.toNat, a := d, da := x, pc := pc, left := [0] }))

/-- 08 R225, R234, 05 R128: `MLOOP` and `XLOOP` follow the pseudocode with their one record each; `MSTOP` ends its lane's section;
`MWAIT` and `XWAIT` wait for the earlier items of their engine, and report a lost one once.
08 R216, R444, R234: a feed is accepted while fewer than eight wait at its FIFO; with a pending manifest it takes its format
and moves the cursor over the bytes of its entries, with none it holds; `XSIG` waits in the queue behind the earlier items. -/
def Obligations.FeedAndControlWordsComplete : Prop :=
  (∀ (s : State) (n : BitVec 12) (off : BitVec 16) (m : BitVec 10) (xoff : BitVec 13),
     (Issues .m [] s →
       let a := (s.lane .m).pc
       let target := a + off.signExtend 32
       let goes (r : LoopRec) (mlc : Nat) : Prop :=
         Jumps .m (.mloop n off) s (s.updMe fun c => { c with mloop := some r, mlc := mlc }) target
       let other := ∀ r, s.me.mloop = some r → r.addr ≠ a
       (∀ r, s.me.mloop = some r → r.addr = a → r.rem = 1 →
         Completes .m (.mloop n off) s (s.updMe fun c => { c with mloop := none, mlc := 0 })) ∧
       (s.timed = false → target.toNat < s.me.clen .m →
         (∀ r, s.me.mloop = some r → r.addr = a → r.rem ≠ 1 → goes { r with rem := r.rem - 1 } (s.me.mlc + 1)) ∧
         (other → 1 < n.toNat → goes { addr := a, rem := n.toNat - 1 } 1)) ∧
       (other → n.toNat ≤ 1 → Completes .m (.mloop n off) s s) ∧
       Jumps .m .mstop s s (BitVec.ofNat 32 (s.me.clen .m)) ∧
       let idle := s.me.mrun = none ∧ s.me.bankNext = none ∧ s.me.mBusy ≤ s.now ∧ ∀ t ∈ s.me.xfers, t.ofM = false
       (idle → s.me.xfaults = [] → Completes .m .mwait s s) ∧
       (idle → ∀ tok rest, s.me.xfaults = tok :: rest → exec .mwait s =
         .next (((s.starts .m).updMe fun c => { c with xfaults := rest }).raise .m .xferFault (recordAddr (dieOf s.focus) tok))) ∧
       (¬ idle → Waits .m .mwait s s)) ∧
     (Issues .x [] s →
       let a := (s.lane .x).pc
       let target := a + xoff.signExtend 32
       let goes (r : LoopRec) : Prop := Jumps .x (.xloop m xoff) s (s.updMe fun c => { c with xloop := some r }) target
       let other := ∀ r, s.me.xloop = some r → r.addr ≠ a
       (∀ r, s.me.xloop = some r → r.addr = a → r.rem = 1 → Completes .x (.xloop m xoff) s (s.updMe fun c => { c with xloop := none })) ∧
       (target.toNat < s.me.clen .x →
         (∀ r, s.me.xloop = some r → r.addr = a → r.rem ≠ 1 → goes { r with rem := r.rem - 1 }) ∧
         (other → 1 < m.toNat → goes { addr := a, rem := m.toNat - 1 })) ∧
       (other → m.toNat ≤ 1 → Completes .x (.xloop m xoff) s s) ∧
       (s.me.beforeX s.fresh = false → s.me.xfaults = [] → Completes .x .xwait s s) ∧
       (s.me.beforeX s.fresh = false → ∀ tok rest, s.me.xfaults = tok :: rest → exec .xwait s =
         .next (((s.starts .x).updMe fun c => { c with xfaults := rest }).raise .x .xferFault (recordAddr (dieOf s.focus) tok))) ∧
       (s.me.beforeX s.fresh = true → Waits .x .xwait s s))) ∧
  (∀ (s : State) (x : XdReg) (n1 : BitVec 8) (sg : SgReg) (n : BitVec 8), Issues .x [] s →
     let d := s.rdXd x
     Enqueues .x (.xsig sg n) s s { id := 0, kind := .sig n.toNat, sg := some sg, dead := s.me.xLost } ∧
     ∀ (i : Instr) (fb : Bool), (i, fb) ∈ ([(.xfeeda x n1, false), (.xfeedb x n1, true)] : List (Instr × Bool)) →
       ((s.me.feeds.filter fun f => f.fifoB == fb).length < 8) → d.shapeOk = true → d.window = false →
       let adds (fmt : Option FeedFmt) (u : State → State) : Prop := ∃ t f, exec i s = .next t ∧ f.fifoB = fb ∧ f.xd = x ∧ f.d = d ∧
         f.left = n1.toNat + 1 ∧ f.fmt = fmt ∧ f.id = s.fresh ∧
         Leaves .x (s.nextPc .x) s (u (State.updMe { s with fresh := s.fresh + 1, openLats := t.openLats } fun c =>
           { c with feeds := s.me.feeds ++ [f] })) t
       (s.me.pendingM = .none ∨ s.me.pendingM = .unknown → adds none id) ∧
       ∀ e, s.me.pendingM = .entry e →
         let ft := feedFmt fb (s.me.mf.get e)
         let bytes := ft.uses fb (n1.toNat + 1)
         let rs := d.spans d.cur.toNat bytes
         fmtRow fb ft.code.toNat = true →
         (ft.ql4 fb = true → d.cur.toNat % ft.bytes fb = 0 ∧ (n1.toNat + 1) % 8 = 0) → s.me.xdWrote = [] →
         (d.len.toNat < d.cur.toNat + bytes → exec i s = .next (s.raise .x .descEnd (x.setWidth 64))) ∧
         (d.cur.toNat + bytes ≤ d.len.toNat →
           XPasses s [] rs (fmtBytes ft.code.toNat) (if ft.ql4 fb = true ∨ ft.code = 5 then [] else rs) →
           adds (some ft) fun u => u.updR fun r => { r with xd := r.xd.set x.toNat { d with cur := d.cur + BitVec.ofNat 32 bytes } }))

/-! ### X lane -/

/-- 08 R226-R233: a transfer whose checks at issue pass enters the queue with its latched descriptors, its walks checked in full, and a
copy of no byte completes at once; a malformed walk, a window walk and a length rule that is not met raise their causes. -/
def Obligations.TransfersComplete : Prop :=
  ∀ (s : State) (a b c : XdReg) (mc : McReg) (sg : SgReg) (se : Bool) (w : ZcWidth) (ty : EType), Issues .x [] s →
    s.me.queued < 16 →
    let A := s.rdXd a
    let B := s.rdXd b
    let C := s.rdXd c
    let n := B.len.toNat
    let band := decide (bits B.base 48 16 = 0xFF04)
    let out := if band then n / 3 else n
    let left := if band then List.range (n / 12) else A.units 0 n
    let walk (d : Desc) : Prop := d.shapeOk = true ∧ d.window = false
    let sig := if se then some sg else none
    let groups (k : Nat) : List Nat := List.range ((k + 63) / 64)
    let item (k : XKind) (l : List Nat) : Transfer := { id := 0, kind := k, a := A, b := B, da := a, db := b, sg := sig, left := l }
    let ew := 2 ^ w.code
    let dw := etBytes ty
    let row := A.len.toNat / (C.len.toNat / 4)
    let two : List Instr := [.xcopy a b sg se, .xhalo a b sg se, .xzce w a b sg se, .xzcd w a b sg se, .xdelta ty a b sg se]
    (A.shapeOk = false → ∀ i ∈ two, exec i s = .next (s.raise .x .descShape (a.setWidth 64))) ∧
    (A.shapeOk = true → B.shapeOk = true → A.window = true → ∀ i ∈ two, exec i s = .next (s.raise .x .descMode (a.setWidth 64))) ∧
    (walk A → walk B →
      (A.len.toNat < out → ∀ i ∈ ([.xcopy a b sg se, .xhalo a b sg se] : List Instr),
        exec i s = .next (s.raise .x .descEnd (a.setWidth 64))) ∧
      (left ≠ [] → out ≤ A.len.toNat → XPasses s (A.spans 0 A.len.toNat) (B.spans 0 n) 1 [] →
        Enqueues .x (.xcopy a b sg se) s s (item (if band then .band else .copy) left)) ∧
      (n = 0 → XPasses s (A.spans 0 A.len.toNat) [] 1 [] → s.me.vfencing = none → (∀ t ∈ s.me.xfers, t.id ≠ s.fresh) →
        Completes .x (.xcopy a b sg false) s { s with fresh := s.fresh + 1 }) ∧
      (∀ dst cross, left ≠ [] → out ≤ A.len.toNat → XPasses s (A.spans 0 A.len.toNat) (B.spans 0 n) 1 [] →
        haloTarget A (pieces4 true (A.spans 0 A.len.toNat)) (s.starts .x) = .ok (dst, cross) →
        Enqueues .x (.xhalo a b sg se) s s (item (.halo band dst cross) left)) ∧
      (n % ew ≠ 0 → ∀ i ∈ ([.xzce w a b sg se, .xzcd w a b sg se] : List Instr),
        exec i s = .next (s.raise .x .descShape (b.setWidth 64))) ∧
      (n % ew = 0 → A.len.toNat % ew ≠ 0 → ∀ i ∈ ([.xzce w a b sg se, .xzcd w a b sg se] : List Instr),
        exec i s = .next (s.raise .x .descShape (a.setWidth 64))) ∧
      (0 < n → n % ew = 0 → A.len.toNat % ew = 0 → XPasses s (A.spans 0 A.len.toNat) (B.spans 0 n) ew (B.spans 0 n) →
        Enqueues .x (.xzce w a b sg se) s s (item (.zce ew) (groups (n / ew)))) ∧
      (0 < A.len.toNat → n % ew = 0 → A.len.toNat % ew = 0 →
        XPasses s (A.spans 0 A.len.toNat) (B.spans 0 n) ew (A.spans 0 A.len.toNat) →
        Enqueues .x (.xzcd w a b sg se) s s (item (.zcd ew) (groups (A.len.toNat / ew)))) ∧
      (n + 4 = A.len.toNat → n % dw = 0 → (∀ r ∈ A.spans n 4, r.1.toNat % 4 = 0 ∧ r.2 % 4 = 0) →
        XPasses s (A.spans n 4) (A.spans 0 n ++ B.spans 0 n) dw (A.spans 0 n ++ B.spans 0 n) →
        Enqueues .x (.xdelta ty a b sg se) s s (item (.delta ty) [0])) ∧
      (walk C → 0 < C.len.toNat → C.len.toNat % 4 = 0 → A.len.toNat % (C.len.toNat / 4) = 0 → 0 < row →
        XPasses s (A.spans 0 A.len.toNat) (B.spans 0 n ++ C.spans 0 C.len.toNat) 4 (C.spans 0 C.len.toNat) →
        Enqueues .x (.xgather a b c sg se) s s
          { item .gather (A.units row A.len.toNat) with c := C, cnt := c.toNat })) ∧
    (walk B → 0 < n →
      let set := (s.boxes.get s.me.ctl.vfid).mc.get mc.toNat
      let slot := (bits set 1152 16).toNat
      let members := (List.range 8).filter fun k => set.getLsbD (denseOf (peerOf s.focus k))
      let at_ (k : Nat) : Nat := (s.core (peerOf s.focus k)).ctl.pbReg + 4096 * slot
      (members ≠ [] → (∀ k ∈ members, at_ k + n ≤ (s.core (peerOf s.focus k)).ctl.pbSpad) →
       XPasses s (members.map fun k => (peerSpad k (at_ k), n)) (B.spans 0 n) 1 [] →
        Enqueues .x (.xmcast mc b sg se) s s
          { id := 0, kind := .mcast members slot ((bits set 1168 8).toNat % 64), b := B, db := b, sg := sig,
            left := List.range (members.length * ((n + 31) / 32)) }) ∧
      ∀ k ∈ members, (∀ j ∈ members, j < k → at_ j + n ≤ (s.core (peerOf s.focus j)).ctl.pbSpad) →
        (s.core (peerOf s.focus k)).ctl.pbSpad < at_ k + n →
        exec (.xmcast mc b sg se) s = .next (s.raise .x .aperture (peerSpad k (at_ k))))

/-! ### Signal Box -/

/-- 10 R265: the bytes of a burst that reach a member whose range fits and whose slots are all owned by `sbox` are written
there, and its signal gets one addition; another member is skipped with one record, which a full ring holds back (19 R406), and no byte
and no signal changes. In the agenda's mode the members of a burst are served one event at a time. -/
def Obligations.BurstsReachTheirMembers : Prop :=
  ∀ (s : State) (n : Nat) (b : Burst), s.arg.n = n → (s.boxes.get n).bursts[s.arg.m]? = some b → denseOf s.arg.core ∈ b.members →
    let c := coreOfDense (denseOf s.arg.core)
    let off := (s.core c).ctl.pbReg + 4096 * (bits b.set 1152 16).toNat
    let len := b.bytes.length
    let pieces := List.range ((len + 4095) / 4096)
    let sg := (bits b.set 1168 8).toNat
    let adds := if ((s.core c).sigs.get sg).byteMode then len else 1
    let ring := s.die (dieOf c)
    let fits := off + len ≤ (s.core c).ctl.pbSpad
    let owned := ∀ i ∈ pieces, (s.core c).slotOwner (off + 4096 * i) = .sbox
    let skipped (why : Cause) : Prop := ∃ t r, exec .burstMemberDone s = .next t ∧ SameMemory s t ∧ t.cores = s.cores ∧
      r.cause = why ∧ r.ctx = n ∧ r.offset = 0 ∧ r.addr = BitVec.ofNat 64 (c.toNat * 2 ^ 48 + off) ∧
      (ring.heldRecords = [] → ring.records.length < 256 → (t.die (dieOf c)).records = ring.records ++ [r]) ∧
      (256 ≤ ring.records.length → (t.die (dieOf c)).records = ring.records ∧
        (t.die (dieOf c)).heldRecords = ring.heldRecords ++ [r])
    (fits → owned → ∃ t, exec .burstMemberDone s = .next t ∧
      (∀ i (h : i < len), memGet t.mem (keyPool c off + i) = b.bytes[i]) ∧
      (∀ a, a < keyPool c off ∨ keyPool c off + len ≤ a → memGet t.mem a = memGet s.mem a) ∧
      (s.eager = true → (t.core c).pendSig = (s.core c).pendSig ++ [{ sg := sg, amount := adds, src := noCore, tick := s.pkg.ticks }] ∧
        (t.core c).sigs = (s.core c).sigs) ∧
      (s.eager = false → (t.core c).pendSig = (s.core c).pendSig ∧
        (t.core c).sigs = (s.core c).sigs.upd sg fun g => g.add adds) ∧
      ∀ d, d ≠ c → t.core d = s.core d) ∧
    (¬ fits → skipped .aperture) ∧
    (fits → ¬ owned → skipped .ownerViolation)

/-- 10 R266, R268, R270-R272: the program words of the context that the Signal Box runs. A word completes, and its context goes
on, or waits at it, or stops in FAULT with its cause and a completion record. -/
def Obligations.SignalBoxWordsComplete : Prop :=
  ∀ (s : State) (mc : McReg) (units : BitVec 21) (src addr table : BitVec 64) (v : BitVec 32) (n : BitVec 11) (off : BitVec 16)
    (core : CoreId) (sg : SgReg) (t : BitVec 10) (e : BitVec 12) (peer : Bool) (pkg : BitVec 9) (cnt : BitVec 13) (far : BitVec 27),
    let me := s.boxFocus
    let c := s.boxes.get me
    let goes (i : Instr) (u : State) (pc : BitVec 32) (st : BoxState) : Prop :=
      exec i s = .next (u.updBox me fun k => BoxCtx.ends { k with pc := pc } st)
    let ends (i : Instr) (len : BitVec 32) (u : State) : Prop := goes i u (c.pc + len) .run
    let stops (i : Instr) (x : Cause) : Prop :=
      exec i s = .next ((s.updBox me fun k => k.fault x).complete me 1 2 x.code 0 me 0 0)
    let waits (i : Instr) : Prop := exec i s = .next (s.updBox me fun k => { k with st := .wait })
    let set := c.mc.get mc.toNat
    let valid := bits set 1176 104 = 0 ∧ (bits set 1152 16).toNat ≤ 191 ∧ (bits set 1168 8).toNat ≤ 63
    let members := (List.range 1152).filter fun i => set.getLsbD i
    let loops (l : List LoopRec) : State := s.updBox me fun k => { k with loops := l }
    let x := s.experts.get e.toNat
    -- a burst with bytes `bs` from the state `u` on
    let bursts (i : Instr) (len : BitVec 32) (u : State) (bs : List Byte) : Prop :=
      let b : Burst := { set := set, bytes := bs, members := members }
      (u.eager = true → ends i len (members.foldl (fun s m => s.burstTo me b m) u)) ∧
      (u.eager = false → ends i len (u.updBox me fun k => { k with bursts := k.bursts ++ [b] }))
    (8 ≤ c.bursts.length → waits (.sburst mc units src) ∧ waits (.sexpert e mc)) ∧
    (c.bursts.length < 8 →
      (src.toNat % 64 ≠ 0 → stops (.sburst mc units src) .misalign) ∧
      (src.toNat % 64 = 0 → boxWindow s src = false → stops (.sburst mc units src) .aperture) ∧
      (src.toNat % 64 = 0 → boxWindow s src = true → ¬ valid → stops (.sburst mc units src) .reservedField) ∧
      (∀ bs u, src.toNat % 64 = 0 → boxWindow s src = true → valid → boxRead s me src (64 * units.toNat) = .ok (bs, u) →
        bursts (.sburst mc units src) 3 u bs) ∧
      (¬ valid → stops (.sexpert e mc) .reservedField) ∧
      (valid → ∀ bs u,
        (if x.st = 2 then x.base.toNat % 64 = 0 ∧ x.len.toNat % 64 = 0 ∧ boxWindow s x.base = true ∧ boxRead s me x.base x.len.toNat = .ok (bs, u)
         else bs = [] ∧ u = s) →
        bursts (.sexpert e mc) 1 u (toBytes 4 e.toNat ++ toBytes 2 x.st.toNat ++ toBytes 2 x.peer.toNat ++
          toBytes 8 (if x.st = 2 then x.len.toNat else 0) ++ toBytes 8 x.wring.toNat ++ List.replicate 40 0 ++ bs)) ∧
      (valid → x.st = 2 → x.base.toNat % 64 = 0 ∧ x.len.toNat % 64 = 0 → boxWindow s x.base = false → stops (.sexpert e mc) .aperture) ∧
      (valid → x.st = 2 → x.base.toNat % 64 ≠ 0 ∨ x.len.toNat % 64 ≠ 0 → stops (.sexpert e mc) .misalign)) ∧
    (c.bursts ≠ [] → waits (.swrite addr v) ∧ waits (.ssig core sg t) ∧ waits .shalt) ∧
    (c.bursts = [] →
      (addr.toNat % 4 ≠ 0 → stops (.swrite addr v) .misalign) ∧
      (∀ u, addr.toNat % 4 = 0 → boxWrite s me addr (toBytes 4 v.toNat) = .ok u → ends (.swrite addr v) 4 u) ∧
      (coreOk core = true → ends (.ssig core sg t) 1 (s.updCore core fun k =>
        { k with pendSig := k.pendSig ++ [{ sg := sg.toNat, amount := t.toNat, src := noCore, tick := s.pkg.ticks }] })) ∧
      (coreOk core = false → stops (.ssig core sg t) .aperture) ∧
      goes .shalt (s.complete me 1 0 0 0 me 0 0) (c.pc + 1) .idle) ∧
    (∀ below r above, c.loops = below ++ r :: above → r.addr = c.pc → (∀ q ∈ below, q.addr ≠ c.pc) →
      (r.rem = 1 → ends (.sloop n off) 1 (loops below)) ∧
      (r.rem ≠ 1 → goes (.sloop n off) (loops (below ++ [{ r with rem := r.rem - 1 }])) (c.pc + off.signExtend 32) .run)) ∧
    ((∀ q ∈ c.loops, q.addr ≠ c.pc) →
      (n.toNat ≤ 1 → ends (.sloop n off) 1 s) ∧
      (1 < n.toNat → c.loops.length ≠ 4 →
        goes (.sloop n off) (loops (c.loops ++ [{ addr := c.pc, rem := n.toNat - 1 }])) (c.pc + off.signExtend 32) .run) ∧
      (1 < n.toNat → c.loops.length = 4 → stops (.sloop n off) .sboxLoop)) ∧
    (coreOk core = false → stops (.swait core sg t) .aperture) ∧
    (coreOk core = true →
      let s' : State := if s.eager then s.updCore core fun k => k.applySigAll sg.toNat else s
      let g := (s'.core core).sigs.get sg.toNat
      (g.byteMode = true → stops (.swait core sg t) .sigMode) ∧
      (g.byteMode = false → t.toNat ≤ g.value.toNat → ends (.swait core sg t) 1
        (s'.updCore core fun k => { k with sigs := k.sigs.set sg.toNat { g with value := g.value - t.setWidth 32 } })) ∧
      (g.byteMode = false → g.value.toNat < t.toNat → waits (.swait core sg t))) ∧
    (peer = true → pkg = s.pkg.pkgid → stops (.sfetch e peer pkg) .reservedField) ∧
    (peer = false ∨ pkg ≠ s.pkg.pkgid →
      (x.st = 1 ∨ x.st = 2 → ends (.sfetch e peer pkg) 1 s) ∧
      (x.st ≠ 1 → x.st ≠ 2 → s.eager = false ∨ peer = true → ends (.sfetch e peer pkg) 1
        ((s.updExpert e.toNat fun y => { y with st := 1, prev := x.st, src := if peer then some pkg else none, by_ := me }).updBox me
          fun k => { k with fetches := k.fetches ++ [e.toNat] }))) ∧
    (∀ u, table.toNat % 8 = 0 → bits table 56 8 ≠ 0xFF →
      let es := (List.range cnt.toNat).map (e.toNat + ·)
      boxWrite s me table (es.flatMap fun k => toBytes 8 (s.experts.get k).use.toNat) = .ok u →
      ∃ w : State, ends (.scount e cnt table) 3 w ∧ { w with experts := u.experts } = u ∧
        ∀ k, w.experts.get k = if k ∈ es then { u.experts.get k with use := 0 } else u.experts.get k) ∧
    goes (.sjump far) s (c.pc + far.signExtend 32) .run ∧
    goes .spark s (c.pc + 1) (if c.fetches = [] then .run else .parked)

/-! ### Events -/

/-- 13 R313: the moves of the ordering machine, as events of the core in focus. `READ` and `WRITE` take the oldest access of
their kind out of a lane's queue; `FETCH`, `EXCL`, `EVICT`, `DRAIN` and `WB` move the copies of a line; `MARK` completes a
release; `VERT` and `HORZ` perform the oldest write of a path; `SIG` applies the oldest addition to a signal, with those of its cycle as one sum;
`ENG` makes one access of an item, and `DONE` ends one whose units are all performed. -/
def Obligations.OrderingMovesComplete : Prop :=
  ∀ s : State,
    let n := s.arg.n
    let cl := clusterOf s.focus
    let queue (u : State) : List Acc := u.me.lq.get (laneIdx s.arg.lane)
    let merged (l : L1Line) : List Byte :=
      mergeBytes (match s.l2 cl n with | some k => k.data | none => s.homeLine n) l.data l.dirty
    (∀ pre a post, queue s = pre ++ a :: post →
      (a.isWrite = false → (∀ b ∈ pre, b.isWrite = true) → passes s.me.barrier a.at_ = true → a.place = .scratch → Sound s →
        ∃ t, exec .evRead s = .next t ∧ queue t = pre ++ post ∧ SameMemory s t ∧ ∀ d, a.dest = .sreg d false → d ≠ 0 →
          t.me.r.s.get d.toNat = if (s.me.r.ready.get (kS d)).isSome then s.me.r.s.get d.toNat
            else BitVec.ofNat 64 (leBytes (overlay pre a.key (s.bytes a.key a.n)))) ∧
      (a.isWrite = true → (∀ b ∈ pre, b.isWrite = false ∧ (a.key + a.n ≤ b.key ∨ b.key + b.n ≤ a.key)) →
        passes s.me.barrier a.at_ = true → a.place = .scratch →
        ∃ t, exec .evWrite s = .next t ∧ queue t = pre ++ post ∧
          (∀ i (h : i < a.data.length), memGet t.mem (a.key + i) = a.data[i]) ∧
          ∀ y, y < a.key ∨ a.key + a.data.length ≤ y → memGet t.mem y = memGet s.mem y)) ∧
    ((∀ a ∈ queue s, a.isWrite = true) → exec .evRead s = .next s) ∧ ((∀ a ∈ queue s, a.isWrite = false) → exec .evWrite s = .next s) ∧
    (s.me.needsLine n = false → exec .evFetch s = .next s) ∧
    ((∀ h, s.prog .s ≠ .owning (some n) h) → exec .evExcl s = .next s) ∧
    (s.me.ways ≠ 0 → s.me.l1.rows = [] → s.me.l1.dflt = none → s.owner.get n = none → lineLocal n = true →
      ∀ k, s.l2 cl n = some k → k.dirty = cleanMask →
        (s.me.needsLine n = true → ∃ t, exec .evFetch s = .next t ∧ SameMemory s t ∧ t.clusters = s.clusters ∧
          t.l1 s.focus n = some { ex := false, data := k.data, dirty := cleanMask, ver := k.ver }) ∧
        ∀ h, s.prog .s = .owning (some n) h →
          ∃ t, exec .evExcl s = .next t ∧ SameMemory s t ∧ t.clusters = s.clusters ∧ t.owner.get n = some s.focus.toNat ∧
            t.l1 s.focus n = some { ex := true, data := k.data, dirty := cleanMask, ver := k.ver }) ∧
    (∀ l, s.l1 s.focus n = some l →
      (l.ex = true → exec .evEvict s = .next s) ∧
      (l.ex = false → isDirty l.dirty = false → ∃ t, exec .evEvict s = .next t ∧ t.l1 s.focus n = none ∧ SameMemory s t ∧
        t.clusters = s.clusters ∧ ∀ i ∈ t.me.fifo, i ≠ .line n) ∧
      (isDirty l.dirty = true → lineLocal n = true →
        (l.ex = false → ∃ t k, exec .evEvict s = .next t ∧ t.l1 s.focus n = none ∧ SameMemory s t ∧ t.l2 cl n = some k ∧
          k.data = merged l) ∧
        (∀ rest, s.me.fifo = .line n :: rest → ∃ t k, exec .evDrain s = .next t ∧ SameMemory s t ∧ t.l2 cl n = some k ∧
          k.data = merged l ∧ (∃ o, t.l1 s.focus n = some o ∧ o.dirty = cleanMask ∧ o.data = l.data) ∧
          ∀ i ∈ t.me.fifo, i ≠ .line n))) ∧
    (∀ k, s.l2 n s.arg.m = some k →
      (isDirty k.dirty = false → exec .evWb s = .next s) ∧
      (isDirty k.dirty = true → k.data.length = 128 → k.dirty.length = 128 → ∃ t, exec .evWb s = .next t ∧
        t.homeLine s.arg.m = mergeBytes (s.homeLine s.arg.m) k.data k.dirty ∧
        (∀ a, a / 128 ≠ s.arg.m → memGet t.mem a = memGet s.mem a) ∧ t.l2 n s.arg.m = some { k with dirty := cleanMask })) ∧
    (∀ id sc rest, s.me.fifo = .mark id sc :: rest → sc = .core ∨ sc = .cluster →
      exec .evMark s = .next (s.updMe fun c => { c with fifo := rest, marked := id :: c.marked })) ∧
    (∀ id sc rest, s.me.fifo = .mark id sc :: rest → sc = .package ∨ sc = .domain →
      (∀ m ∈ s.me.drained, ∀ k, s.l2 cl m = some k → isDirty k.dirty = false) →
      exec .evMark s = .next (s.updMe fun c => { c with fifo := rest, marked := id :: c.marked, drained := [] })) ∧
    (s.me.far = none → exec .evFar s = .next s) ∧
    (∀ r old t, s.me.far = some r → farDone r s = .ok (old, t) →
      exec .evFar s = .next ((t.updMe fun c => { c with far := none }).setProg .s (.result (BitVec.ofNat 64 old)))) ∧
    (∀ w rest, s.me.vpath = w :: rest → ∃ t, exec .evVert s = .next t ∧ t.me.vpath = rest ∧
      (∀ i (h : i < w.2.1.length), memGet t.mem (w.1 + i) = w.2.1[i]) ∧
      ∀ y, y < w.1 ∨ w.1 + w.2.1.length ≤ y → memGet t.mem y = memGet s.mem y) ∧
    (∀ w rest, s.me.hpath.get s.arg.core2.toNat = w :: rest → ∃ t, exec .evHorz s = .next t ∧
      t.me.hpath.get s.arg.core2.toNat = rest ∧ (∀ i (h : i < w.2.length), memGet t.mem (w.1 + i) = w.2[i]) ∧
      ∀ y, y < w.1 ∨ w.1 + w.2.length ≤ y → memGet t.mem y = memGet s.mem y) ∧
    (∀ old, (s.me.pendSig.find? fun p => p.sg == n) = some old →
      let now (p : SigAdd) : Bool := p.sg == n && p.tick == old.tick
      exec .evSig s = .next (s.updMe fun c =>
       { c with sigs := c.sigs.upd n fun g => g.add ((s.me.pendSig.filter now).foldl (fun t p => t + p.amount) 0),
                pendSig := c.pendSig.filter fun p => !now p })) ∧
    ((∀ p ∈ s.me.pendSig, p.sg ≠ n) → exec .evSig s = .next (s.updMe id)) ∧
    (∀ t, (s.me.xfers.find? fun t => t.id == n) = some t →
      (t.st = .active → s.me.runs t = true → t.mayDo s.arg.m = true → exec .evEng s = .next (s.doUnit t s.arg.m)) ∧
      (t.st = .active → t.left = [] → passes s.me.vfencing t.iss = true → ∀ g, t.kind = .copy → t.sg = some g →
        let adds := if (s.me.sigs.get g.toNat).byteMode then t.wrote else 1
        ∃ u, exec .evDone s = .next u ∧ u.me.xfers = s.me.xfers.filter (fun x => x.id != n) ∧
          (s.eager = true → u.me.pendSig = s.me.pendSig ++ [{ sg := g.toNat, amount := adds, src := s.focus.toNat, tick := s.pkg.ticks }] ∧
            u.me.sigs = s.me.sigs) ∧
          (s.eager = false → u.me.pendSig = s.me.pendSig ∧ u.me.sigs = s.me.sigs.upd g.toNat fun k => k.add adds)) ∧
      (t.left ≠ [] → exec .evDone s = .next s))

/-- 02 R36, R49, 05 R127, R138, 08 R216, R444, 15 R359-R361, 19 R404, R405, R407, R408, R410, R412, 20 R422, 21 R430, R435: the
events of a core and its engines. -/
def Obligations.CoreEventsComplete : Prop :=
  ∀ s : State,
    let n := s.arg.n
    let v : Word := bits s.arg.value 0 64
    let l := s.arg.lane
    (∀ p, s.groupPulse = some p → p ≤ s.now → (∃ k, s.me.inGroup k = true) →
      exec .syncGroup s = .next (s.updMe fun c => { c with released := true })) ∧
    (s.groupPulse = none → exec .syncGroup s = .next s) ∧
    ((∀ i, (s.lane l).pc.toNat ≤ i → i < s.me.clen l → (s.lane l).buf.get i ≠ none) → exec .codeFetch s = .next s) ∧
    (∀ i t, (s.lane l).pc.toNat ≤ i → i < s.me.clen l → (∀ j, (s.lane l).pc.toNat ≤ j → j < i → (s.lane l).buf.get j ≠ none) →
      (s.lane l).buf.get i = none → ensureCode l i s = .ok t → exec .codeFetch s = .next t) ∧
    (∀ pre e post, s.me.q.get n = pre ++ e :: post → (∀ x ∈ pre, x.filled = true ∨ x.left ≠ 0) → e.filled = false → e.left = 0 →
      exec .qldFill s = .next (s.updMe fun c => { c with q := c.q.set n (pre ++ { e with filled := true, ready := s.now } :: post) })) ∧
    (s.me.feeds = [] → exec .feedEntryPush s = .next s ∧ exec .manifestResolve s = .next s) ∧
    (∀ f t g u, (s.me.feeds.find? fun f => f.fifoB == s.arg.flag) = some f → f.fmt = some t → f.st = .active →
      (s.me.fifo_ s.arg.flag).length < 64 → f.due s ≤ s.now → Feed.readAll t ((f.reqs t).length - f.part.reads) f s = .ok (g, u) →
      ∃ x, exec .feedEntryPush s = .next x ∧ x.me.fifo_ s.arg.flag = u.me.fifo_ s.arg.flag ++
          [{ tag := BitVec.ofNat 5 (t.code.toNat + boolNat t.sparse * 16), data := (g.entry t).1, lost := (g.entry t).2, ready := s.now }] ∧
        x.me.fifo_ (!s.arg.flag) = u.me.fifo_ (!s.arg.flag) ∧ (f.left = 1 → ∀ h ∈ x.me.feeds, h.id ≠ f.id)) ∧
    (∀ f e u, s.me.feeds = [f] → f.fmt = none → f.st = .active → s.pending = (.entry e, u) →
      exec .manifestResolve s = .next (u.settleFeed e f.id) ∧
      let t := feedFmt f.fifoB (u.me.mf.get e)
      (u.me.feeds = [f] → fmtRow f.fifoB t.code.toNat = true → feedCheck f.fifoB f.xd f.d t f.left u = .ok () →
        (u.settleFeed e f.id).me.feeds = [{ f with fmt := some t }])) ∧
    (exec .matrixGate s = .next (s.gateIdle s.focus)) ∧
    (∀ p, s.me.matGate = .waking p →
      exec .matrixWakeDone s = .next (s.updMe fun c => { c with matGate := if p ≤ s.now then .awake else .waking p })) ∧
    ((s.me.tiles.get (n % 8)).cfg = false ∨ (s.me.tiles.get (n % 8)).resid = true → exec .tileRestore s = .next s) ∧
    (∀ t, (s.me.tiles.get (n % 8)).cfg = true → (s.me.tiles.get (n % 8)).resid = false → restoreTile (n % 8) s = .ok t →
      exec .tileRestore s = .next t ∧ (t.me.tiles.get (n % 8)).resid = true ∧ (t.me.tiles.get (n % 8)).cfg = true) ∧
    ((s.clusters.get n).turn.queue = [] → exec .turntableCommand s = .next s) ∧
    (∀ c rest b, (s.clusters.get n).turn.queue = c :: rest → c.op = .bind b → ∀ p, s.turnDue n = some (c, p) → p ≤ s.pulses n →
      ∃ t, exec .turntableCommand s = .next t ∧ (t.clusters.get n).turn.bound = some b ∧ (t.clusters.get n).turn.failed = none ∧
        (t.clusters.get n).turn.map = b.canonical ∧ (t.clusters.get n).turn.queue = rest.filter fun q => q.num != c.num) ∧
    (let u := s.updMe fun c => { c with lampIn := [] }
     (s.me.lampIn = [] → exec .lampArrive s = .next u) ∧
     ∀ m, s.me.lampIn = [m] →
       (s.me.inLamp m.id = true → exec .lampArrive s = .next (u.updMe fun c =>
         { c with lamp := { c.lamp with hold := true, lb := m.lb, ls := m.ls } })) ∧
       (s.me.inLamp m.id = false →
         ((s.me.lampPast.find? fun p => p.id == m.id) = none → exec .lampArrive s = .next (u.updMe fun c => { c with lampIn := [m] })) ∧
         ∀ p, (s.me.lampPast.find? fun p => p.id == m.id) = some p →
           ((∀ r ∈ u.cores.rows, r.2.inLamp m.id = false) → exec .lampArrive s = .next u) ∧
           ((∃ r ∈ u.cores.rows, r.2.inLamp m.id = true) →
             let (l, lb, ls) := { p.lamp with hold := true, lb := m.lb, ls := m.ls }.send
             exec .lampArrive s = .next ((u.updMe fun c =>
               { c with lampPast := { p with lamp := l } :: s.me.lampPast.filter fun q => q.id != m.id }).passLamp s.focus m.id m.to_ lb ls)))) ∧
    ((s.clusters.get n).clk.ramp = none → exec .setdivRampEnd s = .next s) ∧
    (∀ r e d, (s.clusters.get n).clk.ramp = some r → r ≤ s.pkg.ticks → (s.clusters.get n).clk.target = some (e, d) →
      ((s.clusters.get n).clk.held = [] → ∃ t, exec .setdivRampEnd s = .next t ∧ (t.clusters.get n).clk.ramp = none ∧
        (t.clusters.get n).clk.divOf e = d) ∧
      ∀ h c e' d', (s.clusters.get n).clk.held = h ++ [(c, e', d')] → ∃ t, exec .setdivRampEnd s = .next t ∧
        (t.clusters.get n).clk.divOf e = d ∧ (t.clusters.get n).clk.target = some (e', d') ∧ (t.clusters.get n).clk.held = [] ∧
        ∃ q, (t.clusters.get n).clk.ramp = some q ∧ s.pkg.ticks < q) ∧
    (exec .ringLink s = .next (s.updMe fun c => { c with rings := c.rings.upd (n % 16) Ring.link })) ∧
    (s.saveReady s.focus = false → exec .contextSave s = .next s) ∧
    (s.saveReady s.focus = true → exec .contextSave s = .next s.saveNow) ∧
    (s.me.mode ≠ .idle → v.toNat % 4096 = 0 → exec .preemptRequest s = .next (s.updMe fun c => { c with preempt := some v })) ∧
    (exec .preemptWithdraw s = .next (s.updMe fun c => { c with preempt := none })) ∧
    (s.me.mode = .idle → exec .debug s = .next s) ∧
    (s.me.mode ≠ .idle → let u := s.updMe fun c => { c with debug := true }
      (s.me.mode ≠ .running ∨ s.timed = true → exec .debug s = .next u) ∧
      (s.me.mode = .running → s.timed = false → exec .debug s = .next ((u.updMe fun c => { c with debug := false }).takeTrap .s .debug 0))) ∧
    (s.me.reported = false → exec .resume s = .next s ∧ exec .end_ s = .next s ∧ exec .save s = .next s) ∧
    (s.me.reported = true →
      (∃ t, exec .resume s = .next t ∧ t.me.mode = .running ∧ t.me.report = none ∧ t.me.r = s.me.r ∧
        ∀ k, (t.lane k).pc = (s.me.ctl.epc.get (laneIdx k)).setWidth 32 ∧ (t.lane k).waiting = false) ∧
      (∀ c x, s.me.report = some (c, x) → exec .end_ s = .next (s.endTask s.focus (some c.code))) ∧
      (v.toNat % 4096 = 0 → ∃ t, exec .save s = .next t ∧ t.me.mode = .saving ∧ t.me.saveAt = v ∧ t.me.report = none)) ∧
    (s.waiting s.arg.flag n = none → exec .retry s = .next s ∧ exec .abandon s = .next s) ∧
    (∀ t, s.waiting s.arg.flag n = some (s.focus, .inl t) →
      (exec .retry s = .next (s.updXfer t.id fun x => { x with st := .active, at_ := s.now })) ∧
      ∃ u, exec .abandon s = .next u ∧ (∀ x ∈ u.me.xfers, x.id ≠ t.id) ∧ u.me.xfaults = s.me.xfaults ++ [n]) ∧
    (s.me.mode = .idle ∨ s.me.mode = .stopped →
      let m : MacroEntry := { valid := (bits s.arg.value 39 1 : BitVec 1) = 1, last := (bits s.arg.value 38 1 : BitVec 1) = 1,
                              selb := bits s.arg.value 36 2, sela := bits s.arg.value 34 2, seld := bits s.arg.value 32 2,
                              word := bits s.arg.value 0 32 }
      exec .macroStoreWrite s = .next (s.updMe fun c => { c with macros := c.macros.set (n % 1024) m }) ∧
      exec .ringConfigWrite s = .next (s.updMe fun c => { c with rings := c.rings.upd (n % 16 % 16) fun r => (r.configure v s.arg.bytes).link })) ∧
    (s.me.mode = .running → (∃ w, exec .macroStoreWrite s = .next (s.updMe fun c => { c with late := c.late ++ [w] })) ∧
      let u := if v.getLsbD 46 then s.updMe fun c => { c with rings := c.rings.upd (n % 16) fun r => r.request (bits v 47 8) } else s
      exec .ringConfigWrite s = .next (u.updMe fun c =>
        { c with late := c.late ++ [.ring (n % 16) (v &&& ~~~(0x400000000000 : Word)) s.arg.bytes] })) ∧
    (s.ptime / 1000 ≤ s.pkg.usGrant → exec .powerGrant s = .next s) ∧
    (s.pkg.usGrant < s.ptime / 1000 → (∀ r ∈ s.clusters.rows, r.2.pend = []) →
      exec .powerGrant s = .next (s.updPkg fun p => { p with usGrant := s.ptime / 1000 }))

/-- 15 R343-R363, 10 R261, R270, R271, 11 R293-R297, R304, 17 R387-R389, 21 R437, R438: the events of tasks, of the Timetable,
of the host, of the Signal Box's control, of the migration engine and of the collective units. -/
def Obligations.TaskEventsComplete : Prop :=
  ∀ s : State,
    let n := s.arg.n
    let v : Word := bits s.arg.value 0 64
    let d := boolNat s.arg.flag
    let rec_ : BitVec 128 := bits s.arg.value 0 128
    let entry := (s.die d).tasks.get (bits rec_ 0 16).toNat
    let vf := s.vfs.get n
    let box := s.boxes.get n
    let becomes (i : Instr) (b : BoxCtx) : Prop := exec i s = .next { s with boxes := s.boxes.set n b }
    let x := s.experts.get n
    (entry.st = .expanded → bindOk d rec_ = true → s.bindHasShape d rec_ = .ok true →
      (∀ c ∈ bindCores rec_, ((s.die d).slots.get c.toNat).length < 4) →
      ∃ t, exec .bindRecordWrite s = .next t ∧ ((t.die d).tasks.get (bits rec_ 0 16).toNat) = { entry with st := .bound } ∧
        ((bindCores rec_).Nodup → ∀ c ∈ bindCores rec_, (t.die d).slots.get c.toNat = (s.die d).slots.get c.toNat ++ [rec_])) ∧
    ((s.die (dieOf s.focus)).slots.get s.focus.toNat = [] → exec .dispatch s = .next s) ∧
    (∀ r rest, (s.die (dieOf s.focus)).slots.get s.focus.toNat = r :: rest → s.dispatchSet (dieOf s.focus) r = [] →
      ∃ t, exec .dispatch s = .next t ∧ t.cores = s.cores ∧ t.mem = s.mem) ∧
    (s.pkg.mode ≠ 1 ∨ (s.die d).nextLaunch = none → exec .launch s = .next s) ∧
    (∀ r rest, (s.die (dieOf s.focus)).slots.get s.focus.toNat = r :: rest → s.dispatchSet (dieOf s.focus) r = [r] →
      let k := dieOf s.focus
      let u := (s.updDie k fun y => { y with slots := (bindCores r).foldl (fun t c => t.upd c.toNat fun q => q.drop 1) y.slots }).take
      let lamp := execDispatch.coresIn (bindCores r)
      exec .dispatch s = .next (u.2.enterTask k r lamp (u.1 + 1) s.arg.value.toNat s.arg.m s.arg.bytes) ∧
      ∀ g e w, u.2.graph k ((u.2.die k).tasks.get (bindTask r)).vf = some g → bindCtx r = 0 →
        ((u.2.die k).tasks.get (bindTask r)).lamp = 0 →
        readEntry k (bindTask r) (bindShape r) (bindFirst r) lamp (u.1 + 1) g u.2 = .ok (e, w) →
        ∃ t, exec .dispatch s = .next t ∧ ∀ c ∈ bindCores r, (t.core c).mode = .running ∧ (t.core c).task = e.task) ∧
    (∀ g r o u, (s.die d).graphs.get n = some g → g.vf = n → g.onDies = [d] → g.timed = false → s.mayStep d g = true →
      ttRead d g.vf (g.steps + BitVec.ofNat 64 (64 * g.step)) 64 s = .ok r → r.lost = false →
      loadDeps d g (List.range g.nopb) (.fill {}) r.st = .ok (o, u) →
      ∃ lv : Tab (BitVec 32),
        exec .stepStart s = .next ((u.setGraph d g.vf (some { g with lv := lv, opb := o, inStep := true })).checkStep d g.vf) ∧
        lv.get 0 = BitVec.ofNat 32 g.step ∧ lv.get 1 = BitVec.ofNat 32 g.total ∧
        (∀ i, i < 7 → lv.get (2 + i) = BitVec.ofNat 32 (fieldOf r.bs (4 * i) 4)) ∧
        ∀ i, i < 5 → lv.get (11 + i) = BitVec.ofNat 32 (fieldOf r.bs (28 + 4 * i) 4)) ∧
    (∀ g i o u, (s.die d).graphs.get n = some g → g.vf = n → g.expandable s.arg.m = true →
      let st := g.opb.get s.arg.m
      firstFrom (fun i => ((s.die d).tasks.get i).isFree) 16384 0 = some i → st.checked = true → readOpb d g s.arg.m s = .ok (o, u) →
      (o.fused (o.indices st.next)).isSome = true → ∃ t, exec .walkerExpand s = .next t ∧
        (t.die d).tasks.get i = { st := .expanded, vf := n, opb := s.arg.m, tile := st.next, idx := o.indices st.next }) ∧
    (∀ f r q, s.pkg.mode = 1 → (s.die d).nextLaunch = some f → (s.die d).lq.get f = r :: q →
      (f < 96 ∧ (s.die d).graphs.get f = none ∧ ∀ g, g < f → (s.die d).lq.get g = [] ∨ (s.die d).graphs.get g ≠ none) ∧
      let t := s.updDie d fun x => { x with lq := x.lq.set f q }
      (checkLaunch d f r t = none → ∃ u, exec .launch s = .next u ∧ (u.die d).lq.get f = q) ∧
      ∀ g u, checkLaunch d f r t = some (g, u) → (s.opbRoom g = false → exec .launch s = .next s) ∧
        (s.opbRoom g = true → exec .launch s = .next (g.onDies.foldl (fun s d => s.placeGraph d g) u))) ∧
    ((s.die d).graphs.get n = none → exec .stepStart s = .next s ∧ exec .walkerExpand s = .next s) ∧
    (let u : Vf := vf.message s.ptime
     exec .eventCoalesceTimeout s = .next { s with vfs := s.vfs.set n u } ∧
     (vf.armed = true → vf.evhead ≠ vf.evtail → vf.evcnt.toNat ≤ (vf.evtail - vf.evhead).toNat →
       u = { vf with armed := false, msgs := vf.msgs + 1 }) ∧
     (vf.armed = false ∨ vf.evhead = vf.evtail → u = vf)) ∧
    (vf.held = [] → ∃ t, exec .evheadWrite s = .next t ∧ (t.vfs.get n).evhead = bits s.arg.value 0 32 ∧ t.mem = s.mem) ∧
    (let e := s.arg.value.toNat % 2
     (((s.die e).lq.get n).length < 64 → ∃ t, exec .lqpost s = .next t ∧ (t.die e).lq.get n = (s.die e).lq.get n ++ [vf.lqrec]) ∧
     (64 ≤ ((s.die e).lq.get n).length → exec .lqpost s = .next { s with vfs := s.vfs.set n { vf with refused := true } })) ∧
    (∃ t, exec .functionLevelReset s = .next t ∧ (∀ k, k < 2 → (t.die k).graphs.get n = none) ∧
      (t.vfs.get n).evsize = 0 ∧ (t.vfs.get n).evhead = 0 ∧ (t.vfs.get n).held = []) ∧
    becomes .sbStart (if box.st = .idle then { box with pc := 0, loops := [], st := .run, stopping := false } else box) ∧
    becomes .sbStop (if box.st = .run then { box with st := .stopped } else if box.st = .wait ∨ box.st = .parked then { box with stopping := true } else box) ∧
    becomes .sbctlResume (if box.st = .stopped ∨ box.st = .fault then { box with st := .run } else box) ∧
    (let y : Expert := { x with use := bits s.arg.value 256 48, peer := bits s.arg.value 226 9, wring := bits s.arg.value 128 64 }
     let st : BitVec 2 := bits s.arg.value 224 2
     let z : Expert := { y with st := if st = 1 then x.st else st, base := bits s.arg.value 0 64, len := bits s.arg.value 192 32,
                                capaddr := bits s.arg.value 64 64 }
     (x.st ≠ 1 → exec .fetchEnd s = .next s ∧ exec .expertEntryWrite s = .next { s with experts := s.experts.set n z }) ∧
     (x.st = 1 → exec .expertEntryWrite s = .next { s with experts := s.experts.set n y })) ∧
    (x.st = 1 → ∀ p, x.src = some p → s.arg.fetch = .fabricErr → ∃ t, exec .fetchEnd s = .next t ∧ (t.experts.get n).st = x.prev ∧
      ((s.die 0).heldRecords = [] → ∃ r, r.cause = .fabricErr ∧ r.src = 2 ∧
        ((s.die 0).records.length < 256 → (t.die 0).records = (s.die 0).records ++ [r] ∧ (t.die 0).heldRecords = []) ∧
        ((s.die 0).records.length = 256 → (t.die 0).records = (s.die 0).records ∧ (t.die 0).heldRecords = [r]))) ∧
    (x.st = 1 →
      (∀ p bs u, x.src = some p → s.arg.fetch = .peerBytes bs → s.fabricOk x.by_ p.toNat = true → x.len.toNat ≤ bs.length →
        s.fetchPut n 0 (bs.take x.len.toNat) = .ok u → ∃ t, exec .fetchEnd s = .next t ∧ (t.experts.get n).st = 2) ∧
      ∀ bs k u, x.src = none → s.arg.fetch = .capacity → 0 < x.len.toNat → x.len.toNat ≤ 65536 →
        s.storedAt x.capaddr.toNat = .ok (bs, k) → s.fetchPut n 0 (bs.take x.len.toNat) = .ok u →
        ∃ t, exec .fetchEnd s = .next t ∧ (t.experts.get n).st = 2) ∧
    (s.migCommand = none → ∀ i ∈ ([.pageOutPacked, .pageOutRaw, .pagesIn, .badcmd] : List Instr), exec i s = .next s) ∧
    (∀ m, s.migCommand = some m → m.ended = false →
      (migBad m.rec_ = true → exec .badcmd s = .next (s.setMig { m with status := 1, ended := true }) ∧
        ∀ i ∈ ([.pageOutPacked, .pageOutRaw, .pagesIn] : List Instr), exec i s = .next s) ∧
      (migBad m.rec_ = false → exec .badcmd s = .next s ∧
        (migOp m.rec_ = 1 → exec .pageOutPacked s = .next (s.pageOut true m) ∧ exec .pageOutRaw s = .next s) ∧
        (migOp m.rec_ = 2 → exec .pageOutRaw s = .next (s.pageOut false m) ∧ exec .pagesIn s = .next s) ∧
        (migOp m.rec_ = 3 → exec .pagesIn s = .next (s.pageIn m) ∧ exec .pageOutPacked s = .next s))) ∧
    (s.pkg.mig = none → exec .migrationComplete s = .next s) ∧
    (∀ m, s.pkg.mig = some m → m.ended = true → migDone m.rec_ % 8 = 0 → 0xFE00000000000 ≤ migDone m.rec_ →
      migDone m.rec_ + 8 ≤ 0xFE00012000000 → ∃ t, exec .migrationComplete s = .next t ∧ t.pkg.mig = none ∧
        ∀ i, i < 8 → memGet t.mem (migDone m.rec_ + i) = byteOf (m.units % 2 ^ 32 + m.page % 2 ^ 24 * 2 ^ 32 + m.status * 2 ^ 56) i) ∧
    (let i : Inval := { vf := n, lo := s.arg.m, hi := s.arg.value.toNat, root := vf.rootNext }
     let u := s.updPkg fun p => { p with invals := p.invals ++ [i] }
     exec .tlbInvalidate s = .next (if s.eager then u.invalidateNext else u)) ∧
    (∀ i rest, s.pkg.invals = i :: rest →
      let gone (e : TlbEntry) : Bool := e.vf == i.vf && decide (e.va ≤ i.hi) && decide (i.lo < e.va + e.size)
      (s.vfQuiet i.vf = false → exec .invalidationComplete s = .next s) ∧
      (s.vfQuiet i.vf = true → ∃ t, exec .invalidationComplete s = .next t ∧ t.pkg.invals = rest ∧
        (∀ c, (t.core c).tlb = (s.core c).tlb.filter fun e => !gone e) ∧
        (∀ k, (t.cluster k).tlb = (s.cluster k).tlb.filter fun e => !gone e) ∧
        (i.root = none → t.vfs.get i.vf = s.vfs.get i.vf) ∧
        ∀ a e, i.root = some (a, e) → (t.vfs.get i.vf).root = a ∧ (t.vfs.get i.vf).en = e)) ∧
    (s.pkg.collSends = [] → exec .collSendDone s = .next s) ∧ (s.pkg.parked = [] → exec .parkedArrivalApply s = .next s) ∧
    (∀ c bs u, s.pkg.collSends[n]? = some c → collRead s c.vf c.src c.len = some (bs, u) →
      exec .collSendDone s = .next ((u.setFlags c.flags 2).updPkg fun p => { p with collSends := p.collSends.eraseIdx n })) ∧
    (s.arg.flag = false → ∀ a, s.pkg.parked[n]? = some a →
      let out := s.updPkg fun p => { p with parked := p.parked.eraseIdx n }
      (∀ c, s.fits a = .apply c → exec .parkedArrivalApply s = .next (out.applyArrival c a)) ∧
      (s.fits a = .discard → exec .parkedArrivalApply s = .next (out.discardArrival a)) ∧
      (s.fits a = .park → s.staging a = none → exec .parkedArrivalApply s = .next (s.updPkg fun p => { p with parked := p.parked.set n a }))) ∧
    (s.arg.flag = true → ∀ c a i, s.pkg.collSlots[n]? = some c → c.cur = some (a, i) →
      let at_ := c.dst + BitVec.ofNat 64 (2048 * i)
      let k := min 2048 (c.len - 2048 * i)
      ∀ old u w, collRead s c.vf at_ k = some (old, u) →
        collWrite u c.vf at_ (collBytes c.op c.bf16 (k / (if c.bf16 then 2 else 4)) old ((a.bytes.drop (2048 * i)).take k)) = some w →
        2048 * i + k < c.len → exec .parkedArrivalApply s = .next (w.updSlot c fun x => { x with cur := some (a, i + 1) })) ∧
    (let a : Parked := { vf := n, src := s.arg.m, dst := v, bytes := s.arg.bytes }
     s.slotOf n v = none → s.parkedIn (s.stackOf n v) + s.arg.bytes.length ≤ 0x400000 →
      (s.staging a = none → exec .collArrival s = .next (s.updPkg fun p => { p with parked := p.parked ++ [a] })) ∧
      ∀ c x, s.staging a = some (c, x) → ∃ t, exec .collArrival s = .next t ∧
        t.pkg.parked = s.pkg.parked ++ [{ a with told := true }] ∧ (t.die 0).nextToken = (s.die 0).nextToken + 1)

/-- 11 R278, R285, R289-R291, 15 R368, R370, 17 R376-R382, 19 R420, 21 R428, R433-R443: the events of the package: L2 ways, health
records, ports, timeouts, the time discipline, power, freeze, bring-up, SPDM, and writes of registers. -/
def Obligations.PackageEventsComplete : Prop :=
  ∀ s : State,
    let n := s.arg.n
    let p := s.pkg
    let sets (i : Instr) (q : Package) : Prop := exec i s = .next { s with pkg := q }
    let h := p.health.get (n % 256)
    let port := p.ports.get (n % 24)
    let health (i : Instr) (y : Health) : Prop := sets i { p with health := p.health.set (n % 256) y }
    let ports (i : Instr) (y : Port) : Prop := sets i { p with ports := p.ports.set (n % 24) y }
    let spdm (i : Instr) (ok : Prop) (q : Package) : Prop := (ok → sets i q) ∧ (¬ ok → sets i { p with spdm := .error })
    let us := s.ptime / 1000
    let k := s.clusters.get n
    (s.arg.flag = false → exec .vaultScrub s = .next s) ∧
    (s.arg.flag = true → sets .vaultScrub { p with corrected := p.corrected + 1 }) ∧ exec .refreshWindow s = .next s ∧
    (k.gated.contains s.arg.m = true ∨ 16 - k.conv ≤ s.arg.m ∨ 16 - k.conv ≤ k.gated.length + 2 → exec .l2WayGate s = .next s) ∧
    (k.l2.rows = [] → s.arg.m < 16 - k.conv → k.gated.length + 2 < 16 - k.conv → k.gated.contains s.arg.m = false →
      exec .l2WayGate s = .next (s.updCluster n fun k => { k with gated := s.arg.m :: k.gated })) ∧
    exec .l2WayUngate s = .next (s.updCluster n fun k => { k with gated := k.gated.filter (· != s.arg.m) }) ∧
    (s.arg.m < 4 → health .linkCrc { h with crc := BitVec.ofNat 32 (min (h.crc.toNat + s.arg.m + 1) 0xFFFFFFFF) }) ∧
    (4 ≤ s.arg.m → ∃ t, exec .linkCrc s = .next t ∧ (t.pkg.health.get (n % 256)).retrain = true ∧
      (t.pkg.health.get (n % 256)).replayFail = BitVec.ofNat 32 (min (h.replayFail.toNat + 1) 0xFFFFFFFF) ∧ SameMemory s t ∧
      let key := (bits s.arg.value 0 64 : Word).toNat
      let size := max s.arg.bytes.length 1
      let here := key < hbmSize ∧ hbmChannel key = n % 256
      (¬ here → t.ue = s.ue ∧ t.ueNext = s.ueNext) ∧
      (here → s.arg.flag = false → t.ue = s.ue ∧ t.ueNext = wordsOf key size) ∧
      (here → s.arg.flag = true → ∀ a, key / 128 * 128 ≤ a → a < key + size → a % 8 = 0 → a ∈ t.ue)) ∧
    (s.arg.flag = true → health .hbmRetrain { h with trained := !h.removed, retrain := false }) ∧
    (s.arg.flag = false → health .hbmRetrain { h with trained := false, retrain := false, removed := true }) ∧
    health .retrain { h with retrain := true } ∧
    health .healthClear { h with crc := 0, replayFail := 0, ce := 0, ue := 0 } ∧
    (port.st.toNat < 2 → ports .flitReplay port) ∧
    (2 ≤ port.st.toNat → s.arg.flag = false →
      ports .flitReplay { port with replay := BitVec.ofNat 32 (min (port.replay.toNat + 1) 0xFFFFFFFF), fails := port.fails + 1,
                                    st := if 7 ≤ port.fails then 1 else port.st }) ∧
    (2 ≤ port.st.toNat → s.arg.flag = true →
      ports .flitReplay { port with replay := BitVec.ofNat 32 (min (port.replay.toNat + 1) 0xFFFFFFFF), fails := 1 }) ∧
    (port.en = true → port.st.toNat < 2 →
      (4 ≤ s.arg.m → ports .portRetrain { port with st := 2, fails := 0 }) ∧
      (2 ≤ s.arg.m → s.arg.m < 4 → ports .portRetrain { port with st := 3, fails := 0 })) ∧
    (port.st = 1 → port.en = false ∨ s.arg.m < 2 →
      ports .portRetrain { port with st := 0, fails := 0, downs := BitVec.ofNat 16 (min (port.downs.toNat + 1) 0xFFFF) }) ∧
    ports .portClear { port with downs := 0, replay := 0 } ∧
    (∃ t, exec .fabricCountersClear s = .next t ∧ (∀ i, t.pkg.fab.get i = 0) ∧ { t with pkg := { t.pkg with fab := p.fab } } = s) ∧
    (n * 128 < hbmSize → exec .remoteTimeout s = .next s) ∧
    (hbmSize ≤ n * 128 → s.arg.flag = false → ∃ t, exec .remoteTimeout s = .next t ∧ n ∈ t.me.remoteFail ∧
      t.pkg.fab.get 4 = min (p.fab.get 4 + 1) (2 ^ 64 - 1)) ∧
    (∃ t, exec .ptpMessage s = .next t ∧ -50000 ≤ t.pkg.ratePpb ∧ t.pkg.ratePpb ≤ 50000 ∧
      (p.winsClock s.arg.ptp = true → t.pkg.gm = true ∧ t.pkg.lock = true ∧ t.pkg.ratePpb = 0 ∧ s.ptime = t.ptime) ∧
      (p.winsClock s.arg.ptp = false → t.pkg.gm = false ∧ (t.pkg.lock = true ↔ s.arg.ptp.lock = true ∧ s.arg.ptp.hops.toNat ≤ 16) ∧
        (p.firstLock = true → s.ptime = t.ptime))) ∧
    (us ≤ p.usWindow → exec .drawWindowEnd s = .next s) ∧
    (p.usWindow < us → ∃ t, exec .drawWindowEnd s = .next t ∧ (∀ c, (t.core c).charge = 0 ∧ (t.core c).overdraw = false) ∧
      t.pkg.usWindow = us ∧ (p.k = 0 → t.pkg.throttleUs = min p.throttleUs (2 ^ 64 - 1))) ∧
    (s.ptime / 10000 < p.usThrottle → exec .throttleInterval s = .next s) ∧
    (p.usThrottle ≤ s.ptime / 10000 → ∃ t, exec .throttleInterval s = .next t ∧
      t.pkg.k = if s.arg.flag then min (p.k + 1) 7 else p.k - 1) ∧
    (∃ t, exec .pwrcfgWrite s = .next t ∧
      t.pkg.mode = (if bits s.arg.value 0 2 = (3 : BitVec 2) then p.mode else bits s.arg.value 0 2) ∧
      t.pkg.midle = (if bits s.arg.value 8 16 = (0 : BitVec 16) then p.midle else bits s.arg.value 8 16)) ∧
    (∃ t, exec .reuseCountersClear s = .next t ∧ ∀ i, (t.die (boolNat s.arg.flag)).counters.get i = 0) ∧
    sets .freeze { p with frozen := true } ∧ sets .frzN { p with frozen := true } ∧
    (s.arg.img = none → p.flash = none → ∃ t, exec .packageReset s = .next t ∧ t.pkg.mode = 2 ∧ t.pkg.img = none ∧
      t.pkg.frozen = false ∧ t.mem = State.reset.mem ∧ t.cores = State.reset.cores) ∧
    (∀ i, s.arg.img = some i → i.signatureOk = true → p.minVersion ≤ i.version → s.arg.boot = none →
      ∃ t, exec .packageReset s = .next t ∧ t.pkg.mode = 1 ∧ t.pkg.img = some i ∧ t.pkg.pkgid = i.pkgid ∧ t.pkg.budget = i.budget ∧
        t.pkg.frozen = false ∧ t.mem = State.reset.mem ∧ t.cores = State.reset.cores) ∧
    (∀ i, s.arg.img = some i →
      (p.mode = 2 → i.signatureOk = true → p.minVersion ≤ i.version → sets .configurationImage { p with flash := some i }) ∧
      (p.mode ≠ 2 ∨ i.signatureOk = false ∨ i.version < p.minVersion → exec .configurationImage s = .next s)) ∧
    spdm .getVersion True { p with spdmVersion := true, spdmCaps := false, spdmAlgs := false, spdm := .versions [0x12, 0x13] } ∧
    spdm .getCapabilities (p.spdmVersion = true) { p with spdmCaps := true, spdm := .capabilities } ∧
    spdm .negotiateAlgorithms (p.spdmCaps = true ∧ n = 1 ∧ s.arg.m = 1) { p with spdmAlgs := true, spdm := .algorithms true true } ∧
    spdm .getDigests (p.spdmAlgs = true) { p with spdm := .digests (Config.digest Config.certificateChain) } ∧
    spdm .getCertificate (p.spdmAlgs = true) { p with spdm := .certificate n ((Config.certificateChain.drop n).take s.arg.m) } ∧
    spdm .challenge (p.spdmAlgs = true) { p with spdm := .challenge (Config.challengeSignature s.arg.value.toNat) } ∧
    (∀ i, p.img = some i → spdm .getMeasurements (p.spdmAlgs = true ∧ 1 ≤ n ∧ n ≤ 4)
      { p with spdm := .measurement n (Config.measurement n i.version) }) ∧
    (let w := s.arg.reg
     (w.off % (if w.wide then 8 else 4) ≠ 0 → exec .registerWrite s = .next s) ∧
     (∀ c, w.block = .core c → w.wide = true → w.off % 8 = 0 → (s.core c).mode = .running →
       exec .registerWrite s = .next (s.updCore c fun x => { x with late := x.late ++ [.sysReg (w.off / 8) w.value] }))) ∧
    (∀ c r, s.arg.ue = .scalar c r → exec .uncorrectableError s = .next (if r = 0 then s else s.updCore c fun x =>
      { x with r := { x.r with s := x.r.s.set r.toNat 0 }, uedata := x.uedata + 1 })) ∧
    (∀ a, s.arg.ue = .memWord a → ∃ t, exec .uncorrectableError s = .next t ∧ a / 8 * 8 ∈ t.ue ∧ SameMemory s t ∧ t.cores = s.cores)

/-! ### Encoding -/

/-- 04 R98-R116: every well-formed instruction, under every framing that its words can carry, is what its words decode to, and
the framing is the one they carry; `SYNC` and `TICKWAIT` exist with the sync flag alone. -/
def Obligations.DecodeOfEncode : Prop :=
  ∀ (i : Instr) (src : Source) (f : Framing), i.source = some src → i.wf = true → f.fits src = true →
    (i = .sync ∨ (∃ a, i = .tickwait a) → f.syn = true) →
    decode src (encode f i) = .ok i ∧ framing src (encode f i) = f

/-- 04 R104, R117: a word that decodes has no other meaning and no bit left over: what it decodes to is well formed, and encodes to
that word. -/
def Obligations.EncodeOfDecode : Prop :=
  (∀ (l : Lane) (w : Code) (i : Instr), l ≠ .m → decode (.lane l) [w] = .ok i →
    i.wf = true ∧ i.source = some (.lane l) ∧ encode (framing (.lane l) [w]) i = [w]) ∧
  (∀ (w0 w1 : Code) (i : Instr), decode (.lane .m) [w0, w1] = .ok i →
    i.wf = true ∧ i.source = some (.lane .m) ∧ encode (framing (.lane .m) [w0, w1]) i = [w0, w1]) ∧
  ∀ (w0 w1 w2 w3 : Code) (i : Instr), decode .box [w0, w1, w2, w3] = .ok i →
    i.wf = true ∧ i.source = some .box ∧ encode noFrame i = [w0, w1, w2, w3].take (boxLength w0.toNat)

/-- 04 R98-R116, 05, 06, 07, 08, 09, 10: words that the manual itself encodes decode to the instructions it gives for them, and the
neighbouring words that it calls faults are refused by their names. -/
def Obligations.ManualWordsDecode : Prop :=
  (∀ (w : Code) (i : Instr), (w, i) ∈ ([
      (0x0B80000C, .acqp 12), (0x02290001, .lis 9 1 1), (0x09401801, .sigexpect 1 3), (0x1A000000, .sync), (0x19C30000, .own 0 3 .lanes),
      (0x068510D4, .ldx .w 2 5 2 3), (0x03C107FC, .loop 1 0x7FC), (0x06422020, .stW 2 4 32), (0x002831C3, .div 8 6 7),
      (0x086531C6, .casD .rel .acq 5 6 7), (0x08C00009, .fence .rel .cluster), (0x09200002, .sigwait 2 0), (0x0AA410C0, .rprobe 4 2 3),
      (0x0BC00021, .setdiv .mat 8), (0x0CE54811, .xdset 5 9 17), (0x0E201801, .tmap 1 3), (0x0E602040, .tgate .complex 4 1),
      (0x0E862880, .tcgate .complex 6 5 2), (0x0EE74000, .tprob 7 8), (0x0F200000, .twait)] : List (Code × Instr)) →
    decode (.lane .s) [w] = .ok i) ∧
  (∀ (w : Code) (i : Instr), (w, i) ∈ ([
      (0x10480000, .vsetshape .f32 64), (0x0C50F3D0, .vstep 16 60 61 0), (0x0A510409, .vst 17 1 9), (0x0CFFEC20, .vloop 0xFFB 32),
      (0x03051850, .vexp2 5 6 0), (0x05931050, .vcmp .lt 3 4 5 0), (0x084204C0, .vcvtS 2 1 .e4m3 .rne 0), (0x0D10FFD9, .vbr .none 0xFFD 9),
      (0x0D404100, .tcfg 0 15 15), (0x0E430050, .tmovc 3 0 5), (0x06C35150, .eform 3 20 21 0), (0x08850820, .econv 5 2),
      (0x08803050, .eord 12), (0x0F061070, .eeval 6 4 7 0), (0x0F820010, .eadmit 2 0 1), (0x0FC40810, .est 4 2)] : List (Code × Instr)) →
    decode (.lane .v) [w] = .ok i) ∧
  (∀ (w0 w1 : Code) (i : Instr), (w0, w1, i) ∈ ([
      (0x100F9BE0, 0x2800, .mma 0 31 3 false 31), (0x50040000, 1, .malloc 0 2), (0x80046140, 0x4800, .mdrain 0 2 3 2 true),
      (0x221F95E0, 0x6400, .mmasp 4 63 2 true 15), (0x343F8B00, 0, .mmv 8 127 1 3), (0x71040040, 0, .mhand 2 2 1),
      (0xC005FFFA, 0, .mloop 5 0xFFFA)] : List (Code × Code × Instr)) → decode (.lane .m) [w0, w1] = .ok i) ∧
  (∀ (w : Code) (i : Instr), (w, i) ∈ ([
      (0x00A00300, .xcopy 4 0 1 true), (0xF120001F, .xfeeda 4 31), (0x01A8001F, .xfeedb 5 31), (0x04B38B00, .xhalo 6 7 5 true),
      (0x04118901, .xdelta .bf16 2 3 4 true), (0x05000501, .xsig 2 1)] : List (Code × Instr)) → decode (.lane .x) [w] = .ok i) ∧
  (∀ (ws : List Code) (i : Instr), (ws, i) ∈ ([
      ([0x30028200], .sexpert 5 1), ([0x38048000], .sfetch 9 false 0), ([0x40000040, 0x00001000, 0x00000040], .scount 0 16 0x4000001000),
      ([0x28011801], .ssig 1 6 1), ([0x50000000], .shalt), ([0x58000000], .spark)] : List (List Code × Instr)) → decode .box ws = .ok i) ∧
  ∀ (l : Lane) (ws : List Code) (e : DecErr), (l, ws, e) ∈ ([
      (.s, [0x02800000], .illegalOp), (.s, [0x00000050], .illegalFn), (.s, [0x08C0000C], .illegalFn), (.s, [0x09200042], .reservedField),
      (.s, [0x0E602240], .reservedField), (.v, [0x0D400100], .reservedField), (.v, [0x0E430051], .reservedField),
      (.v, [0x08800050], .reservedField), (.v, [0x08800060], .illegalFn), (.m, [0x71040041, 0], .reservedField),
      (.m, [0xC000FFFA, 0], .reservedField), (.x, [0x05000401], .reservedField)] : List (Lane × List Code × DecErr)) →
    decode (.lane l) ws = .error e

/-! ### The machine -/

/-- 01 R24, 02 R35, 10 R263 (with the model's agenda, log 1): where one lane of the core that issues has something to do, and the words at
its pc are present and decode to an instruction that its level may run, a step lets time pass, then runs that instruction,
and drops its words beyond the buffer. A step of the Signal Box runs the word at the pc of its context, and an event of
the agenda is what the step runs. -/
def Obligations.StepRunsTheWord : Prop :=
  (∀ (s : State) (l : Lane) (ws : List Code) (i : Instr),
    let u := s.newTurn
    let t := { u.passTo u.nextTick with focus := s.focus }
    let pc := (t.lane l).pc.toNat
    let f := framing (.lane l) ws
    s.agenda = [] → s.pkg.frozen = false → t.dueLanes = [l] → (l = .m → pc % 2 = 0) →
    ws.length = (laneStep l).toNat → pc + ws.length ≤ t.me.clen l → (∀ k (h : k < ws.length), (t.lane l).buf.get (pc + k) = some ws[k]) →
    decode (.lane l) ws = .ok i → stateCause t i = none → (f.syn = false ∨ (t.lane l).waiting = true) → t.onStamp l f = true →
    step s = (match exec i (t.updLane l fun x => { x with frame := f }) with
      | .next r => .next { (r.afterLane l pc f t).drainCycle with focus := s.focus }
      | o => o)) ∧
  (∀ (s t : State) (n k : Nat) (i : Instr) (rest : List Turn), s.agenda = .box n :: rest → s.pkg.frozen = false →
    let u := { s.newTurn with agenda := rest }
    (u.boxes.get n).st ≠ .wait → (List.range 96).find? u.boxStarts = some k → boxFetch u k = .ok (i, t) →
    step s = exec i { t with boxFocus := k }) ∧
  (∀ (s t : State) (n : Nat) (i : Instr) (rest : List Turn), s.agenda = .box n :: rest → s.pkg.frozen = false →
    let u := { s.newTurn with agenda := rest }
    (u.boxes.get n).st = .wait → boxFetch u n = .ok (i, t) → step s = exec i { t with boxFocus := n }) ∧
  ∀ (s : State) (i : Instr) (a : EventArg) (rest : List Turn), s.agenda = .event i a :: rest → s.pkg.frozen = false →
    i.source = none → i ≠ .syncGroup → step s = exec i { s.newTurn with agenda := rest, arg := a, focus := a.core }

/-- 00 R6, 11 R278 (the canonical form is the model's, log 3): memory gives back the bytes last written, a write and a clear leave
every other byte alone and keep the canonical form, and two memories in that form that read alike are equal. -/
def Obligations.MemoryReadsWhatWasWritten : Prop :=
  (∀ (m : Memory) (a : Nat) (bs : List Byte), memRead (memWrite m a bs) a bs.length = bs ∧
    (∀ i (h : i < bs.length), memGet (memWrite m a bs) (a + i) = bs[i]) ∧
    (∀ k, k < a ∨ a + bs.length ≤ k → memGet (memWrite m a bs) k = memGet m k) ∧
    (Memory.wf m = true → Memory.wf (memWrite m a bs) = true)) ∧
  (∀ (m : Memory) (a n k : Nat), memGet (memClear m a n) k = (if a ≤ k ∧ k < a + n then unlisted else memGet m k) ∧
    (Memory.wf m = true → Memory.wf (memClear m a n) = true)) ∧
  ∀ m n : Memory, Memory.wf m = true → Memory.wf n = true → (∀ k, memGet m k = memGet n k) → m = n

/-- The memory keeps its canonical form in every step (the model's invariant, log 3). -/
def Obligations.StepKeepsMemoryCanonical : Prop :=
  ∀ s t : State, s.Canonical → step s = .next t → t.Canonical

/-- 21 R439 (with the model's agenda, log 1): no instruction and no event ends in a fault or a refusal: each answers a next state, in
which it has completed, waits, or has been answered by its trap or record; a step ends in none either, but for an agenda that
names a lane's word as an event. A frozen package takes a package reset alone: every other turn leaves all of it as it is. -/
def Obligations.StopsAreNamed : Prop :=
  (∀ (i : Instr) (s : State), ∃ t, exec i s = .next t) ∧
  (∀ (s : State) (f : Fault), step s = .fault f → f = .notAnEvent ∧ ∃ i a rest, s.agenda = .event i a :: rest ∧ i.source ≠ none) ∧
  (∀ (s : State) (r : Refusal), step s ≠ .refused r) ∧
  ∀ s t : State, s.pkg.frozen = true → step s = .next t →
    (∃ a rest, s.agenda = .event .packageReset a :: rest) ∨ t = { s with agenda := s.agenda.drop 1 }

/-- 02 R46, R48, R50, R57, R61-R66, 06 R157, 10 R261, 21 R443: what a reset leaves, of what the manual states. -/
def Obligations.ResetState : Prop :=
  State.reset.Canonical ∧ State.reset.pkg.frozen = false ∧ State.reset.pkg.ticks = 0 ∧
  ∀ c : CoreId,
    let s : State := { State.reset with focus := c }
    (∀ (n : Nat) (v : Word), (n, v) ∈ ([(0x000, 0), (0x001, 0), (0x002, 0), (0x008, 0), (0x009, 0), (0x00A, 0x4000), (0x00B, 0), (0x00C, 0),
        (0x00D, 0), (0x00E, 0), (0x010, 0), (0x011, 0), (0x012, 0), (0x020, 16), (0x021, 0x3F000000), (0x030, 0), (0x035, 0), (0x036, 0),
        (0x037, 0x3), (0x040, 0x10000), (0x041, 0xC0000), (0x042, 0xC0000), (0x048, 0), (0x049, 0), (0x04A, 0), (0x050, 0),
        (0x051, 0x04040404), (0x058, c.setWidth 64)] ++ (List.range 8).map (fun k => (0x018 + k, 0x20000000)) ++
        (List.range 4).map (fun k => (0x031 + k, 0)) ++ (List.range 8).map (fun k => (0x038 + k, 0)) : List (Nat × Word)) →
      sysRead s n = some v) ∧
    (∀ k, k < 4 → ∃ v, sysRead s (0x028 + k) = some v ∧ ∀ j, j < 10 → bits v (6 * j) 6 = BitVec.ofNat 6 (10 * k + j)) ∧
    s.me.mode = .idle ∧ (∀ g, (s.me.sigs.get g).value = 0 ∧ (s.me.sigs.get g).byteMode = false) ∧
    (∀ n, (s.boxes.get n).st = .idle ∧ (s.boxes.get n).pc = 0) ∧ ∀ n, (s.experts.get n).st = 0 ∧ (s.experts.get n).use = 0
end

