-- ==== Sys2Proof/Laws/State.lean ====
section
/-! SUPPORT. The state under its updates: one lemma per field per update, so that no later proof unfolds a record update. -/

namespace Sys2Proof.Machine

open Sys2Proof

/-! ### `State.setCore` -/

@[simp] theorem State.setCore_clusters (s : State) (c : CoreId) (x : Core) : (s.setCore c x).clusters = s.clusters := rfl
@[simp] theorem State.setCore_dies (s : State) (c : CoreId) (x : Core) : (s.setCore c x).dies = s.dies := rfl
@[simp] theorem State.setCore_vfs (s : State) (c : CoreId) (x : Core) : (s.setCore c x).vfs = s.vfs := rfl
@[simp] theorem State.setCore_boxes (s : State) (c : CoreId) (x : Core) : (s.setCore c x).boxes = s.boxes := rfl
@[simp] theorem State.setCore_experts (s : State) (c : CoreId) (x : Core) : (s.setCore c x).experts = s.experts := rfl
@[simp] theorem State.setCore_pkg (s : State) (c : CoreId) (x : Core) : (s.setCore c x).pkg = s.pkg := rfl
@[simp] theorem State.setCore_mem (s : State) (c : CoreId) (x : Core) : (s.setCore c x).mem = s.mem := rfl
@[simp] theorem State.setCore_ue (s : State) (c : CoreId) (x : Core) : (s.setCore c x).ue = s.ue := rfl
@[simp] theorem State.setCore_homeVer (s : State) (c : CoreId) (x : Core) : (s.setCore c x).homeVer = s.homeVer := rfl
@[simp] theorem State.setCore_owner (s : State) (c : CoreId) (x : Core) : (s.setCore c x).owner = s.owner := rfl
@[simp] theorem State.setCore_fresh (s : State) (c : CoreId) (x : Core) : (s.setCore c x).fresh = s.fresh := rfl
@[simp] theorem State.setCore_regs (s : State) (c : CoreId) (x : Core) : (s.setCore c x).regs = s.regs := rfl
@[simp] theorem State.setCore_focus (s : State) (c : CoreId) (x : Core) : (s.setCore c x).focus = s.focus := rfl
@[simp] theorem State.setCore_boxFocus (s : State) (c : CoreId) (x : Core) : (s.setCore c x).boxFocus = s.boxFocus := rfl
@[simp] theorem State.setCore_agenda (s : State) (c : CoreId) (x : Core) : (s.setCore c x).agenda = s.agenda := rfl
@[simp] theorem State.setCore_arg (s : State) (c : CoreId) (x : Core) : (s.setCore c x).arg = s.arg := rfl
@[simp] theorem State.setCore_eager (s : State) (c : CoreId) (x : Core) : (s.setCore c x).eager = s.eager := rfl
@[simp] theorem State.setCore_openLats (s : State) (c : CoreId) (x : Core) : (s.setCore c x).openLats = s.openLats := rfl

/-! ### `State.updCore` -/

@[simp] theorem State.updCore_clusters (s : State) (c : CoreId) (f : Core → Core) : (s.updCore c f).clusters = s.clusters := rfl
@[simp] theorem State.updCore_dies (s : State) (c : CoreId) (f : Core → Core) : (s.updCore c f).dies = s.dies := rfl
@[simp] theorem State.updCore_vfs (s : State) (c : CoreId) (f : Core → Core) : (s.updCore c f).vfs = s.vfs := rfl
@[simp] theorem State.updCore_boxes (s : State) (c : CoreId) (f : Core → Core) : (s.updCore c f).boxes = s.boxes := rfl
@[simp] theorem State.updCore_experts (s : State) (c : CoreId) (f : Core → Core) : (s.updCore c f).experts = s.experts := rfl
@[simp] theorem State.updCore_pkg (s : State) (c : CoreId) (f : Core → Core) : (s.updCore c f).pkg = s.pkg := rfl
@[simp] theorem State.updCore_mem (s : State) (c : CoreId) (f : Core → Core) : (s.updCore c f).mem = s.mem := rfl
@[simp] theorem State.updCore_ue (s : State) (c : CoreId) (f : Core → Core) : (s.updCore c f).ue = s.ue := rfl
@[simp] theorem State.updCore_homeVer (s : State) (c : CoreId) (f : Core → Core) : (s.updCore c f).homeVer = s.homeVer := rfl
@[simp] theorem State.updCore_owner (s : State) (c : CoreId) (f : Core → Core) : (s.updCore c f).owner = s.owner := rfl
@[simp] theorem State.updCore_fresh (s : State) (c : CoreId) (f : Core → Core) : (s.updCore c f).fresh = s.fresh := rfl
@[simp] theorem State.updCore_regs (s : State) (c : CoreId) (f : Core → Core) : (s.updCore c f).regs = s.regs := rfl
@[simp] theorem State.updCore_focus (s : State) (c : CoreId) (f : Core → Core) : (s.updCore c f).focus = s.focus := rfl
@[simp] theorem State.updCore_boxFocus (s : State) (c : CoreId) (f : Core → Core) : (s.updCore c f).boxFocus = s.boxFocus := rfl
@[simp] theorem State.updCore_agenda (s : State) (c : CoreId) (f : Core → Core) : (s.updCore c f).agenda = s.agenda := rfl
@[simp] theorem State.updCore_arg (s : State) (c : CoreId) (f : Core → Core) : (s.updCore c f).arg = s.arg := rfl
@[simp] theorem State.updCore_eager (s : State) (c : CoreId) (f : Core → Core) : (s.updCore c f).eager = s.eager := rfl
@[simp] theorem State.updCore_openLats (s : State) (c : CoreId) (f : Core → Core) : (s.updCore c f).openLats = s.openLats := rfl

/-! ### `State.updMe` -/

@[simp] theorem State.updMe_clusters (s : State) (f : Core → Core) : (s.updMe f).clusters = s.clusters := rfl
@[simp] theorem State.updMe_dies (s : State) (f : Core → Core) : (s.updMe f).dies = s.dies := rfl
@[simp] theorem State.updMe_vfs (s : State) (f : Core → Core) : (s.updMe f).vfs = s.vfs := rfl
@[simp] theorem State.updMe_boxes (s : State) (f : Core → Core) : (s.updMe f).boxes = s.boxes := rfl
@[simp] theorem State.updMe_experts (s : State) (f : Core → Core) : (s.updMe f).experts = s.experts := rfl
@[simp] theorem State.updMe_pkg (s : State) (f : Core → Core) : (s.updMe f).pkg = s.pkg := rfl
@[simp] theorem State.updMe_mem (s : State) (f : Core → Core) : (s.updMe f).mem = s.mem := rfl
@[simp] theorem State.updMe_ue (s : State) (f : Core → Core) : (s.updMe f).ue = s.ue := rfl
@[simp] theorem State.updMe_homeVer (s : State) (f : Core → Core) : (s.updMe f).homeVer = s.homeVer := rfl
@[simp] theorem State.updMe_owner (s : State) (f : Core → Core) : (s.updMe f).owner = s.owner := rfl
@[simp] theorem State.updMe_fresh (s : State) (f : Core → Core) : (s.updMe f).fresh = s.fresh := rfl
@[simp] theorem State.updMe_regs (s : State) (f : Core → Core) : (s.updMe f).regs = s.regs := rfl
@[simp] theorem State.updMe_focus (s : State) (f : Core → Core) : (s.updMe f).focus = s.focus := rfl
@[simp] theorem State.updMe_boxFocus (s : State) (f : Core → Core) : (s.updMe f).boxFocus = s.boxFocus := rfl
@[simp] theorem State.updMe_agenda (s : State) (f : Core → Core) : (s.updMe f).agenda = s.agenda := rfl
@[simp] theorem State.updMe_arg (s : State) (f : Core → Core) : (s.updMe f).arg = s.arg := rfl
@[simp] theorem State.updMe_eager (s : State) (f : Core → Core) : (s.updMe f).eager = s.eager := rfl
@[simp] theorem State.updMe_openLats (s : State) (f : Core → Core) : (s.updMe f).openLats = s.openLats := rfl

/-! ### `State.updCtl` -/

@[simp] theorem State.updCtl_clusters (s : State) (f : Ctl → Ctl) : (s.updCtl f).clusters = s.clusters := rfl
@[simp] theorem State.updCtl_dies (s : State) (f : Ctl → Ctl) : (s.updCtl f).dies = s.dies := rfl
@[simp] theorem State.updCtl_vfs (s : State) (f : Ctl → Ctl) : (s.updCtl f).vfs = s.vfs := rfl
@[simp] theorem State.updCtl_boxes (s : State) (f : Ctl → Ctl) : (s.updCtl f).boxes = s.boxes := rfl
@[simp] theorem State.updCtl_experts (s : State) (f : Ctl → Ctl) : (s.updCtl f).experts = s.experts := rfl
@[simp] theorem State.updCtl_pkg (s : State) (f : Ctl → Ctl) : (s.updCtl f).pkg = s.pkg := rfl
@[simp] theorem State.updCtl_mem (s : State) (f : Ctl → Ctl) : (s.updCtl f).mem = s.mem := rfl
@[simp] theorem State.updCtl_ue (s : State) (f : Ctl → Ctl) : (s.updCtl f).ue = s.ue := rfl
@[simp] theorem State.updCtl_homeVer (s : State) (f : Ctl → Ctl) : (s.updCtl f).homeVer = s.homeVer := rfl
@[simp] theorem State.updCtl_owner (s : State) (f : Ctl → Ctl) : (s.updCtl f).owner = s.owner := rfl
@[simp] theorem State.updCtl_fresh (s : State) (f : Ctl → Ctl) : (s.updCtl f).fresh = s.fresh := rfl
@[simp] theorem State.updCtl_regs (s : State) (f : Ctl → Ctl) : (s.updCtl f).regs = s.regs := rfl
@[simp] theorem State.updCtl_focus (s : State) (f : Ctl → Ctl) : (s.updCtl f).focus = s.focus := rfl
@[simp] theorem State.updCtl_boxFocus (s : State) (f : Ctl → Ctl) : (s.updCtl f).boxFocus = s.boxFocus := rfl
@[simp] theorem State.updCtl_agenda (s : State) (f : Ctl → Ctl) : (s.updCtl f).agenda = s.agenda := rfl
@[simp] theorem State.updCtl_arg (s : State) (f : Ctl → Ctl) : (s.updCtl f).arg = s.arg := rfl
@[simp] theorem State.updCtl_eager (s : State) (f : Ctl → Ctl) : (s.updCtl f).eager = s.eager := rfl
@[simp] theorem State.updCtl_openLats (s : State) (f : Ctl → Ctl) : (s.updCtl f).openLats = s.openLats := rfl

/-! ### `State.updR` -/

@[simp] theorem State.updR_clusters (s : State) (f : Regs → Regs) : (s.updR f).clusters = s.clusters := rfl
@[simp] theorem State.updR_dies (s : State) (f : Regs → Regs) : (s.updR f).dies = s.dies := rfl
@[simp] theorem State.updR_vfs (s : State) (f : Regs → Regs) : (s.updR f).vfs = s.vfs := rfl
@[simp] theorem State.updR_boxes (s : State) (f : Regs → Regs) : (s.updR f).boxes = s.boxes := rfl
@[simp] theorem State.updR_experts (s : State) (f : Regs → Regs) : (s.updR f).experts = s.experts := rfl
@[simp] theorem State.updR_pkg (s : State) (f : Regs → Regs) : (s.updR f).pkg = s.pkg := rfl
@[simp] theorem State.updR_mem (s : State) (f : Regs → Regs) : (s.updR f).mem = s.mem := rfl
@[simp] theorem State.updR_ue (s : State) (f : Regs → Regs) : (s.updR f).ue = s.ue := rfl
@[simp] theorem State.updR_homeVer (s : State) (f : Regs → Regs) : (s.updR f).homeVer = s.homeVer := rfl
@[simp] theorem State.updR_owner (s : State) (f : Regs → Regs) : (s.updR f).owner = s.owner := rfl
@[simp] theorem State.updR_fresh (s : State) (f : Regs → Regs) : (s.updR f).fresh = s.fresh := rfl
@[simp] theorem State.updR_regs (s : State) (f : Regs → Regs) : (s.updR f).regs = s.regs := rfl
@[simp] theorem State.updR_focus (s : State) (f : Regs → Regs) : (s.updR f).focus = s.focus := rfl
@[simp] theorem State.updR_boxFocus (s : State) (f : Regs → Regs) : (s.updR f).boxFocus = s.boxFocus := rfl
@[simp] theorem State.updR_agenda (s : State) (f : Regs → Regs) : (s.updR f).agenda = s.agenda := rfl
@[simp] theorem State.updR_arg (s : State) (f : Regs → Regs) : (s.updR f).arg = s.arg := rfl
@[simp] theorem State.updR_eager (s : State) (f : Regs → Regs) : (s.updR f).eager = s.eager := rfl
@[simp] theorem State.updR_openLats (s : State) (f : Regs → Regs) : (s.updR f).openLats = s.openLats := rfl

/-! ### `State.updLane` -/

@[simp] theorem State.updLane_clusters (s : State) (l : Lane) (f : LaneSt → LaneSt) : (s.updLane l f).clusters = s.clusters := rfl
@[simp] theorem State.updLane_dies (s : State) (l : Lane) (f : LaneSt → LaneSt) : (s.updLane l f).dies = s.dies := rfl
@[simp] theorem State.updLane_vfs (s : State) (l : Lane) (f : LaneSt → LaneSt) : (s.updLane l f).vfs = s.vfs := rfl
@[simp] theorem State.updLane_boxes (s : State) (l : Lane) (f : LaneSt → LaneSt) : (s.updLane l f).boxes = s.boxes := rfl
@[simp] theorem State.updLane_experts (s : State) (l : Lane) (f : LaneSt → LaneSt) : (s.updLane l f).experts = s.experts := rfl
@[simp] theorem State.updLane_pkg (s : State) (l : Lane) (f : LaneSt → LaneSt) : (s.updLane l f).pkg = s.pkg := rfl
@[simp] theorem State.updLane_mem (s : State) (l : Lane) (f : LaneSt → LaneSt) : (s.updLane l f).mem = s.mem := rfl
@[simp] theorem State.updLane_ue (s : State) (l : Lane) (f : LaneSt → LaneSt) : (s.updLane l f).ue = s.ue := rfl
@[simp] theorem State.updLane_homeVer (s : State) (l : Lane) (f : LaneSt → LaneSt) : (s.updLane l f).homeVer = s.homeVer := rfl
@[simp] theorem State.updLane_owner (s : State) (l : Lane) (f : LaneSt → LaneSt) : (s.updLane l f).owner = s.owner := rfl
@[simp] theorem State.updLane_fresh (s : State) (l : Lane) (f : LaneSt → LaneSt) : (s.updLane l f).fresh = s.fresh := rfl
@[simp] theorem State.updLane_regs (s : State) (l : Lane) (f : LaneSt → LaneSt) : (s.updLane l f).regs = s.regs := rfl
@[simp] theorem State.updLane_focus (s : State) (l : Lane) (f : LaneSt → LaneSt) : (s.updLane l f).focus = s.focus := rfl
@[simp] theorem State.updLane_boxFocus (s : State) (l : Lane) (f : LaneSt → LaneSt) : (s.updLane l f).boxFocus = s.boxFocus := rfl
@[simp] theorem State.updLane_agenda (s : State) (l : Lane) (f : LaneSt → LaneSt) : (s.updLane l f).agenda = s.agenda := rfl
@[simp] theorem State.updLane_arg (s : State) (l : Lane) (f : LaneSt → LaneSt) : (s.updLane l f).arg = s.arg := rfl
@[simp] theorem State.updLane_eager (s : State) (l : Lane) (f : LaneSt → LaneSt) : (s.updLane l f).eager = s.eager := rfl
@[simp] theorem State.updLane_openLats (s : State) (l : Lane) (f : LaneSt → LaneSt) : (s.updLane l f).openLats = s.openLats := rfl

/-! ### `State.setReady` -/

@[simp] theorem State.setReady_clusters (s : State) (k lat : Nat) : (s.setReady k lat).clusters = s.clusters := rfl
@[simp] theorem State.setReady_dies (s : State) (k lat : Nat) : (s.setReady k lat).dies = s.dies := rfl
@[simp] theorem State.setReady_vfs (s : State) (k lat : Nat) : (s.setReady k lat).vfs = s.vfs := rfl
@[simp] theorem State.setReady_boxes (s : State) (k lat : Nat) : (s.setReady k lat).boxes = s.boxes := rfl
@[simp] theorem State.setReady_experts (s : State) (k lat : Nat) : (s.setReady k lat).experts = s.experts := rfl
@[simp] theorem State.setReady_pkg (s : State) (k lat : Nat) : (s.setReady k lat).pkg = s.pkg := rfl
@[simp] theorem State.setReady_mem (s : State) (k lat : Nat) : (s.setReady k lat).mem = s.mem := rfl
@[simp] theorem State.setReady_ue (s : State) (k lat : Nat) : (s.setReady k lat).ue = s.ue := rfl
@[simp] theorem State.setReady_homeVer (s : State) (k lat : Nat) : (s.setReady k lat).homeVer = s.homeVer := rfl
@[simp] theorem State.setReady_owner (s : State) (k lat : Nat) : (s.setReady k lat).owner = s.owner := rfl
@[simp] theorem State.setReady_fresh (s : State) (k lat : Nat) : (s.setReady k lat).fresh = s.fresh := rfl
@[simp] theorem State.setReady_regs (s : State) (k lat : Nat) : (s.setReady k lat).regs = s.regs := rfl
@[simp] theorem State.setReady_focus (s : State) (k lat : Nat) : (s.setReady k lat).focus = s.focus := rfl
@[simp] theorem State.setReady_boxFocus (s : State) (k lat : Nat) : (s.setReady k lat).boxFocus = s.boxFocus := rfl
@[simp] theorem State.setReady_agenda (s : State) (k lat : Nat) : (s.setReady k lat).agenda = s.agenda := rfl
@[simp] theorem State.setReady_arg (s : State) (k lat : Nat) : (s.setReady k lat).arg = s.arg := rfl
@[simp] theorem State.setReady_eager (s : State) (k lat : Nat) : (s.setReady k lat).eager = s.eager := rfl
@[simp] theorem State.setReady_openLats (s : State) (k lat : Nat) : (s.setReady k lat).openLats = s.openLats := rfl

/-! ### `State.retire` -/

@[simp] theorem State.retire_clusters (s : State) (l : Lane) : (s.retire l).clusters = s.clusters := rfl
@[simp] theorem State.retire_dies (s : State) (l : Lane) : (s.retire l).dies = s.dies := rfl
@[simp] theorem State.retire_vfs (s : State) (l : Lane) : (s.retire l).vfs = s.vfs := rfl
@[simp] theorem State.retire_boxes (s : State) (l : Lane) : (s.retire l).boxes = s.boxes := rfl
@[simp] theorem State.retire_experts (s : State) (l : Lane) : (s.retire l).experts = s.experts := rfl
@[simp] theorem State.retire_pkg (s : State) (l : Lane) : (s.retire l).pkg = s.pkg := rfl
@[simp] theorem State.retire_mem (s : State) (l : Lane) : (s.retire l).mem = s.mem := rfl
@[simp] theorem State.retire_ue (s : State) (l : Lane) : (s.retire l).ue = s.ue := rfl
@[simp] theorem State.retire_homeVer (s : State) (l : Lane) : (s.retire l).homeVer = s.homeVer := rfl
@[simp] theorem State.retire_owner (s : State) (l : Lane) : (s.retire l).owner = s.owner := rfl
@[simp] theorem State.retire_fresh (s : State) (l : Lane) : (s.retire l).fresh = s.fresh := rfl
@[simp] theorem State.retire_regs (s : State) (l : Lane) : (s.retire l).regs = s.regs := rfl
@[simp] theorem State.retire_focus (s : State) (l : Lane) : (s.retire l).focus = s.focus := rfl
@[simp] theorem State.retire_boxFocus (s : State) (l : Lane) : (s.retire l).boxFocus = s.boxFocus := rfl
@[simp] theorem State.retire_agenda (s : State) (l : Lane) : (s.retire l).agenda = s.agenda := rfl
@[simp] theorem State.retire_arg (s : State) (l : Lane) : (s.retire l).arg = s.arg := rfl
@[simp] theorem State.retire_eager (s : State) (l : Lane) : (s.retire l).eager = s.eager := rfl
@[simp] theorem State.retire_openLats (s : State) (l : Lane) : (s.retire l).openLats = s.openLats := rfl

/-! ### `State.updCluster` -/

@[simp] theorem State.updCluster_cores (s : State) (n : Nat) (f : Cluster → Cluster) : (s.updCluster n f).cores = s.cores := rfl
@[simp] theorem State.updCluster_dies (s : State) (n : Nat) (f : Cluster → Cluster) : (s.updCluster n f).dies = s.dies := rfl
@[simp] theorem State.updCluster_vfs (s : State) (n : Nat) (f : Cluster → Cluster) : (s.updCluster n f).vfs = s.vfs := rfl
@[simp] theorem State.updCluster_boxes (s : State) (n : Nat) (f : Cluster → Cluster) : (s.updCluster n f).boxes = s.boxes := rfl
@[simp] theorem State.updCluster_experts (s : State) (n : Nat) (f : Cluster → Cluster) : (s.updCluster n f).experts = s.experts := rfl
@[simp] theorem State.updCluster_pkg (s : State) (n : Nat) (f : Cluster → Cluster) : (s.updCluster n f).pkg = s.pkg := rfl
@[simp] theorem State.updCluster_mem (s : State) (n : Nat) (f : Cluster → Cluster) : (s.updCluster n f).mem = s.mem := rfl
@[simp] theorem State.updCluster_ue (s : State) (n : Nat) (f : Cluster → Cluster) : (s.updCluster n f).ue = s.ue := rfl
@[simp] theorem State.updCluster_homeVer (s : State) (n : Nat) (f : Cluster → Cluster) : (s.updCluster n f).homeVer = s.homeVer := rfl
@[simp] theorem State.updCluster_owner (s : State) (n : Nat) (f : Cluster → Cluster) : (s.updCluster n f).owner = s.owner := rfl
@[simp] theorem State.updCluster_fresh (s : State) (n : Nat) (f : Cluster → Cluster) : (s.updCluster n f).fresh = s.fresh := rfl
@[simp] theorem State.updCluster_regs (s : State) (n : Nat) (f : Cluster → Cluster) : (s.updCluster n f).regs = s.regs := rfl
@[simp] theorem State.updCluster_focus (s : State) (n : Nat) (f : Cluster → Cluster) : (s.updCluster n f).focus = s.focus := rfl
@[simp] theorem State.updCluster_boxFocus (s : State) (n : Nat) (f : Cluster → Cluster) : (s.updCluster n f).boxFocus = s.boxFocus := rfl
@[simp] theorem State.updCluster_agenda (s : State) (n : Nat) (f : Cluster → Cluster) : (s.updCluster n f).agenda = s.agenda := rfl
@[simp] theorem State.updCluster_arg (s : State) (n : Nat) (f : Cluster → Cluster) : (s.updCluster n f).arg = s.arg := rfl
@[simp] theorem State.updCluster_eager (s : State) (n : Nat) (f : Cluster → Cluster) : (s.updCluster n f).eager = s.eager := rfl
@[simp] theorem State.updCluster_openLats (s : State) (n : Nat) (f : Cluster → Cluster) : (s.updCluster n f).openLats = s.openLats := rfl

/-! ### `State.updDie` -/

@[simp] theorem State.updDie_cores (s : State) (d : Nat) (f : Die → Die) : (s.updDie d f).cores = s.cores := rfl
@[simp] theorem State.updDie_clusters (s : State) (d : Nat) (f : Die → Die) : (s.updDie d f).clusters = s.clusters := rfl
@[simp] theorem State.updDie_vfs (s : State) (d : Nat) (f : Die → Die) : (s.updDie d f).vfs = s.vfs := rfl
@[simp] theorem State.updDie_boxes (s : State) (d : Nat) (f : Die → Die) : (s.updDie d f).boxes = s.boxes := rfl
@[simp] theorem State.updDie_experts (s : State) (d : Nat) (f : Die → Die) : (s.updDie d f).experts = s.experts := rfl
@[simp] theorem State.updDie_pkg (s : State) (d : Nat) (f : Die → Die) : (s.updDie d f).pkg = s.pkg := rfl
@[simp] theorem State.updDie_mem (s : State) (d : Nat) (f : Die → Die) : (s.updDie d f).mem = s.mem := rfl
@[simp] theorem State.updDie_ue (s : State) (d : Nat) (f : Die → Die) : (s.updDie d f).ue = s.ue := rfl
@[simp] theorem State.updDie_homeVer (s : State) (d : Nat) (f : Die → Die) : (s.updDie d f).homeVer = s.homeVer := rfl
@[simp] theorem State.updDie_owner (s : State) (d : Nat) (f : Die → Die) : (s.updDie d f).owner = s.owner := rfl
@[simp] theorem State.updDie_fresh (s : State) (d : Nat) (f : Die → Die) : (s.updDie d f).fresh = s.fresh := rfl
@[simp] theorem State.updDie_regs (s : State) (d : Nat) (f : Die → Die) : (s.updDie d f).regs = s.regs := rfl
@[simp] theorem State.updDie_focus (s : State) (d : Nat) (f : Die → Die) : (s.updDie d f).focus = s.focus := rfl
@[simp] theorem State.updDie_boxFocus (s : State) (d : Nat) (f : Die → Die) : (s.updDie d f).boxFocus = s.boxFocus := rfl
@[simp] theorem State.updDie_agenda (s : State) (d : Nat) (f : Die → Die) : (s.updDie d f).agenda = s.agenda := rfl
@[simp] theorem State.updDie_arg (s : State) (d : Nat) (f : Die → Die) : (s.updDie d f).arg = s.arg := rfl
@[simp] theorem State.updDie_eager (s : State) (d : Nat) (f : Die → Die) : (s.updDie d f).eager = s.eager := rfl
@[simp] theorem State.updDie_openLats (s : State) (d : Nat) (f : Die → Die) : (s.updDie d f).openLats = s.openLats := rfl

/-! ### `State.updPkg` -/

@[simp] theorem State.updPkg_cores (s : State) (f : Package → Package) : (s.updPkg f).cores = s.cores := rfl
@[simp] theorem State.updPkg_clusters (s : State) (f : Package → Package) : (s.updPkg f).clusters = s.clusters := rfl
@[simp] theorem State.updPkg_dies (s : State) (f : Package → Package) : (s.updPkg f).dies = s.dies := rfl
@[simp] theorem State.updPkg_vfs (s : State) (f : Package → Package) : (s.updPkg f).vfs = s.vfs := rfl
@[simp] theorem State.updPkg_boxes (s : State) (f : Package → Package) : (s.updPkg f).boxes = s.boxes := rfl
@[simp] theorem State.updPkg_experts (s : State) (f : Package → Package) : (s.updPkg f).experts = s.experts := rfl
@[simp] theorem State.updPkg_mem (s : State) (f : Package → Package) : (s.updPkg f).mem = s.mem := rfl
@[simp] theorem State.updPkg_ue (s : State) (f : Package → Package) : (s.updPkg f).ue = s.ue := rfl
@[simp] theorem State.updPkg_homeVer (s : State) (f : Package → Package) : (s.updPkg f).homeVer = s.homeVer := rfl
@[simp] theorem State.updPkg_owner (s : State) (f : Package → Package) : (s.updPkg f).owner = s.owner := rfl
@[simp] theorem State.updPkg_fresh (s : State) (f : Package → Package) : (s.updPkg f).fresh = s.fresh := rfl
@[simp] theorem State.updPkg_regs (s : State) (f : Package → Package) : (s.updPkg f).regs = s.regs := rfl
@[simp] theorem State.updPkg_focus (s : State) (f : Package → Package) : (s.updPkg f).focus = s.focus := rfl
@[simp] theorem State.updPkg_boxFocus (s : State) (f : Package → Package) : (s.updPkg f).boxFocus = s.boxFocus := rfl
@[simp] theorem State.updPkg_agenda (s : State) (f : Package → Package) : (s.updPkg f).agenda = s.agenda := rfl
@[simp] theorem State.updPkg_arg (s : State) (f : Package → Package) : (s.updPkg f).arg = s.arg := rfl
@[simp] theorem State.updPkg_eager (s : State) (f : Package → Package) : (s.updPkg f).eager = s.eager := rfl
@[simp] theorem State.updPkg_openLats (s : State) (f : Package → Package) : (s.updPkg f).openLats = s.openLats := rfl

/-! ### `State.poke` -/

@[simp] theorem State.poke_cores (s : State) (a : Nat) (bs : List Byte) : (s.poke a bs).cores = s.cores := rfl
@[simp] theorem State.poke_clusters (s : State) (a : Nat) (bs : List Byte) : (s.poke a bs).clusters = s.clusters := rfl
@[simp] theorem State.poke_dies (s : State) (a : Nat) (bs : List Byte) : (s.poke a bs).dies = s.dies := rfl
@[simp] theorem State.poke_vfs (s : State) (a : Nat) (bs : List Byte) : (s.poke a bs).vfs = s.vfs := rfl
@[simp] theorem State.poke_boxes (s : State) (a : Nat) (bs : List Byte) : (s.poke a bs).boxes = s.boxes := rfl
@[simp] theorem State.poke_experts (s : State) (a : Nat) (bs : List Byte) : (s.poke a bs).experts = s.experts := rfl
@[simp] theorem State.poke_pkg (s : State) (a : Nat) (bs : List Byte) : (s.poke a bs).pkg = s.pkg := rfl
@[simp] theorem State.poke_homeVer (s : State) (a : Nat) (bs : List Byte) : (s.poke a bs).homeVer = s.homeVer := rfl
@[simp] theorem State.poke_owner (s : State) (a : Nat) (bs : List Byte) : (s.poke a bs).owner = s.owner := rfl
@[simp] theorem State.poke_fresh (s : State) (a : Nat) (bs : List Byte) : (s.poke a bs).fresh = s.fresh := rfl
@[simp] theorem State.poke_regs (s : State) (a : Nat) (bs : List Byte) : (s.poke a bs).regs = s.regs := rfl
@[simp] theorem State.poke_focus (s : State) (a : Nat) (bs : List Byte) : (s.poke a bs).focus = s.focus := rfl
@[simp] theorem State.poke_boxFocus (s : State) (a : Nat) (bs : List Byte) : (s.poke a bs).boxFocus = s.boxFocus := rfl
@[simp] theorem State.poke_agenda (s : State) (a : Nat) (bs : List Byte) : (s.poke a bs).agenda = s.agenda := rfl
@[simp] theorem State.poke_arg (s : State) (a : Nat) (bs : List Byte) : (s.poke a bs).arg = s.arg := rfl
@[simp] theorem State.poke_eager (s : State) (a : Nat) (bs : List Byte) : (s.poke a bs).eager = s.eager := rfl
@[simp] theorem State.poke_openLats (s : State) (a : Nat) (bs : List Byte) : (s.poke a bs).openLats = s.openLats := rfl

end Sys2Proof.Machine
end

