-- ==== Sys2Proof/Laws/Words.lean ====
section
/-! SUPPORT. Cores of the state, and how a word issues and completes: one lemma for each shared operation. -/

namespace Sys2Proof.Machine

open Sys2Proof

/-! ### Tables -/

theorem rowsSet_rowsSet {α : Type} (n : Nat) (v w : α) (l : List (Nat × α)) :
    rowsSet n v (rowsSet n w l) = rowsSet n v l := by
  induction l with
  | nil => simp [rowsSet]
  | cons h t ih =>
    obtain ⟨k, x⟩ := h
    simp only [rowsSet]
    split
    · simp [rowsSet]
    · split
      · simp [rowsSet]
      · simp [rowsSet, *]

@[simp] theorem tab_set_set {α : Type} (t : Tab α) (n : Nat) (v w : α) : (t.set n w).set n v = t.set n v := by
  simp [Tab.set, rowsSet_rowsSet]

/-! ### Cores -/

@[simp] theorem core_setCore_same (s : State) (c : CoreId) (x : Core) : (s.setCore c x).core c = x := by
  simp [State.setCore, State.core]

theorem core_setCore_other (s : State) {c d : CoreId} (x : Core) (h : d ≠ c) : (s.setCore c x).core d = s.core d := by
  have : c.toNat ≠ d.toNat := fun e => h (BitVec.eq_of_toNat_eq e.symm)
  simp [State.setCore, State.core, this]

@[simp] theorem me_setCore (s : State) (x : Core) : (s.setCore s.focus x).me = x := core_setCore_same s s.focus x

@[simp] theorem setCore_setCore (s : State) (c : CoreId) (x y : Core) : (s.setCore c x).setCore c y = s.setCore c y := by
  simp [State.setCore]

@[simp] theorem me_updMe (s : State) (f : Core → Core) : (s.updMe f).me = f s.me := me_setCore s (f s.me)

theorem updMe_eq (s : State) (f : Core → Core) : s.updMe f = s.setCore s.focus (f s.me) := rfl

@[simp] theorem updMe_updMe (s : State) (f g : Core → Core) : (s.updMe f).updMe g = s.updMe fun c => g (f c) := by
  show (s.setCore s.focus _).setCore s.focus (g (s.setCore s.focus _).me) = _
  simp [updMe_eq, State.me]

@[simp] theorem me_setCore_setCore (s : State) (x y : Core) : (s.setCore s.focus x).setCore s.focus y = s.setCore s.focus y :=
  setCore_setCore s s.focus x y

@[simp] theorem core_updMe_other (s : State) (f : Core → Core) {c : CoreId} (h : c ≠ s.focus) : (s.updMe f).core c = s.core c :=
  core_setCore_other s _ h

/-! ### Lanes -/

theorem laneIdx_inj {l k : Lane} (h : laneIdx l = laneIdx k) : l = k := by
  cases l <;> cases k <;> simp_all [laneIdx]

@[simp] theorem lane_updLane_same (c : Core) (l : Lane) (f : LaneSt → LaneSt) : (c.updLane l f).lane l = f (c.lane l) := by
  simp [Core.updLane, Core.lane]

@[simp] theorem lane_updLane_other (c : Core) {l k : Lane} (f : LaneSt → LaneSt) (h : k ≠ l) :
    (c.updLane l f).lane k = c.lane k := by
  have : laneIdx l ≠ laneIdx k := fun e => h (laneIdx_inj e.symm)
  simp [Core.updLane, Core.lane, this]

/-! ### Time does not depend on the cores -/

@[simp] theorem now_setCore (s : State) (x : Core) : (s.setCore s.focus x).now = s.now := rfl
@[simp] theorem now_updMe (s : State) (f : Core → Core) : (s.updMe f).now = s.now := rfl

/-! ### Issue and completion -/

/-- A word that may issue passes the conditions of issue. -/
theorem mayIssue_ok {l : Lane} {keys : List Nat} {s : State} (h : Issues l keys s) : mayIssue l keys s = .ok () := by
  obtain ⟨h1, h2, h3, h4⟩ := h
  have hk : needKeys (if l == .s then keys ++ (keys.filter (· < 32)).map kSv else keys) s = .ok () := by
    unfold needKeys
    rw [if_pos]
    rw [List.all_eq_true]
    intro k hk
    split at hk
    next hl =>
      rw [List.mem_append, List.mem_map] at hk
      rcases hk with hk | ⟨n, hn, rfl⟩
      · exact h3 k hk
      · rw [List.mem_filter] at hn
        exact h4 (by simpa using hl) n hn.1 (by simpa using hn.2)
    · exact h3 k hk
  unfold mayIssue
  rw [if_neg (by simp [h1]), hk]
  simp [h2, bind, Except.bind]

/-- A word that issues, and whose effect is `t`, completes. -/
theorem word_next {l : Lane} {keys : List Nat} {s t : State} {eff : Eff} (h : Issues l keys s)
    (he : eff (s.starts l) = .ok t) : word l keys eff s = .next (t.retire l) := by
  simp [word, mayIssue_ok h, he, answer, bind, Except.bind, Except.map]

/-- A word that issues and finds a cause raises it. -/
theorem word_trap {l : Lane} {keys : List Nat} {s : State} {eff : Eff} {c : Cause} {v : Word} (h : Issues l keys s)
    (he : eff (s.starts l) = .error (.trap c v)) : word l keys eff s = .next (s.raise l c v) := by
  simp [word, mayIssue_ok h, he, answer, bind, Except.bind, Except.map]

/-- What a word can do whose effect, once it issues, never stops: it raises SCHED_MISS for a result that cannot be read, it
waits for it, or it completes. -/
theorem word_cases {l : Lane} {keys : List Nat} {s t : State} {eff : Eff} (h : word l keys eff s = .next t)
    (ho : s.me.overdraw = false) (he : ∀ u, ∃ v, eff u = .ok v) :
    t = s.raise l .schedMiss s.cycIn ∨ t = s.holdLane l ∨ ∃ u, eff (s.starts l) = .ok u ∧ t = u.retire l := by
  obtain ⟨v, hv⟩ := he (s.starts l)
  by_cases hw : (s.lane l).waiting = true
  · have : mayIssue l keys s = .ok () := by simp [mayIssue, hw]
    simp [word, this, hv, answer, bind, Except.bind, Except.map] at h
    exact .inr (.inr ⟨v, hv, h.symm⟩)
  · have hm : ∀ ks, needKeys ks s = .ok () ∨ needKeys ks s = .error s.notReady := by
      intro ks; unfold needKeys; split <;> simp
    unfold word mayIssue at h
    rw [if_neg hw] at h
    rcases hm (if l == .s then keys ++ (keys.filter (· < 32)).map kSv else keys) with hk | hk <;> rw [hk] at h
    · simp [ho, hv, answer, bind, Except.bind, Except.map] at h
      exact .inr (.inr ⟨v, hv, h.symm⟩)
    · simp only [bind, Except.bind, State.notReady] at h
      split at h <;> simp [answer] at h
      · exact .inl h.symm
      · exact .inr (.inl h.symm)

/-- The equivalence point that a word notes, and its lane, are all that changes before its effect. -/
theorem starts_eq (s : State) (l : Lane) :
    ∃ e, s.starts l = s.updMe fun c => { c with eqj := e, lanes := c.lanes.upd (laneIdx l) fun x => { x with npc := none } } := by
  unfold State.starts State.notePoint State.updLane
  split
  · split
    · exact ⟨_, updMe_updMe s _ _⟩
    · exact ⟨s.me.eqj, rfl⟩
  · exact ⟨s.me.eqj, rfl⟩

@[simp] theorem rdS_starts (s : State) (l : Lane) (n : SReg) : (s.starts l).rdS n = s.rdS n := by
  obtain ⟨e, h⟩ := starts_eq s l; rw [h]; cases l <;> simp [State.rdS, Core.src, State.lane, Core.lane, laneIdx]

@[simp] theorem focus_starts (s : State) (l : Lane) : (s.starts l).focus = s.focus := by
  obtain ⟨e, h⟩ := starts_eq s l; rw [h]; rfl

@[simp] theorem now_starts (s : State) (l : Lane) : (s.starts l).now = s.now := by
  obtain ⟨e, h⟩ := starts_eq s l; rw [h]; rfl

@[simp] theorem ctl_starts (s : State) (l : Lane) : (s.starts l).me.ctl = s.me.ctl := by
  obtain ⟨e, h⟩ := starts_eq s l; rw [h]; simp

@[simp] theorem regs_starts (s : State) (l : Lane) : (s.starts l).me.r = s.me.r := by
  obtain ⟨e, h⟩ := starts_eq s l; rw [h]; simp

@[simp] theorem eager_starts (s : State) (l : Lane) : (s.starts l).eager = s.eager := by
  obtain ⟨e, h⟩ := starts_eq s l; rw [h]; rfl

theorem lane_starts (s : State) (l : Lane) : (s.starts l).lane l = { s.lane l with npc := none } := by
  obtain ⟨e, h⟩ := starts_eq s l; rw [h]; simp [State.lane, Core.lane]

@[simp] theorem pc_starts (s : State) (l : Lane) : ((s.starts l).lane l).pc = (s.lane l).pc := by rw [lane_starts]

@[simp] theorem npc_starts (s : State) (l : Lane) : ((s.starts l).lane l).npc = none := by rw [lane_starts]

/-! ### The shared forms of the S lane -/

theorem sOp1_next {d a : SReg} {lat : Nat} {f : Word → Word} {s : State} (h : Issues .s [kS a] s) :
    sOp1 d a lat f s = .next (((s.starts .s).wrS d (f (s.rdS a)) lat).retire .s) := by
  unfold sOp1; rw [word_next (t := (s.starts .s).wrS d (f (s.rdS a)) lat) h (by simp)]

theorem sOp2_next {d a b : SReg} {lat : Nat} {f : Word → Word → Word} {s : State} (h : Issues .s [kS a, kS b] s) :
    sOp2 d a b lat f s = .next (((s.starts .s).wrS d (f (s.rdS a) (s.rdS b)) lat).retire .s) := by
  unfold sOp2; rw [word_next (t := (s.starts .s).wrS d (f (s.rdS a) (s.rdS b)) lat) h (by simp)]

theorem sDiv_next {d a b : SReg} {f : Word → Word → Word} {s : State} (h : Issues .s [kS a, kS b, kDiv] s) :
    sDiv d a b f s = .next ((((s.starts .s).wrS d (f (s.rdS a) (s.rdS b)) 34).setReady kDiv 34).retire .s) := by
  unfold sDiv
  rw [word_next (t := ((s.starts .s).wrS d (f (s.rdS a) (s.rdS b)) 34).setReady kDiv 34) h (by simp)]

/-- An answer is a next state: a word completes, waits, or takes a trap. -/
theorem answer_next (l : Lane) (s : State) (e : Except Halt State) : ∃ t, answer l s e = .next t := by
  unfold answer; split <;> exact ⟨_, rfl⟩

end Sys2Proof.Machine
end

