-- ==== Sys2Proof/Laws/Frames.lean ====
section
/-! SUPPORT. Frames compose, and what each shared operation of a word keeps. -/

namespace Sys2Proof.Machine

open Sys2Proof

/-! ### The core in focus alone -/

theorem OnlyCore.refl (s : State) : OnlyCore s s := ⟨rfl, fun _ _ => rfl⟩

theorem OnlyCore.focus {s t : State} (h : OnlyCore s t) : t.focus = s.focus := by
  have := congrArg State.focus h.rest
  exact this

theorem OnlyCore.mem {s t : State} (h : OnlyCore s t) : t.mem = s.mem := by
  have := congrArg State.mem h.rest
  exact this

theorem OnlyCore.memory {s t : State} (h : OnlyCore s t) : SameMemory s t := fun a => by rw [h.mem]

theorem OnlyCore.trans {s t u : State} (h : OnlyCore s t) (k : OnlyCore t u) : OnlyCore s u where
  rest := by
    have e := congrArg (fun x : State => { x with cores := s.cores }) k.rest
    simpa using e.trans h.rest
  others c hc := (k.others c (by rw [h.focus]; exact hc)).trans (h.others c hc)

theorem OnlyCore.updMe (s : State) (f : Core → Core) : OnlyCore s (s.updMe f) :=
  ⟨rfl, fun _ hc => core_updMe_other s f hc⟩

/-! ### Scalars -/

theorem ScalarFrame.refl (d : SReg) (s : State) : ScalarFrame d s s :=
  ⟨OnlyCore.refl s, rfl, fun _ _ => rfl, fun _ _ => rfl, fun _ => rfl⟩

theorem ScalarFrame.trans {d : SReg} {s t u : State} (h : ScalarFrame d s t) (k : ScalarFrame d t u) : ScalarFrame d s u where
  outside := h.outside.trans k.outside
  core := by
    have e := k.core
    rw [h.core] at e
    exact e
  regs n hn := (k.regs n hn).trans (h.regs n hn)
  lanes l hl := (k.lanes l hl).trans (h.lanes l hl)
  memory a := (k.memory a).trans (h.memory a)

/-- A change of the core in focus that a scalar frame allows. -/
theorem ScalarFrame.updMe {d : SReg} (s : State) (f : Core → Core)
    (hc : f s.me = { s.me with r := { s.me.r with s := (f s.me).r.s, ready := (f s.me).r.ready }, lanes := (f s.me).lanes, eqj := (f s.me).eqj })
    (hr : ∀ n, n ≠ d.toNat ∨ n = 0 → (f s.me).r.s.get n = s.me.r.s.get n)
    (hl : ∀ l, l ≠ .s → (f s.me).lane l = s.me.lane l) : ScalarFrame d s (s.updMe f) where
  outside := OnlyCore.updMe s f
  core := by rw [me_updMe]; exact hc
  regs n hn := by rw [me_updMe]; exact hr n hn
  lanes l h := by simp only [State.lane, me_updMe]; exact hl l h
  memory _ := rfl

/-- A change of the S lane's record. -/
theorem ScalarFrame.updLane (d : SReg) (s : State) (f : LaneSt → LaneSt) : ScalarFrame d s (s.updLane .s f) :=
  .updMe s _ rfl (fun _ _ => rfl) fun _ h => lane_updLane_other _ _ h

theorem ScalarFrame.starts (d : SReg) (s : State) : ScalarFrame d s (s.starts .s) := by
  obtain ⟨e, h⟩ := starts_eq s .s
  rw [h]
  exact .updMe s _ rfl (fun _ _ => rfl) fun l hl => lane_updLane_other s.me _ hl

theorem ScalarFrame.wrS (d : SReg) (s : State) (v : Word) (lat : Nat) : ScalarFrame d s (s.wrS d v lat) := by
  unfold State.wrS
  split
  · exact .refl d s
  · next h =>
    refine .updMe s _ rfl ?_ fun _ _ => rfl
    intro n hn
    have : d.toNat ≠ 0 := fun e => h (BitVec.eq_of_toNat_eq e)
    exact Tab.get_set_ne _ _ (by omega)

theorem ScalarFrame.setReady (d : SReg) (s : State) (k lat : Nat) : ScalarFrame d s (s.setReady k lat) :=
  .updMe s (fun c => { c with r := { c.r with ready := c.r.ready.set k (some (s.now + lat)) } }) rfl (fun _ _ => rfl) fun _ _ => rfl

theorem ScalarFrame.retire (d : SReg) (s : State) : ScalarFrame d s (s.retire .s) :=
  .updMe s _ rfl (fun _ _ => rfl) fun _ h => lane_updLane_other s.me _ h

theorem ScalarFrame.holdLane (d : SReg) (s : State) : ScalarFrame d s (s.holdLane .s) := .updLane d s _

/-! ### Where a lane goes on -/

theorem pc_retire (s : State) (l : Lane) :
    ((s.retire l).lane l).pc = match (s.lane l).npc with | some t => t | none => (s.lane l).pc + laneStep l := by
  simp only [State.retire, State.lane, me_updMe, lane_updLane_same] <;> cases (s.me.lane l).npc <;> rfl

theorem pc_retire_none {s : State} {l : Lane} (h : (s.lane l).npc = none) :
    ((s.retire l).lane l).pc = (s.lane l).pc + laneStep l := by
  rw [pc_retire, h]

@[simp] theorem lane_wrS (s : State) (d : SReg) (v : Word) (n : Nat) (l : Lane) : (s.wrS d v n).lane l = s.lane l := by
  unfold State.wrS; split
  · rfl
  · simp [State.lane, State.updR, Core.lane]

@[simp] theorem lane_updLane (s : State) (l : Lane) (f : LaneSt → LaneSt) : (s.updLane l f).lane l = f (s.lane l) := by
  simp [State.lane, State.updLane]

@[simp] theorem clen_starts (s : State) (l k : Lane) : (s.starts l).me.clen k = s.me.clen k := by simp [Core.clen]

theorem jumpTo_ok {s : State} {l : Lane} {t : BitVec 32} (h : t.toNat < s.me.clen l) :
    jumpTo l t s = .ok (s.updLane l fun x => { x with npc := some t }) := by
  rw [jumpTo, if_pos h]

theorem jumpTo_out {s : State} {l : Lane} {t : BitVec 32} (h : s.me.clen l ≤ t.toNat) :
    jumpTo l t s = .error (.trap .illegalOp (zextW t)) := by
  rw [jumpTo, if_neg (Nat.not_lt.2 h)]

theorem s_wrS {s : State} {d : SReg} (h : d ≠ 0) (v : Word) (n : Nat) : (s.wrS d v n).me.r.s.get d.toNat = v := by
  rw [State.wrS, if_neg h]
  simp [State.updR]

@[simp] theorem regs_retire (s : State) (l : Lane) : (s.retire l).me.r = s.me.r := by
  simp [State.retire, Core.updLane]

@[simp] theorem regs_updLane (s : State) (l : Lane) (f : LaneSt → LaneSt) : (s.updLane l f).me.r = s.me.r := by
  simp [State.updLane, Core.updLane]

end Sys2Proof.Machine
end

