-- ==== Sys2Proof/Laws/Memory.lean ====
section
/-! SUPPORT. Memory: a read after a write gives the bytes written and, elsewhere, what stood there; every operation keeps the
canonical form; equal bytes are equal memories. -/

namespace Sys2Proof.Machine

open Sys2Proof

/-! ### One byte -/

theorem memGet_append (m n : Memory) (a : Nat) :
    memGet (m ++ n) a = if m.any (fun c => c.1 == a) then memGet m a else memGet n a := by
  induction m with
  | nil => simp
  | cons c t ih =>
    obtain ⟨k, b⟩ := c
    by_cases h : k = a
    · simp [memGet, h]
    · simp [memGet, h, ih]

theorem memGet_filter {p : Nat → Bool} {a : Nat} (h : p a = true) (m : Memory) :
    memGet (m.filter fun c => p c.1) a = memGet m a := by
  induction m with
  | nil => rfl
  | cons c t ih =>
    obtain ⟨k, b⟩ := c
    by_cases hk : k = a
    · subst hk; simp [List.filter, h, memGet]
    · by_cases hp : p k = true
      · simp [List.filter, hp, memGet, hk, ih]
      · simp [List.filter, hp, memGet, hk, ih]

theorem memGet_unlisted {m : Memory} {a : Nat} (h : ∀ c ∈ m, c.1 ≠ a) : memGet m a = unlisted := by
  induction m with
  | nil => rfl
  | cons c t ih =>
    obtain ⟨k, b⟩ := c
    have : k ≠ a := h (k, b) (by simp)
    simp [memGet, this, ih fun c hc => h c (by simp [hc])]

theorem cellsOf_keys {a : Nat} {bs : List Byte} {c : Host.Cell} (h : c ∈ cellsOf a bs) : a ≤ c.1 ∧ c.1 < a + bs.length := by
  induction bs generalizing a with
  | nil => simp [cellsOf] at h
  | cons b t ih =>
    simp only [cellsOf] at h
    split at h
    · have := ih h; simp only [List.length_cons]; omega
    · simp only [List.mem_cons] at h
      rcases h with rfl | h
      · simp
      · have := ih h; simp only [List.length_cons]; omega

theorem memGet_cellsOf (a : Nat) (bs : List Byte) (k : Nat) :
    memGet (cellsOf a bs) k = if a ≤ k ∧ k < a + bs.length then bs.getD (k - a) 0 else unlisted := by
  induction bs generalizing a with
  | nil => simp [cellsOf, memGet] <;> (intros; omega)
  | cons b t ih =>
    simp only [cellsOf, List.length_cons]
    by_cases hk : k = a
    · subst hk
      split
      · next hb =>
        rw [memGet_unlisted]
        · simp [hb]
        · intro c hc; have := cellsOf_keys hc; omega
      · simp [memGet]
    · have e : (if b = unlisted then cellsOf (a + 1) t else (a, b) :: cellsOf (a + 1) t) = cellsOf (a + 1) t ∨
          (if b = unlisted then cellsOf (a + 1) t else (a, b) :: cellsOf (a + 1) t) = (a, b) :: cellsOf (a + 1) t := by
        split <;> simp
      have g : memGet (if b = unlisted then cellsOf (a + 1) t else (a, b) :: cellsOf (a + 1) t) k = memGet (cellsOf (a + 1) t) k := by
        rcases e with e | e <;> rw [e]
        simp [memGet, Ne.symm hk]
      rw [g, ih]
      by_cases hr : a + 1 ≤ k ∧ k < a + 1 + t.length
      · rw [if_pos hr, if_pos (by omega), show k - a = (k - (a + 1)) + 1 by omega]; simp
      · rw [if_neg hr, if_neg (by omega)]

/-- A byte after a write of bytes. -/
theorem memGet_memWrite (m : Memory) (a : Nat) (bs : List Byte) (k : Nat) :
    memGet (memWrite m a bs) k = if a ≤ k ∧ k < a + bs.length then bs.getD (k - a) 0 else memGet m k := by
  unfold memWrite
  rw [memGet_append, memGet_append]
  have hlow : ∀ c ∈ m.filter (fun c => decide (c.1 < a)), c.1 < a := by intro c hc; simpa using (List.mem_filter.1 hc).2
  have hhigh : ∀ c ∈ m.filter (fun c => decide (a + bs.length ≤ c.1)), a + bs.length ≤ c.1 := by
    intro c hc; simpa using (List.mem_filter.1 hc).2
  by_cases h1 : k < a
  · have hl : memGet (m.filter fun c => decide (c.1 < a)) k = memGet m k :=
      memGet_filter (p := fun x => decide (x < a)) (by simpa using h1) m
    have hn : memGet (cellsOf a bs) k = unlisted := memGet_unlisted fun c hc => by have := cellsOf_keys hc; omega
    have hn' : memGet (m.filter fun c => decide (a + bs.length ≤ c.1)) k = unlisted :=
      memGet_unlisted fun c hc => by have := hhigh c hc; omega
    rw [if_neg (show ¬ (a ≤ k ∧ k < a + bs.length) by omega), hl, hn, hn']
    split
    · split
      · rfl
      · next h h' =>
        rw [List.any_append, Bool.or_eq_true] at h
        rcases h with h | h
        · exact absurd h h'
        · obtain ⟨c, hc, e⟩ := List.any_eq_true.1 h
          have := cellsOf_keys hc; simp at e; omega
    · next h =>
      rw [← hl, memGet_unlisted]
      intro c hc e
      exact h (List.any_eq_true.2 ⟨c, List.mem_append_left _ hc, by simpa using e⟩)
  · have hl : memGet (m.filter fun c => decide (c.1 < a)) k = unlisted :=
      memGet_unlisted fun c hc => by have := hlow c hc; omega
    have hla : (m.filter fun c => decide (c.1 < a)).any (fun c => c.1 == k) = false := by
      rw [List.any_eq_false]; intro c hc; have := hlow c hc; simp; omega
    by_cases h2 : k < a + bs.length
    · have hh : memGet (m.filter fun c => decide (a + bs.length ≤ c.1)) k = unlisted :=
        memGet_unlisted fun c hc => by have := hhigh c hc; omega
      rw [hh, if_pos (show a ≤ k ∧ k < a + bs.length by omega)]
      have hcell := memGet_cellsOf a bs k
      rw [if_pos (show a ≤ k ∧ k < a + bs.length by omega)] at hcell
      split
      · rw [hla]; simp only [Bool.false_eq_true, if_false]; exact hcell
      · next h =>
        rw [← hcell, memGet_unlisted]
        intro c hc e
        exact h (List.any_eq_true.2 ⟨c, List.mem_append_right _ hc, by simpa using e⟩)
    · have hh : memGet (m.filter fun c => decide (a + bs.length ≤ c.1)) k = memGet m k :=
        memGet_filter (p := fun x => decide (a + bs.length ≤ x)) (by simpa using (by omega : a + bs.length ≤ k)) m
      rw [if_neg (show ¬ (a ≤ k ∧ k < a + bs.length) by omega), hh]
      split
      · next h =>
        obtain ⟨c, hc, e⟩ := List.any_eq_true.1 h
        simp at e
        rcases List.mem_append.1 hc with hc | hc
        · have := hlow c hc; omega
        · have := cellsOf_keys hc; omega
      · rfl

theorem memGet_memClear (m : Memory) (a n k : Nat) :
    memGet (memClear m a n) k = if a ≤ k ∧ k < a + n then unlisted else memGet m k := by
  unfold memClear
  by_cases h : k < a ∨ a + n ≤ k
  · rw [if_neg (by omega)]
    exact memGet_filter (p := fun x => decide (x < a ∨ a + n ≤ x)) (by simpa using h) m
  · rw [if_pos (by omega), memGet_unlisted]
    intro c hc e
    have := (List.mem_filter.1 hc).2
    simp at this; omega

/-! ### Runs of bytes -/

theorem cellsRead_eq (m : Memory) (a n : Nat) : cellsRead m a n = (List.range n).map fun i => memGet m (a + i) := by
  induction n generalizing a with
  | zero => rfl
  | succ n ih =>
    rw [cellsRead, ih, List.range_succ_eq_map]
    simp only [List.map_cons, List.map_map, Nat.add_zero]
    congr 1
    apply List.map_congr_left
    intro i _; simp only [Function.comp]; congr 1; omega

/-- The bytes read are the bytes at their keys. -/
theorem memRead_eq (m : Memory) (a n : Nat) : memRead m a n = (List.range n).map fun i => memGet m (a + i) := by
  unfold memRead
  rw [cellsRead_eq]
  apply List.map_congr_left
  intro i hi
  have hi := List.mem_range.1 hi
  exact memGet_filter (p := fun x => decide (a ≤ x) && decide (x < a + n)) (by simp; omega) m

theorem length_memRead (m : Memory) (a n : Nat) : (memRead m a n).length = n := by simp [memRead_eq]

/-- A read of just the bytes that a write has put there. -/
theorem memRead_memWrite (m : Memory) (a : Nat) (bs : List Byte) : memRead (memWrite m a bs) a bs.length = bs := by
  rw [memRead_eq]
  apply List.ext_getElem
  · simp
  · intro i h1 h2
    simp only [List.length_map, List.length_range] at h1
    simp [memGet_memWrite, h1, List.getD_eq_getElem?_getD]

/-! ### The canonical form -/

theorem memOk_cons {lo : Option Nat} {c : Host.Cell} {m : Memory} :
    memOk lo (c :: m) = true ↔ (∀ l, lo = some l → l < c.1) ∧ c.2 ≠ unlisted ∧ memOk (some c.1) m = true := by
  obtain ⟨k, b⟩ := c
  cases lo <;> simp [memOk, and_assoc]

/-- A canonical list of cells lists every key above those before it. -/
theorem memOk_weaken {l k : Nat} {m : Memory} (h : memOk (some k) m = true) (hl : l ≤ k) : memOk (some l) m = true := by
  cases m with
  | nil => rfl
  | cons c t =>
    rw [memOk_cons] at h ⊢
    exact ⟨fun x hx => by cases hx; have := h.1 k rfl; omega, h.2⟩

theorem memOk_above {k : Nat} {m : Memory} (h : memOk (some k) m = true) {c : Host.Cell} (hc : c ∈ m) : k < c.1 := by
  induction m generalizing k with
  | nil => simp at hc
  | cons d t ih =>
    rw [memOk_cons] at h
    rcases List.mem_cons.1 hc with rfl | hc
    · exact h.1 k rfl
    · have := ih h.2.2 hc; have := h.1 k rfl; omega

theorem memOk_filter {lo : Option Nat} {m : Memory} (p : Host.Cell → Bool) (h : memOk lo m = true) :
    memOk lo (m.filter p) = true := by
  induction m generalizing lo with
  | nil => simp [memOk]
  | cons c t ih =>
    rw [memOk_cons] at h
    by_cases hp : p c = true
    · rw [List.filter_cons_of_pos hp, memOk_cons]; exact ⟨h.1, h.2.1, ih h.2.2⟩
    · rw [List.filter_cons_of_neg hp]
      have := ih h.2.2
      cases lo with
      | none => cases hf : t.filter p with
        | nil => rfl
        | cons d u => rw [hf, memOk_cons] at this; rw [memOk_cons]; exact ⟨by simp, this.2⟩
      | some l => exact memOk_weaken this (Nat.le_of_lt (h.1 l rfl))

theorem memOk_append {lo : Option Nat} {m n : Memory} (hm : memOk lo m = true) (hn : memOk none n = true)
    (hlo : ∀ l, lo = some l → ∀ c ∈ n, l < c.1) (hx : ∀ c ∈ m, ∀ d ∈ n, c.1 < d.1) : memOk lo (m ++ n) = true := by
  induction m generalizing lo with
  | nil =>
    cases n with
    | nil => simp [memOk]
    | cons d u =>
      rw [memOk_cons] at hn
      simp only [List.nil_append]
      rw [memOk_cons]
      exact ⟨fun l hl => hlo l hl d (by simp), hn.2⟩
  | cons c t ih =>
    rw [memOk_cons] at hm
    rw [List.cons_append, memOk_cons]
    refine ⟨hm.1, hm.2.1, ih hm.2.2 ?_ ?_⟩
    · intro l hl d hd; cases hl; exact hx c (by simp) d hd
    · intro d hd e he; exact hx d (by simp [hd]) e he

theorem memOk_cellsOf (a : Nat) (bs : List Byte) : memOk none (cellsOf a bs) = true := by
  induction bs generalizing a with
  | nil => simp [cellsOf, memOk]
  | cons b t ih =>
    simp only [cellsOf]
    split
    · exact ih _
    · next h =>
      rw [memOk_cons]
      refine ⟨by simp, h, ?_⟩
      have hk : ∀ c ∈ cellsOf (a + 1) t, a < c.1 := fun c hc => by have := cellsOf_keys hc; omega
      have := memOk_append (lo := some a) (m := []) (n := cellsOf (a + 1) t) (by simp [memOk]) (ih _)
        (fun l hl c hc => by cases hl; exact hk c hc) (by simp)
      simpa using this

/-- Writing bytes keeps the canonical form. -/
theorem memWrite_wf {m : Memory} (h : Memory.wf m = true) (a : Nat) (bs : List Byte) : Memory.wf (memWrite m a bs) = true := by
  unfold Memory.wf memWrite
  refine memOk_append (memOk_append (memOk_filter _ h) (memOk_cellsOf a bs) (by simp) ?_) (memOk_filter _ h) (by simp) ?_
  · intro c hc d hd
    have := cellsOf_keys hd; have : c.1 < a := by simpa using (List.mem_filter.1 hc).2
    omega
  · intro c hc d hd
    have : a + bs.length ≤ d.1 := by simpa using (List.mem_filter.1 hd).2
    rcases List.mem_append.1 hc with hc | hc
    · have : c.1 < a := by simpa using (List.mem_filter.1 hc).2
      omega
    · have := cellsOf_keys hc; omega

/-- Clearing bytes keeps the canonical form. -/
theorem memClear_wf {m : Memory} (h : Memory.wf m = true) (a n : Nat) : Memory.wf (memClear m a n) = true := memOk_filter _ h

theorem poke_wf {s : State} (h : Memory.wf s.mem = true) (a : Nat) (bs : List Byte) : Memory.wf (s.poke a bs).mem = true :=
  memWrite_wf h a bs

theorem reset_wf : Memory.wf State.reset.mem = true := rfl

theorem memGet_poke (s : State) (a : Nat) (bs : List Byte) (k : Nat) :
    memGet (s.poke a bs).mem k = if a ≤ k ∧ k < a + bs.length then bs.getD (k - a) 0 else memGet s.mem k :=
  memGet_memWrite s.mem a bs k

/-- Two canonical memories with the same bytes are equal. -/
theorem memory_ext {m n : Memory} {lo : Option Nat} (hm : memOk lo m = true) (hn : memOk lo n = true)
    (h : ∀ a, memGet m a = memGet n a) : m = n := by
  induction m generalizing n lo with
  | nil =>
    cases n with
    | nil => rfl
    | cons d u =>
      rw [memOk_cons] at hn
      have := h d.1
      simp [memGet] at this
      exact absurd this.symm hn.2.1
  | cons c t ih =>
    cases n with
    | nil =>
      rw [memOk_cons] at hm
      have := h c.1
      simp [memGet] at this
      exact absurd this hm.2.1
    | cons d u =>
      rw [memOk_cons] at hm hn
      have look : ∀ {k : Nat} {x : Memory}, memOk (some k) x = true → ∀ {a}, a ≤ k → memGet x a = unlisted := by
        intro k x hx a ha
        exact memGet_unlisted fun c hc => by have := memOk_above hx hc; omega
      have hk : c.1 = d.1 := by
        by_cases hlt : c.1 < d.1
        · have := h c.1
          simp only [memGet, if_pos, if_neg (show d.1 ≠ c.1 by omega)] at this
          rw [look hn.2.2 (by omega)] at this
          exact absurd this hm.2.1
        · by_cases hgt : d.1 < c.1
          · have := h d.1
            simp only [memGet, if_pos, if_neg (show c.1 ≠ d.1 by omega)] at this
            rw [look hm.2.2 (by omega)] at this
            exact absurd this.symm hn.2.1
          · omega
      have hv : c.2 = d.2 := by
        have := h c.1
        simpa [memGet, hk] using this
      have ht : t = u := by
        refine ih hm.2.2 (hk ▸ hn.2.2) fun a => ?_
        by_cases ha : a ≤ c.1
        · rw [look hm.2.2 ha, look hn.2.2 (hk ▸ ha)]
        · have := h a
          simpa [memGet, show c.1 ≠ a by omega, show d.1 ≠ a by omega] using this
      rw [ht, show c = d from Prod.ext hk hv]

end Sys2Proof.Machine
end

