-- ==== Sys2Proof/Laws/Access.lean ====
section
/-! SUPPORT. Accesses of the own scratchpad: where they go, and what the registration and the access leave. -/

namespace Sys2Proof.Machine

open Sys2Proof

theorem toNat_ownSpad {o : Nat} (h : o < 2 ^ 48) : (ownSpad o).toNat = 0xFF00000000000000 + o := by
  simp [ownSpad, BitVec.toNat_add]; omega

theorem decodeByte_own {s : State} {o : Nat} (wr : Bool) (h1 : s.me.ctl.pbReg ≤ o) (h2 : o < s.me.ctl.pbSpad) (h3 : o < 2 ^ 48) :
    decodeByte s s.focus (ownSpad o) wr = some (.spad s.focus true o) := by
  have ht := toNat_ownSpad h3
  have b57 : (bits (ownSpad o) 57 7).toNat = 0x7F := by
    simp only [bits, BitVec.extractLsb'_toNat, ht, Nat.shiftRight_eq_div_pow]; omega
  have b56 : (ownSpad o).getLsbD 56 = true := by
    rw [BitVec.getLsbD, ht, Nat.testBit_eq_decide_div_mod_eq]; simp; omega
  have b568 : bits (ownSpad o) 56 8 = 0xFF := by
    apply BitVec.eq_of_toNat_eq
    simp only [bits, BitVec.extractLsb'_toNat, ht, Nat.shiftRight_eq_div_pow]; simp; omega
  have b48 : (bits (ownSpad o) 48 8).toNat = 0 := by
    simp only [bits, BitVec.extractLsb'_toNat, ht, Nat.shiftRight_eq_div_pow]; omega
  have b0 : (bits (ownSpad o) 0 48).toNat = o := by
    simp only [bits, BitVec.extractLsb'_toNat, ht, Nat.shiftRight_eq_div_pow]; omega
  have c : ¬ (o < (s.core s.focus).ctl.pbReg ∨ (s.core s.focus).ctl.pbSpad ≤ o) := by
    have : s.core s.focus = s.me := rfl
    rw [this]; omega
  simp only [decodeByte, b57, b56, b568, b48, b0]
  simp [c]

theorem ownSpad_add (o i : Nat) : ownSpad o + BitVec.ofNat 64 i = ownSpad (o + i) := by
  simp [ownSpad, BitVec.ofNat_add, BitVec.add_assoc]

theorem decodeAddr_own {s : State} {o n : Nat} (wr : Bool) (h : OwnPool s o n) :
    decodeAddr s s.focus (ownSpad o) n wr = some (.spad s.focus true o) := by
  have := h.size; have := h.low; have := h.high; have := h.pool
  rw [decodeAddr, decodeByte_own wr h.low (by omega) (by omega), ownSpad_add,
    decodeByte_own wr (o := o + (n - 1)) (by omega) (by omega) (by omega)]
  simp [Target.base]

/-- An aligned access of the own scratchpad goes to the pool, and needs no translation. -/
theorem locate_own {s : State} {o n : Nat} (wr : Bool) (x : Bool) (h : OwnPool s o n) (ha : o % n = 0)
    (hn : n = 1 ∨ n = 2 ∨ n = 4 ∨ n = 8) :
    locate s.lanes (ownSpad o) n wr true x s =
      .ok ({ place := .scratch, key := keyPool s.focus o, global := false, scope := .core }, s) := by
  have hd := decodeAddr_own wr h
  have hp := h.pool
  have ht := toNat_ownSpad (o := o) (by omega)
  have hz : (ownSpad o).toNat % n = 0 := by
    rw [ht]; rcases hn with rfl | rfl | rfl | rfl <;> omega
  have e1 : s.lanes.core = s.focus := rfl
  have e2 : s.lanes.owner = .lanes := rfl
  have e3 : s.core s.focus = s.me := rfl
  simp only [locate, e1, hd, e2, e3, h.first, h.last, hz]
  simp [Target.scope]

theorem badWords_sound {s : State} (h : Sound s) (key n : Nat) : s.badWords key n = [] := by
  simp [State.badWords, h.1, h.2.1, h.2.2]

theorem reached_own {s : State} {l : Loc} (a : Word) (h : l.global = false) : reached l a s = .ok () := by
  simp [reached, h]

/-! ### Registration -/

/-- A registration changes the registrations, the core's own list of them, and nothing else. -/
structure Registers (s t : State) : Prop where
  rest : { t with cores := s.cores, regs := s.regs } = s
  others : ∀ c, c ≠ s.focus → t.core c = s.core c
  core : t.me = { s.me with region := t.me.region }

theorem register_ok {s : State} {key : Nat} (va : Word) (rd wr : Bool) (h : NoConflict s key) :
    ∃ t, register s.focus va key rd wr false s = .ok t ∧ Registers s t := by
  have hr : ∀ w, s.raceOn s.focus (key / 32) w = false := by
    intro w
    rw [State.raceOn, List.any_eq_false]
    intro r hrm
    by_cases hg : r.gran = key / 32
    · simp [h r hrm hg]
    · simp [hg]
  unfold register
  simp only [hr, Bool.and_false, Bool.or_false, Bool.false_and, Bool.false_eq_true, if_false]
  have reg : ∀ (f : Core → Core) (l : List Registration), (∀ c, f c = { c with region := (f c).region }) →
      Registers s { s.updCore s.focus f with regs := l } := by
    intro f l hf
    refine ⟨rfl, fun c hc => core_setCore_other s _ hc, ?_⟩
    have e : State.me { s.updCore s.focus f with regs := l } = f s.me := me_updMe s f
    rw [e]; exact hf s.me
  split
  all_goals
    split
    · exact ⟨s, rfl, rfl, fun _ _ => rfl, rfl⟩
    · exact ⟨_, rfl, reg _ _ fun _ => rfl⟩

theorem Registers.me_fields {s t : State} (h : Registers s t) : t.focus = s.focus ∧ t.mem = s.mem ∧ t.eager = s.eager ∧
    t.now = s.now ∧ t.pkg = s.pkg := by
  have e := h.rest
  have e1 := congrArg State.focus e
  have e2 := congrArg State.mem e
  have e3 := congrArg State.eager e
  have e4 := congrArg State.now e
  have e6 := congrArg State.pkg e
  exact ⟨e1, e2, e3, e4, e6⟩

theorem Registers.sound {s t : State} (h : Registers s t) (k : Sound s) : Sound t :=
  ⟨(congrArg State.ue h.rest).trans k.1, (congrArg State.ueOnce h.rest).trans k.2.1, h.me_fields.2.2.2.2 ▸ k.2.2⟩

theorem Registers.direct {l : Lane} {s t : State} (h : Registers s t) (k : Direct l s) : Direct l t where
  eager := h.me_fields.2.2.1.trans k.eager
  queue := by have e := congrArg (fun c : Core => c.lq.get (laneIdx l)) h.core; exact e.trans k.queue
  barrier := by have e := congrArg Core.barrier h.core; exact e.trans k.barrier

/-! ### Loads and stores -/

/-- An access of the own scratchpad waits for no other lane. -/
theorem Direct.atOnce {l : Lane} {s : State} (h : Direct l s) {a : Acc} (hp : a.place = .scratch) : s.atOnce l a = true := by
  simp [State.atOnce, h.eager, h.queue, Core.mayLeave, h.barrier, passes, Acc.path, hp]

theorem laneLoad_own {s : State} {o n : Nat} {l : Lane} (d : Dest) (repl : List Byte) (more : Nat → Nat) (he : Direct l s) (hs : Sound s)
    (h : OwnPool s o n) (ha : o % n = 0) (hn : n = 1 ∨ n = 2 ∨ n = 4 ∨ n = 8) (hc : NoConflict s (keyPool s.focus o)) :
    ∃ u, Registers s u ∧ laneLoad l (ownSpad o) n d repl true more s =
      .ok { lat := some 3, bad := [], st := u.deliver d (s.bytes (keyPool s.focus o) n) } := by
  obtain ⟨u, hu, hr⟩ := register_ok (ownSpad o) true false hc
  obtain ⟨f1, f2, f3, f4, f6⟩ := hr.me_fields
  have hsu : Sound u := hr.sound hs
  refine ⟨u, hr, ?_⟩
  simp only [laneLoad, locate_own false false h ha hn, bind, Except.bind, if_true, hu]
  rw [reached_own _ rfl]
  simp only [(hr.direct he).atOnce, if_true, badWords_sound hsu, loadLat, figure, readAcc, placeRead, replaced, List.isEmpty_nil, State.bytes, f2,
    List.filter_nil]

theorem laneStore_own {s : State} {o : Nat} {bs : List Byte} {l : Lane} (he : Direct l s) (hl : s.me.latch = none)
    (h : OwnPool s o bs.length) (ha : o % bs.length = 0) (hn : bs.length = 1 ∨ bs.length = 2 ∨ bs.length = 4 ∨ bs.length = 8)
    (hc : NoConflict s (keyPool s.focus o)) :
    ∃ u, Registers s u ∧ laneStore l (ownSpad o) bs true s = .ok (u.poke (keyPool s.focus o) bs) := by
  obtain ⟨u, hu, hr⟩ := register_ok (ownSpad o) false true hc
  have hlu : u.me.latch = none := (congrArg Core.latch hr.core).trans hl
  refine ⟨u, hr, ?_⟩
  simp only [laneStore, locate_own true false h ha hn, bind, Except.bind, if_true, hu]
  rw [reached_own _ rfl]
  simp only [(hr.direct he).atOnce, hlu, Option.isNone_none, Bool.and_true, if_true, placeWrite]

/-! ### Through the start of a word -/

theorem OwnPool.starts {s : State} {o n : Nat} (h : OwnPool s o n) (l : Lane) : OwnPool (s.starts l) o n := by
  have hs : (s.starts l).me.slotOwner = s.me.slotOwner := by
    obtain ⟨e, h⟩ := starts_eq s l; rw [h, me_updMe]; rfl
  have hc := ctl_starts s l
  exact ⟨h.size, hc ▸ h.low, hc ▸ h.high, h.pool, hs ▸ h.first, hs ▸ h.last⟩

theorem NoConflict.starts {s : State} {key : Nat} (h : NoConflict s key) (l : Lane) : NoConflict (s.starts l) key := by
  obtain ⟨e, hs⟩ := starts_eq s l; rw [hs]; exact h

theorem Sound.starts {s : State} (h : Sound s) (l : Lane) : Sound (s.starts l) := by
  obtain ⟨e, hs⟩ := starts_eq s l; rw [hs]; exact h

theorem Direct.starts {l : Lane} {s : State} (h : Direct l s) (k : Lane) : Direct l (s.starts k) := by
  obtain ⟨e, hs⟩ := starts_eq s k
  refine ⟨by rw [hs]; exact h.eager, by rw [hs, me_updMe]; exact h.queue, ?_⟩
  have hw : ((s.starts k).lane .s).waiting = (s.lane .s).waiting ∧ ((s.starts k).lane .s).prog = (s.lane .s).prog := by
    rw [hs]; cases k <;> simp [State.lane, Core.lane, laneIdx]
  have hb : (s.starts k).me.barrier = s.me.barrier := by
    unfold Core.barrier; rw [show (s.starts k).me.lane .s = (s.starts k).lane .s from rfl, hw.1, hw.2]; rfl
  exact hb.trans h.barrier

@[simp] theorem latch_starts (s : State) (l : Lane) : (s.starts l).me.latch = s.me.latch := by
  obtain ⟨e, h⟩ := starts_eq s l; rw [h, me_updMe]

@[simp] theorem mem_starts (s : State) (l : Lane) : (s.starts l).mem = s.mem := by
  obtain ⟨e, hs⟩ := starts_eq s l; rw [hs]; rfl

/-! ### Values and bytes -/

theorem toBytes_length (n x : Nat) : (toBytes n x).length = n := by
  induction n generalizing x with
  | zero => rfl
  | succ n ih => simp [toBytes, ih]

theorem toBytes_getD (n x i : Nat) (h : i < n) : (toBytes n x).getD i 0 = BitVec.ofNat 8 (x / 2 ^ (8 * i)) := by
  induction n generalizing x i with
  | zero => omega
  | succ n ih =>
    cases i with
    | zero => simp [toBytes]
    | succ i =>
      rw [toBytes, List.getD_cons_succ, ih (x / 256) i (by omega)]
      congr 1
      rw [Nat.div_div_eq_div_mul, show 2 ^ (8 * (i + 1)) = 256 * 2 ^ (8 * i) by rw [Nat.mul_add, Nat.pow_add]; omega]

theorem leBytes_lt (bs : List Byte) : leBytes bs < 2 ^ (8 * bs.length) := by
  induction bs with
  | nil => simp [leBytes]
  | cons b t ih =>
    simp only [leBytes, List.length_cons]
    have := b.isLt
    rw [show 2 ^ (8 * (t.length + 1)) = 256 * 2 ^ (8 * t.length) by rw [Nat.mul_add, Nat.pow_add]; omega]
    omega

theorem leBytes_byte (bs : List Byte) (i : Nat) (h : i < bs.length) : leBytes bs / 2 ^ (8 * i) % 256 = (bs.getD i 0).toNat := by
  induction bs generalizing i with
  | nil => simp at h
  | cons b t ih =>
    have hb := b.isLt
    cases i with
    | zero => simp [leBytes]; omega
    | succ i =>
      rw [show 2 ^ (8 * (i + 1)) = 256 * 2 ^ (8 * i) by rw [Nat.mul_add, Nat.pow_add]; omega, ← Nat.div_div_eq_div_mul]
      rw [show leBytes (b :: t) / 256 = leBytes t by simp only [leBytes]; omega]
      simpa using ih i (by simpa using h)

end Sys2Proof.Machine
end

