-- ==== Sys2Proof/Laws/Exec.lean ====
section
/-! SUPPORT. `exec` on each constructor is its meaning, so that no proof unfolds the whole dispatch. -/

namespace Sys2Proof.Machine

open Sys2Proof

theorem exec_add (d : SReg) (a : SReg) (b : SReg) (s : State) : exec (.add d a b) s = execAdd d a b s := rfl
theorem exec_sub (d : SReg) (a : SReg) (b : SReg) (s : State) : exec (.sub d a b) s = execSub d a b s := rfl
theorem exec_and_ (d : SReg) (a : SReg) (b : SReg) (s : State) : exec (.and_ d a b) s = execAnd d a b s := rfl
theorem exec_or_ (d : SReg) (a : SReg) (b : SReg) (s : State) : exec (.or_ d a b) s = execOr d a b s := rfl
theorem exec_xor_ (d : SReg) (a : SReg) (b : SReg) (s : State) : exec (.xor_ d a b) s = execXor d a b s := rfl
theorem exec_andn (d : SReg) (a : SReg) (b : SReg) (s : State) : exec (.andn d a b) s = execAndn d a b s := rfl
theorem exec_shl (d : SReg) (a : SReg) (b : SReg) (s : State) : exec (.shl d a b) s = execShl d a b s := rfl
theorem exec_shr (d : SReg) (a : SReg) (b : SReg) (s : State) : exec (.shr d a b) s = execShr d a b s := rfl
theorem exec_sra (d : SReg) (a : SReg) (b : SReg) (s : State) : exec (.sra d a b) s = execSra d a b s := rfl
theorem exec_slt (d : SReg) (a : SReg) (b : SReg) (s : State) : exec (.slt d a b) s = execSlt d a b s := rfl
theorem exec_sltu (d : SReg) (a : SReg) (b : SReg) (s : State) : exec (.sltu d a b) s = execSltu d a b s := rfl
theorem exec_min_ (d : SReg) (a : SReg) (b : SReg) (s : State) : exec (.min_ d a b) s = execMin d a b s := rfl
theorem exec_max_ (d : SReg) (a : SReg) (b : SReg) (s : State) : exec (.max_ d a b) s = execMax d a b s := rfl
theorem exec_minu (d : SReg) (a : SReg) (b : SReg) (s : State) : exec (.minu d a b) s = execMinu d a b s := rfl
theorem exec_maxu (d : SReg) (a : SReg) (b : SReg) (s : State) : exec (.maxu d a b) s = execMaxu d a b s := rfl
theorem exec_sel (d : SReg) (a : SReg) (b : SReg) (s : State) : exec (.sel d a b) s = execSel d a b s := rfl
theorem exec_mul (d : SReg) (a : SReg) (b : SReg) (s : State) : exec (.mul d a b) s = execMul d a b s := rfl
theorem exec_mulh (d : SReg) (a : SReg) (b : SReg) (s : State) : exec (.mulh d a b) s = execMulh d a b s := rfl
theorem exec_mulhu (d : SReg) (a : SReg) (b : SReg) (s : State) : exec (.mulhu d a b) s = execMulhu d a b s := rfl
theorem exec_div (d : SReg) (a : SReg) (b : SReg) (s : State) : exec (.div d a b) s = execDiv d a b s := rfl
theorem exec_divu (d : SReg) (a : SReg) (b : SReg) (s : State) : exec (.divu d a b) s = execDivu d a b s := rfl
theorem exec_rem (d : SReg) (a : SReg) (b : SReg) (s : State) : exec (.rem d a b) s = execRem d a b s := rfl
theorem exec_remu (d : SReg) (a : SReg) (b : SReg) (s : State) : exec (.remu d a b) s = execRemu d a b s := rfl
theorem exec_clz (d : SReg) (a : SReg) (s : State) : exec (.clz d a) s = execClz d a s := rfl
theorem exec_ctz (d : SReg) (a : SReg) (s : State) : exec (.ctz d a) s = execCtz d a s := rfl
theorem exec_popc (d : SReg) (a : SReg) (s : State) : exec (.popc d a) s = execPopc d a s := rfl
theorem exec_addi (d : SReg) (a : SReg) (imm : BitVec 11) (s : State) : exec (.addi d a imm) s = execAddi d a imm s := rfl
theorem exec_andi (d : SReg) (a : SReg) (imm : BitVec 11) (s : State) : exec (.andi d a imm) s = execAndi d a imm s := rfl
theorem exec_ori (d : SReg) (a : SReg) (imm : BitVec 11) (s : State) : exec (.ori d a imm) s = execOri d a imm s := rfl
theorem exec_xori (d : SReg) (a : SReg) (imm : BitVec 11) (s : State) : exec (.xori d a imm) s = execXori d a imm s := rfl
theorem exec_shli (d : SReg) (a : SReg) (sh : BitVec 6) (s : State) : exec (.shli d a sh) s = execShli d a sh s := rfl
theorem exec_shri (d : SReg) (a : SReg) (sh : BitVec 6) (s : State) : exec (.shri d a sh) s = execShri d a sh s := rfl
theorem exec_srai (d : SReg) (a : SReg) (sh : BitVec 6) (s : State) : exec (.srai d a sh) s = execSrai d a sh s := rfl
theorem exec_slti (d : SReg) (a : SReg) (imm : BitVec 11) (s : State) : exec (.slti d a imm) s = execSlti d a imm s := rfl
theorem exec_lis (d : SReg) (k : BitVec 2) (imm : BitVec 16) (s : State) : exec (.lis d k imm) s = execLis d k imm s := rfl
theorem exec_beq (a : SReg) (b : SReg) (off : BitVec 11) (s : State) : exec (.beq a b off) s = execBeq a b off s := rfl
theorem exec_bne (a : SReg) (b : SReg) (off : BitVec 11) (s : State) : exec (.bne a b off) s = execBne a b off s := rfl
theorem exec_blt (a : SReg) (b : SReg) (off : BitVec 11) (s : State) : exec (.blt a b off) s = execBlt a b off s := rfl
theorem exec_bge (a : SReg) (b : SReg) (off : BitVec 11) (s : State) : exec (.bge a b off) s = execBge a b off s := rfl
theorem exec_bltu (a : SReg) (b : SReg) (off : BitVec 11) (s : State) : exec (.bltu a b off) s = execBltu a b off s := rfl
theorem exec_bgeu (a : SReg) (b : SReg) (off : BitVec 11) (s : State) : exec (.bgeu a b off) s = execBgeu a b off s := rfl
theorem exec_loop (a : SReg) (off : BitVec 11) (s : State) : exec (.loop a off) s = execLoop a off s := rfl
theorem exec_jmp (off : BitVec 21) (s : State) : exec (.jmp off) s = execJmp off s := rfl
theorem exec_call (off : BitVec 21) (s : State) : exec (.call off) s = execCall off s := rfl
theorem exec_jal (d : SReg) (off : BitVec 16) (s : State) : exec (.jal d off) s = execJal d off s := rfl
theorem exec_jalr (d : SReg) (a : SReg) (imm : BitVec 11) (s : State) : exec (.jalr d a imm) s = execJalr d a imm s := rfl
theorem exec_mcall (n : BitVec 6) (d : SReg) (a : SReg) (b : SReg) (s : State) : exec (.mcall n d a b) s = execMcall n d a b s := rfl
theorem exec_idle (n : BitVec 16) (s : State) : exec (.idle n) s = execIdle n s := rfl
theorem exec_ldB (d : SReg) (a : SReg) (imm : BitVec 11) (s : State) : exec (.ldB d a imm) s = execLdB d a imm s := rfl
theorem exec_ldBu (d : SReg) (a : SReg) (imm : BitVec 11) (s : State) : exec (.ldBu d a imm) s = execLdBu d a imm s := rfl
theorem exec_ldH (d : SReg) (a : SReg) (imm : BitVec 11) (s : State) : exec (.ldH d a imm) s = execLdH d a imm s := rfl
theorem exec_ldHu (d : SReg) (a : SReg) (imm : BitVec 11) (s : State) : exec (.ldHu d a imm) s = execLdHu d a imm s := rfl
theorem exec_ldW (d : SReg) (a : SReg) (imm : BitVec 11) (s : State) : exec (.ldW d a imm) s = execLdW d a imm s := rfl
theorem exec_ldWu (d : SReg) (a : SReg) (imm : BitVec 11) (s : State) : exec (.ldWu d a imm) s = execLdWu d a imm s := rfl
theorem exec_ldD (d : SReg) (a : SReg) (imm : BitVec 11) (s : State) : exec (.ldD d a imm) s = execLdD d a imm s := rfl
theorem exec_stB (a : SReg) (b : SReg) (off : BitVec 11) (s : State) : exec (.stB a b off) s = execStB a b off s := rfl
theorem exec_stH (a : SReg) (b : SReg) (off : BitVec 11) (s : State) : exec (.stH a b off) s = execStH a b off s := rfl
theorem exec_stW (a : SReg) (b : SReg) (off : BitVec 11) (s : State) : exec (.stW a b off) s = execStW a b off s := rfl
theorem exec_stD (a : SReg) (b : SReg) (off : BitVec 11) (s : State) : exec (.stD a b off) s = execStD a b off s := rfl
theorem exec_ldx (sz : LoadSize) (scale : BitVec 2) (d : SReg) (a : SReg) (b : SReg) (s : State) : exec (.ldx sz scale d a b) s = execLdx sz scale d a b s := rfl
theorem exec_stx (sz : StoreSize) (scale : BitVec 2) (d : SReg) (a : SReg) (b : SReg) (s : State) : exec (.stx sz scale d a b) s = execStx sz scale d a b s := rfl
theorem exec_pref (hint : BitVec 2) (a : SReg) (imm : BitVec 11) (s : State) : exec (.pref hint a imm) s = execPref hint a imm s := rfl
theorem exec_aptoPkg (d : SReg) (a : SReg) (s : State) : exec (.aptoPkg d a) s = execAptoPkg d a s := rfl
theorem exec_aptoOwn (d : SReg) (a : SReg) (s : State) : exec (.aptoOwn d a) s = execAptoOwn d a s := rfl
theorem exec_apis (w : Window) (d : SReg) (a : SReg) (s : State) : exec (.apis w d a) s = execApis w d a s := rfl
theorem exec_ldaW (d : SReg) (a : SReg) (imm : BitVec 11) (s : State) : exec (.ldaW d a imm) s = execLdaW d a imm s := rfl
theorem exec_ldaD (d : SReg) (a : SReg) (imm : BitVec 11) (s : State) : exec (.ldaD d a imm) s = execLdaD d a imm s := rfl
theorem exec_stlW (a : SReg) (b : SReg) (off : BitVec 11) (s : State) : exec (.stlW a b off) s = execStlW a b off s := rfl
theorem exec_stlD (a : SReg) (b : SReg) (off : BitVec 11) (s : State) : exec (.stlD a b off) s = execStlD a b off s := rfl
theorem exec_atomW (op : AtomOp) (ord : MemOrder) (d : SReg) (a : SReg) (b : SReg) (s : State) : exec (.atomW op ord d a b) s = execAtomW op ord d a b s := rfl
theorem exec_atomD (op : AtomOp) (ord : MemOrder) (d : SReg) (a : SReg) (b : SReg) (s : State) : exec (.atomD op ord d a b) s = execAtomD op ord d a b s := rfl
theorem exec_casW (succ : MemOrder) (fail : MemOrder) (d : SReg) (a : SReg) (b : SReg) (s : State) : exec (.casW succ fail d a b) s = execCasW succ fail d a b s := rfl
theorem exec_casD (succ : MemOrder) (fail : MemOrder) (d : SReg) (a : SReg) (b : SReg) (s : State) : exec (.casD succ fail d a b) s = execCasD succ fail d a b s := rfl
theorem exec_fatomW (op : AtomOp) (d : SReg) (a : SReg) (b : SReg) (s : State) : exec (.fatomW op d a b) s = execFatomW op d a b s := rfl
theorem exec_fatomD (op : AtomOp) (d : SReg) (a : SReg) (b : SReg) (s : State) : exec (.fatomD op d a b) s = execFatomD op d a b s := rfl
theorem exec_fence (kind : FenceKind) (scope : Scope) (s : State) : exec (.fence kind scope) s = execFence kind scope s := rfl
theorem exec_sigadd (g : SgReg) (a : SReg) (s : State) : exec (.sigadd g a) s = execSigadd g a s := rfl
theorem exec_sigwait (g : SgReg) (a : SReg) (s : State) : exec (.sigwait g a) s = execSigwait g a s := rfl
theorem exec_sigexpect (g : SgReg) (a : SReg) (s : State) : exec (.sigexpect g a) s = execSigexpect g a s := rfl
theorem exec_sigread (d : SReg) (g : SgReg) (s : State) : exec (.sigread d g) s = execSigread d g s := rfl
theorem exec_ringclaim (d : SReg) (r : BitVec 4) (a : SReg) (s : State) : exec (.ringclaim d r a) s = execRingclaim d r a s := rfl
theorem exec_ringcommit (r : BitVec 4) (a : SReg) (s : State) : exec (.ringcommit r a) s = execRingcommit r a s := rfl
theorem exec_ringwaitf (r : BitVec 4) (a : SReg) (s : State) : exec (.ringwaitf r a) s = execRingwaitf r a s := rfl
theorem exec_ringwaite (r : BitVec 4) (a : SReg) (s : State) : exec (.ringwaite r a) s = execRingwaite r a s := rfl
theorem exec_ringtake (d : SReg) (r : BitVec 4) (s : State) : exec (.ringtake d r) s = execRingtake d r s := rfl
theorem exec_ringdone (r : BitVec 4) (a : SReg) (s : State) : exec (.ringdone r a) s = execRingdone r a s := rfl
theorem exec_own (first : BitVec 8) (count1 : BitVec 5) (o : Owner) (s : State) : exec (.own first count1 o) s = execOwn first count1 o s := rfl
theorem exec_ownwait (first : BitVec 8) (count1 : BitVec 5) (o : Owner) (s : State) : exec (.ownwait first count1 o) s = execOwnwait first count1 o s := rfl
theorem exec_tickwait (a : SReg) (s : State) : exec (.tickwait a) s = execTickwait a s := rfl
theorem exec_lamptest (d : SReg) (s : State) : exec (.lamptest d) s = execLamptest d s := rfl
theorem exec_collrdy (a : SReg) (b : SReg) (s : State) : exec (.collrdy a b) s = execCollrdy a b s := rfl
theorem exec_rprobe (d : SReg) (a : SReg) (b : SReg) (s : State) : exec (.rprobe d a b) s = execRprobe d a b s := rfl
theorem exec_rput (a : SReg) (b : SReg) (s : State) : exec (.rput a b) s = execRput a b s := rfl
theorem exec_rdrop (a : SReg) (s : State) : exec (.rdrop a) s = execRdrop a s := rfl
theorem exec_lvread (d : SReg) (n : BitVec 4) (s : State) : exec (.lvread d n) s = execLvread d n s := rfl
theorem exec_lvwrite (n : BitVec 4) (a : SReg) (s : State) : exec (.lvwrite n a) s = execLvwrite n a s := rfl
theorem exec_mfsel (src : MfSrc) (base : BitVec 4) (s : State) : exec (.mfsel src base) s = execMfsel src base s := rfl
theorem exec_acqp (n : BitVec 16) (s : State) : exec (.acqp n) s = execAcqp n s := rfl
theorem exec_relp (n : BitVec 16) (s : State) : exec (.relp n) s = execRelp n s := rfl
theorem exec_setdiv (eng : Engine) (dv : BitVec 7) (s : State) : exec (.setdiv eng dv) s = execSetdiv eng dv s := rfl
theorem exec_phint (a : SReg) (s : State) : exec (.phint a) s = execPhint a s := rfl
theorem exec_trap (n : BitVec 16) (s : State) : exec (.trap n) s = execTrap n s := rfl
theorem exec_sysr (d : SReg) (n : BitVec 11) (s : State) : exec (.sysr d n) s = execSysr d n s := rfl
theorem exec_sysw (n : BitVec 11) (a : SReg) (s : State) : exec (.sysw n a) s = execSysw n a s := rfl
theorem exec_l2conv (back : Bool) (ways : BitVec 5) (s : State) : exec (.l2conv back ways) s = execL2conv back ways s := rfl
theorem exec_event (a : SReg) (s : State) : exec (.event a) s = execEvent a s := rfl
theorem exec_xdset (x : XdReg) (a : SReg) (n : BitVec 11) (s : State) : exec (.xdset x a n) s = execXdset x a n s := rfl
theorem exec_xdsetD1 (x : XdReg) (a : SReg) (b : SReg) (s : State) : exec (.xdsetD1 x a b) s = execXdsetD1 x a b s := rfl
theorem exec_xdsetD2 (x : XdReg) (a : SReg) (b : SReg) (s : State) : exec (.xdsetD2 x a b) s = execXdsetD2 x a b s := rfl
theorem exec_xdsetWin (x : XdReg) (a b : SReg) (s : State) : exec (.xdsetWin x a b) s = execXdsetWin x a b s := rfl
theorem exec_xdsetLen (x : XdReg) (a b : SReg) (s : State) : exec (.xdsetLen x a b) s = execXdsetLen x a b s := rfl
theorem exec_tbind (a : SReg) (s : State) : exec (.tbind a) s = execTbind a s := rfl
theorem exec_tmap (n : BitVec 2) (a : SReg) (s : State) : exec (.tmap n a) s = execTmap n a s := rfl
theorem exec_tgld (real : Bool) (a : SReg) (g : GReg) (s : State) : exec (.tgld real a g) s = execTgld real a g s := rfl
theorem exec_tgate (m : TurnMode) (a : SReg) (g : GReg) (s : State) : exec (.tgate m a g) s = execTgate m a g s := rfl
theorem exec_tcgate (m : TurnMode) (d : SReg) (a : SReg) (g : GReg) (s : State) : exec (.tcgate m d a g) s = execTcgate m d a g s := rfl
theorem exec_tdiag (m : TurnMode) (a : SReg) (g : GReg) (s : State) : exec (.tdiag m a g) s = execTdiag m a g s := rfl
theorem exec_tswap (a : SReg) (s : State) : exec (.tswap a) s = execTswap a s := rfl
theorem exec_tprob (d : SReg) (a : SReg) (s : State) : exec (.tprob d a) s = execTprob d a s := rfl
theorem exec_tnorm (m : TurnMode) (d : SReg) (s : State) : exec (.tnorm m d) s = execTnorm m d s := rfl
theorem exec_vsetshape (ty : EType) (vl : BitVec 9) (s : State) : exec (.vsetshape ty vl) s = execVsetshape ty vl s := rfl
theorem exec_vadd (d : VReg) (a : VReg) (b : VReg) (p : PReg) (s : State) : exec (.vadd d a b p) s = execVadd d a b p s := rfl
theorem exec_vsub (d : VReg) (a : VReg) (b : VReg) (p : PReg) (s : State) : exec (.vsub d a b p) s = execVsub d a b p s := rfl
theorem exec_vmul (d : VReg) (a : VReg) (b : VReg) (p : PReg) (s : State) : exec (.vmul d a b p) s = execVmul d a b p s := rfl
theorem exec_vdiv (d : VReg) (a : VReg) (b : VReg) (p : PReg) (s : State) : exec (.vdiv d a b p) s = execVdiv d a b p s := rfl
theorem exec_vmin (d : VReg) (a : VReg) (b : VReg) (p : PReg) (s : State) : exec (.vmin d a b p) s = execVmin d a b p s := rfl
theorem exec_vmax (d : VReg) (a : VReg) (b : VReg) (p : PReg) (s : State) : exec (.vmax d a b p) s = execVmax d a b p s := rfl
theorem exec_vfma (d : VReg) (a : VReg) (b : VReg) (p : PReg) (s : State) : exec (.vfma d a b p) s = execVfma d a b p s := rfl
theorem exec_vfms (d : VReg) (a : VReg) (b : VReg) (p : PReg) (s : State) : exec (.vfms d a b p) s = execVfms d a b p s := rfl
theorem exec_vfnma (d : VReg) (a : VReg) (b : VReg) (p : PReg) (s : State) : exec (.vfnma d a b p) s = execVfnma d a b p s := rfl
theorem exec_vcmul (d : VReg) (a : VReg) (b : VReg) (p : PReg) (s : State) : exec (.vcmul d a b p) s = execVcmul d a b p s := rfl
theorem exec_vabs (d : VReg) (a : VReg) (p : PReg) (s : State) : exec (.vabs d a p) s = execVabs d a p s := rfl
theorem exec_vneg (d : VReg) (a : VReg) (p : PReg) (s : State) : exec (.vneg d a p) s = execVneg d a p s := rfl
theorem exec_vrcp (d : VReg) (a : VReg) (p : PReg) (s : State) : exec (.vrcp d a p) s = execVrcp d a p s := rfl
theorem exec_vrsqrt (d : VReg) (a : VReg) (p : PReg) (s : State) : exec (.vrsqrt d a p) s = execVrsqrt d a p s := rfl
theorem exec_vsqrt (d : VReg) (a : VReg) (p : PReg) (s : State) : exec (.vsqrt d a p) s = execVsqrt d a p s := rfl
theorem exec_vexp2 (d : VReg) (a : VReg) (p : PReg) (s : State) : exec (.vexp2 d a p) s = execVexp2 d a p s := rfl
theorem exec_vlog2 (d : VReg) (a : VReg) (p : PReg) (s : State) : exec (.vlog2 d a p) s = execVlog2 d a p s := rfl
theorem exec_vsinpi (d : VReg) (a : VReg) (p : PReg) (s : State) : exec (.vsinpi d a p) s = execVsinpi d a p s := rfl
theorem exec_vcospi (d : VReg) (a : VReg) (p : PReg) (s : State) : exec (.vcospi d a p) s = execVcospi d a p s := rfl
theorem exec_vsig (d : VReg) (a : VReg) (p : PReg) (s : State) : exec (.vsig d a p) s = execVsig d a p s := rfl
theorem exec_viadd (d : VReg) (a : VReg) (b : VReg) (p : PReg) (s : State) : exec (.viadd d a b p) s = execViadd d a b p s := rfl
theorem exec_visub (d : VReg) (a : VReg) (b : VReg) (p : PReg) (s : State) : exec (.visub d a b p) s = execVisub d a b p s := rfl
theorem exec_vimul (d : VReg) (a : VReg) (b : VReg) (p : PReg) (s : State) : exec (.vimul d a b p) s = execVimul d a b p s := rfl
theorem exec_vand (d : VReg) (a : VReg) (b : VReg) (p : PReg) (s : State) : exec (.vand d a b p) s = execVand d a b p s := rfl
theorem exec_vor (d : VReg) (a : VReg) (b : VReg) (p : PReg) (s : State) : exec (.vor d a b p) s = execVor d a b p s := rfl
theorem exec_vxor (d : VReg) (a : VReg) (b : VReg) (p : PReg) (s : State) : exec (.vxor d a b p) s = execVxor d a b p s := rfl
theorem exec_vshl (d : VReg) (a : VReg) (b : VReg) (p : PReg) (s : State) : exec (.vshl d a b p) s = execVshl d a b p s := rfl
theorem exec_vshr (d : VReg) (a : VReg) (b : VReg) (p : PReg) (s : State) : exec (.vshr d a b p) s = execVshr d a b p s := rfl
theorem exec_vsra (d : VReg) (a : VReg) (b : VReg) (p : PReg) (s : State) : exec (.vsra d a b p) s = execVsra d a b p s := rfl
theorem exec_vcmp (c : Cmp) (d : PReg) (a : VReg) (b : VReg) (p : PReg) (s : State) : exec (.vcmp c d a b p) s = execVcmp c d a b p s := rfl
theorem exec_vcmpU (c : CmpU) (d : PReg) (a : VReg) (b : VReg) (p : PReg) (s : State) : exec (.vcmpU c d a b p) s = execVcmpU c d a b p s := rfl
theorem exec_pand (d : PReg) (a : PReg) (b : PReg) (s : State) : exec (.pand d a b) s = execPand d a b s := rfl
theorem exec_por (d : PReg) (a : PReg) (b : PReg) (s : State) : exec (.por d a b) s = execPor d a b s := rfl
theorem exec_pxor (d : PReg) (a : PReg) (b : PReg) (s : State) : exec (.pxor d a b) s = execPxor d a b s := rfl
theorem exec_eform (d : EReg) (a : VReg) (b : VReg) (p : PReg) (s : State) : exec (.eform d a b p) s = execEform d a b p s := rfl
theorem exec_pcount (d : SReg) (a : PReg) (s : State) : exec (.pcount d a) s = execPcount d a s := rfl
theorem exec_vql4dec (d : VReg) (a : VReg) (blk : BitVec 2) (p : PReg) (s : State) : exec (.vql4dec d a blk p) s = execVql4dec d a blk p s := rfl
theorem exec_vql4enc (d : VReg) (a : VReg) (p : PReg) (s : State) : exec (.vql4enc d a p) s = execVql4enc d a p s := rfl
theorem exec_vredsum (d : VReg) (a : VReg) (p : PReg) (s : State) : exec (.vredsum d a p) s = execVredsum d a p s := rfl
theorem exec_vredmax (d : VReg) (a : VReg) (p : PReg) (s : State) : exec (.vredmax d a p) s = execVredmax d a p s := rfl
theorem exec_vredmin (d : VReg) (a : VReg) (p : PReg) (s : State) : exec (.vredmin d a p) s = execVredmin d a p s := rfl
theorem exec_vscan (d : VReg) (a : VReg) (p : PReg) (s : State) : exec (.vscan d a p) s = execVscan d a p s := rfl
theorem exec_vcvt (d : VReg) (a : VReg) (ty : EType) (rm : Rm) (p : PReg) (s : State) : exec (.vcvt d a ty rm p) s = execVcvt d a ty rm p s := rfl
theorem exec_vcvtS (d : VReg) (a : VReg) (ty : EType) (rm : Rm) (p : PReg) (s : State) : exec (.vcvtS d a ty rm p) s = execVcvtS d a ty rm p s := rfl
theorem exec_eclr (d : EReg) (s : State) : exec (.eclr d) s = execEclr d s := rfl
theorem exec_eshift (d : EReg) (a : EReg) (s : State) : exec (.eshift d a) s = execEshift d a s := rfl
theorem exec_econv (d : EReg) (a : EReg) (s : State) : exec (.econv d a) s = execEconv d a s := rfl
theorem exec_elshift (d : EReg) (a : EReg) (s : State) : exec (.elshift d a) s = execElshift d a s := rfl
theorem exec_eadd (d : EReg) (a : EReg) (s : State) : exec (.eadd d a) s = execEadd d a s := rfl
theorem exec_eord (n : BitVec 5) (s : State) : exec (.eord n) s = execEord n s := rfl
theorem exec_vperm (d : VReg) (a : VReg) (b : VReg) (p : PReg) (s : State) : exec (.vperm d a b p) s = execVperm d a b p s := rfl
theorem exec_vslide (d : VReg) (a : VReg) (n : BitVec 6) (p : PReg) (s : State) : exec (.vslide d a n p) s = execVslide d a n p s := rfl
theorem exec_vbcast (d : VReg) (a : SReg) (p : PReg) (s : State) : exec (.vbcast d a p) s = execVbcast d a p s := rfl
theorem exec_vcompress (d : VReg) (a : VReg) (p : PReg) (s : State) : exec (.vcompress d a p) s = execVcompress d a p s := rfl
theorem exec_vbucket (d : VReg) (a : VReg) (b : VReg) (p : PReg) (s : State) : exec (.vbucket d a b p) s = execVbucket d a b p s := rfl
theorem exec_vld (d : VReg) (x : XdReg) (p : PReg) (s : State) : exec (.vld d x p) s = execVld d x p s := rfl
theorem exec_vst (d : VReg) (x : XdReg) (p : PReg) (s : State) : exec (.vst d x p) s = execVst d x p s := rfl
theorem exec_vlds (d : VReg) (a : SReg) (b : SReg) (p : PReg) (s : State) : exec (.vlds d a b p) s = execVlds d a b p s := rfl
theorem exec_vsts (d : VReg) (a : SReg) (b : SReg) (p : PReg) (s : State) : exec (.vsts d a b p) s = execVsts d a b p s := rfl
theorem exec_vgather (d : VReg) (a : SReg) (b : VReg) (p : PReg) (s : State) : exec (.vgather d a b p) s = execVgather d a b p s := rfl
theorem exec_vscatter (d : VReg) (a : SReg) (b : VReg) (p : PReg) (s : State) : exec (.vscatter d a b p) s = execVscatter d a b p s := rfl
theorem exec_qld (q : BitVec 2) (x : XdReg) (s : State) : exec (.qld q x) s = execQld q x s := rfl
theorem exec_vmovs (d : SReg) (a : VReg) (n : BitVec 6) (p : PReg) (s : State) : exec (.vmovs d a n p) s = execVmovs d a n p s := rfl
theorem exec_vguide (d : VReg) (a : VReg) (b : VReg) (p : PReg) (s : State) : exec (.vguide d a b p) s = execVguide d a b p s := rfl
theorem exec_vstep (d : VReg) (a : VReg) (b : VReg) (p : PReg) (s : State) : exec (.vstep d a b p) s = execVstep d a b p s := rfl
theorem exec_vtemb (d : VReg) (a : VReg) (p : PReg) (s : State) : exec (.vtemb d a p) s = execVtemb d a p s := rfl
theorem exec_vloop (off : BitVec 12) (n : BitVec 10) (s : State) : exec (.vloop off n) s = execVloop off n s := rfl
theorem exec_vbr (c : BrCond) (off : BitVec 12) (p : PReg) (s : State) : exec (.vbr c off p) s = execVbr c off p s := rfl
theorem exec_tcfg (t : TReg) (rows1 : BitVec 4) (cols1 : BitVec 4) (s : State) : exec (.tcfg t rows1 cols1) s = execTcfg t rows1 cols1 s := rfl
theorem exec_tldrow (t : TReg) (x : XdReg) (row : BitVec 4) (s : State) : exec (.tldrow t x row) s = execTldrow t x row s := rfl
theorem exec_tstrow (t : TReg) (x : XdReg) (row : BitVec 4) (s : State) : exec (.tstrow t x row) s = execTstrow t x row s := rfl
theorem exec_tmovr (d : VReg) (t : TReg) (row : BitVec 4) (s : State) : exec (.tmovr d t row) s = execTmovr d t row s := rfl
theorem exec_tmovc (d : VReg) (t : TReg) (col : BitVec 4) (s : State) : exec (.tmovc d t col) s = execTmovc d t col s := rfl
theorem exec_tzero (t : TReg) (s : State) : exec (.tzero t) s = execTzero t s := rfl
theorem exec_tfma (d : TReg) (a : TReg) (b : TReg) (s : State) : exec (.tfma d a b) s = execTfma d a b s := rfl
theorem exec_eeval (d : VReg) (a : VReg) (b : EReg) (p : PReg) (s : State) : exec (.eeval d a b p) s = execEeval d a b p s := rfl
theorem exec_ep2p (d : VReg) (a : VReg) (b : VReg) (p : PReg) (s : State) : exec (.ep2p d a b p) s = execEp2p d a b p s := rfl
theorem exec_eadmit (d : PReg) (a : EReg) (b : EReg) (s : State) : exec (.eadmit d a b) s = execEadmit d a b s := rfl
theorem exec_eld (d : EReg) (x : XdReg) (s : State) : exec (.eld d x) s = execEld d x s := rfl
theorem exec_est (d : EReg) (x : XdReg) (s : State) : exec (.est d x) s = execEst d x s := rfl
theorem exec_mma (ab : AbReg) (k1 : BitVec 8) (mf : MfReg) (rh : Bool) (ncol1 : BitVec 5) (s : State) : exec (.mma ab k1 mf rh ncol1) s = execMma ab k1 mf rh ncol1 s := rfl
theorem exec_mmasp (ab : AbReg) (k1 : BitVec 8) (mf : MfReg) (rh : Bool) (ncol1 : BitVec 5) (s : State) : exec (.mmasp ab k1 mf rh ncol1) s = execMmasp ab k1 mf rh ncol1 s := rfl
theorem exec_mmv (ab : AbReg) (k1 : BitVec 8) (mf : MfReg) (nv1 : BitVec 3) (s : State) : exec (.mmv ab k1 mf nv1) s = execMmv ab k1 mf nv1 s := rfl
theorem exec_mzero (ab : AbReg) (count : BitVec 6) (s : State) : exec (.mzero ab count) s = execMzero ab count s := rfl
theorem exec_malloc (ab : AbReg) (count : BitVec 6) (s : State) : exec (.malloc ab count) s = execMalloc ab count s := rfl
theorem exec_mfree (ab : AbReg) (count : BitVec 6) (s : State) : exec (.mfree ab count) s = execMfree ab count s := rfl
theorem exec_mhand (ab : AbReg) (count : BitVec 6) (core : CoreId) (s : State) : exec (.mhand ab count core) s = execMhand ab count core s := rfl
theorem exec_mdrain (ab : AbReg) (count : BitVec 6) (x : XdReg) (sg : SgReg) (se : Bool) (s : State) : exec (.mdrain ab count x sg se) s = execMdrain ab count x sg se s := rfl
theorem exec_mload (ab : AbReg) (count : BitVec 6) (x : XdReg) (s : State) : exec (.mload ab count x) s = execMload ab count x s := rfl
theorem exec_mfmt (mf : MfReg) (x : XdReg) (s : State) : exec (.mfmt mf x) s = execMfmt mf x s := rfl
theorem exec_mloop (n : BitVec 12) (off : BitVec 16) (s : State) : exec (.mloop n off) s = execMloop n off s := rfl
theorem exec_xcopy (a : XdReg) (b : XdReg) (sg : SgReg) (se : Bool) (s : State) : exec (.xcopy a b sg se) s = execXcopy a b sg se s := rfl
theorem exec_xfeeda (a : XdReg) (n1 : BitVec 8) (s : State) : exec (.xfeeda a n1) s = execXfeeda a n1 s := rfl
theorem exec_xfeedb (a : XdReg) (n1 : BitVec 8) (s : State) : exec (.xfeedb a n1) s = execXfeedb a n1 s := rfl
theorem exec_xmcast (mc : McReg) (b : XdReg) (sg : SgReg) (se : Bool) (s : State) : exec (.xmcast mc b sg se) s = execXmcast mc b sg se s := rfl
theorem exec_xgather (a : XdReg) (b : XdReg) (c : XdReg) (sg : SgReg) (se : Bool) (s : State) : exec (.xgather a b c sg se) s = execXgather a b c sg se s := rfl
theorem exec_xzce (w : ZcWidth) (a : XdReg) (b : XdReg) (sg : SgReg) (se : Bool) (s : State) : exec (.xzce w a b sg se) s = execXzce w a b sg se s := rfl
theorem exec_xzcd (w : ZcWidth) (a : XdReg) (b : XdReg) (sg : SgReg) (se : Bool) (s : State) : exec (.xzcd w a b sg se) s = execXzcd w a b sg se s := rfl
theorem exec_xdelta (ty : EType) (a : XdReg) (b : XdReg) (sg : SgReg) (se : Bool) (s : State) : exec (.xdelta ty a b sg se) s = execXdelta ty a b sg se s := rfl
theorem exec_xhalo (a : XdReg) (b : XdReg) (sg : SgReg) (se : Bool) (s : State) : exec (.xhalo a b sg se) s = execXhalo a b sg se s := rfl
theorem exec_xsig (sg : SgReg) (n : BitVec 8) (s : State) : exec (.xsig sg n) s = execXsig sg n s := rfl
theorem exec_xloop (n : BitVec 10) (off : BitVec 13) (s : State) : exec (.xloop n off) s = execXloop n off s := rfl
theorem exec_sburst (mc : McReg) (units : BitVec 21) (src : BitVec 64) (s : State) : exec (.sburst mc units src) s = execSburst mc units src s := rfl
theorem exec_swrite (addr : BitVec 64) (v : BitVec 32) (s : State) : exec (.swrite addr v) s = execSwrite addr v s := rfl
theorem exec_sloop (n : BitVec 11) (off : BitVec 16) (s : State) : exec (.sloop n off) s = execSloop n off s := rfl
theorem exec_swait (core : CoreId) (sg : SgReg) (t : BitVec 10) (s : State) : exec (.swait core sg t) s = execSwait core sg t s := rfl
theorem exec_ssig (core : CoreId) (sg : SgReg) (n : BitVec 10) (s : State) : exec (.ssig core sg n) s = execSsig core sg n s := rfl
theorem exec_sexpert (e : BitVec 12) (mc : McReg) (s : State) : exec (.sexpert e mc) s = execSexpert e mc s := rfl
theorem exec_sfetch (e : BitVec 12) (peer : Bool) (pkg : BitVec 9) (s : State) : exec (.sfetch e peer pkg) s = execSfetch e peer pkg s := rfl
theorem exec_scount (first : BitVec 12) (n : BitVec 13) (table : BitVec 64) (s : State) : exec (.scount first n table) s = execScount first n table s := rfl
theorem exec_sjump (off : BitVec 27) (s : State) : exec (.sjump off) s = execSjump off s := rfl
theorem exec_ret (s : State) : exec .ret s = execRet s := rfl
theorem exec_halt (s : State) : exec .halt s = execHalt s := rfl
theorem exec_vfence (s : State) : exec .vfence s = execVfence s := rfl
theorem exec_sync (s : State) : exec .sync s = execSync s := rfl
theorem exec_lampsend (s : State) : exec .lampsend s = execLampsend s := rfl
theorem exec_wake (s : State) : exec .wake s = execWake s := rfl
theorem exec_eret (s : State) : exec .eret s = execEret s := rfl
theorem exec_twait (s : State) : exec .twait s = execTwait s := rfl
theorem exec_vnop (s : State) : exec .vnop s = execVnop s := rfl
theorem exec_mwait (s : State) : exec .mwait s = execMwait s := rfl
theorem exec_mstop (s : State) : exec .mstop s = execMstop s := rfl
theorem exec_xnop (s : State) : exec .xnop s = execXnop s := rfl
theorem exec_xwait (s : State) : exec .xwait s = execXwait s := rfl
theorem exec_shalt (s : State) : exec .shalt s = execShalt s := rfl
theorem exec_spark (s : State) : exec .spark s = execSpark s := rfl
theorem exec_syncGroup (s : State) : exec .syncGroup s = execSyncGroup s := rfl
theorem exec_codeFetch (s : State) : exec .codeFetch s = execCodeFetch s := rfl
theorem exec_evRead (s : State) : exec .evRead s = execEvRead s := rfl
theorem exec_evWrite (s : State) : exec .evWrite s = execEvWrite s := rfl
theorem exec_evFetch (s : State) : exec .evFetch s = execEvFetch s := rfl
theorem exec_evEvict (s : State) : exec .evEvict s = execEvEvict s := rfl
theorem exec_evDrain (s : State) : exec .evDrain s = execEvDrain s := rfl
theorem exec_evWb (s : State) : exec .evWb s = execEvWb s := rfl
theorem exec_evMark (s : State) : exec .evMark s = execEvMark s := rfl
theorem exec_evExcl (s : State) : exec .evExcl s = execEvExcl s := rfl
theorem exec_evFar (s : State) : exec .evFar s = execEvFar s := rfl
theorem exec_evVert (s : State) : exec .evVert s = execEvVert s := rfl
theorem exec_evHorz (s : State) : exec .evHorz s = execEvHorz s := rfl
theorem exec_evEng (s : State) : exec .evEng s = execEvEng s := rfl
theorem exec_evDone (s : State) : exec .evDone s = execEvDone s := rfl
theorem exec_evSig (s : State) : exec .evSig s = execEvSig s := rfl
theorem exec_qldFill (s : State) : exec .qldFill s = execQldFill s := rfl
theorem exec_feedEntryPush (s : State) : exec .feedEntryPush s = execFeedEntryPush s := rfl
theorem exec_manifestResolve (s : State) : exec .manifestResolve s = execManifestResolve s := rfl
theorem exec_mCommandCommit (s : State) : exec .mCommandCommit s = execMCommandCommit s := rfl
theorem exec_tileRestore (s : State) : exec .tileRestore s = execTileRestore s := rfl
theorem exec_turntableCommand (s : State) : exec .turntableCommand s = execTurntableCommand s := rfl
theorem exec_setdivRampEnd (s : State) : exec .setdivRampEnd s = execSetdivRampEnd s := rfl
theorem exec_ringLink (s : State) : exec .ringLink s = execRingLink s := rfl
theorem exec_lampArrive (s : State) : exec .lampArrive s = execLampArrive s := rfl
theorem exec_contextSave (s : State) : exec .contextSave s = execContextSave s := rfl
theorem exec_preemptRequest (s : State) : exec .preemptRequest s = execPreemptRequest s := rfl
theorem exec_preemptWithdraw (s : State) : exec .preemptWithdraw s = execPreemptWithdraw s := rfl
theorem exec_debug (s : State) : exec .debug s = execDebug s := rfl
theorem exec_resume (s : State) : exec .resume s = execResume s := rfl
theorem exec_end_ (s : State) : exec .end_ s = execEnd s := rfl
theorem exec_save (s : State) : exec .save s = execSave s := rfl
theorem exec_retry (s : State) : exec .retry s = execRetry s := rfl
theorem exec_abandon (s : State) : exec .abandon s = execAbandon s := rfl
theorem exec_macroStoreWrite (s : State) : exec .macroStoreWrite s = execMacroStoreWrite s := rfl
theorem exec_ringConfigWrite (s : State) : exec .ringConfigWrite s = execRingConfigWrite s := rfl
theorem exec_bindRecordWrite (s : State) : exec .bindRecordWrite s = execBindRecordWrite s := rfl
theorem exec_dispatch (s : State) : exec .dispatch s = execDispatch s := rfl
theorem exec_launch (s : State) : exec .launch s = execLaunch s := rfl
theorem exec_stepStart (s : State) : exec .stepStart s = execStepStart s := rfl
theorem exec_walkerExpand (s : State) : exec .walkerExpand s = execWalkerExpand s := rfl
theorem exec_eventCoalesceTimeout (s : State) : exec .eventCoalesceTimeout s = execEventCoalesceTimeout s := rfl
theorem exec_evheadWrite (s : State) : exec .evheadWrite s = execEvheadWrite s := rfl
theorem exec_lqpost (s : State) : exec .lqpost s = execLqpost s := rfl
theorem exec_functionLevelReset (s : State) : exec .functionLevelReset s = execFunctionLevelReset s := rfl
theorem exec_sbStart (s : State) : exec .sbStart s = execSbStart s := rfl
theorem exec_sbStop (s : State) : exec .sbStop s = execSbStop s := rfl
theorem exec_sbctlResume (s : State) : exec .sbctlResume s = execSbctlResume s := rfl
theorem exec_burstMemberDone (s : State) : exec .burstMemberDone s = execBurstMemberDone s := rfl
theorem exec_fetchEnd (s : State) : exec .fetchEnd s = execFetchEnd s := rfl
theorem exec_expertEntryWrite (s : State) : exec .expertEntryWrite s = execExpertEntryWrite s := rfl
theorem exec_pageOutPacked (s : State) : exec .pageOutPacked s = execPageOutPacked s := rfl
theorem exec_pageOutRaw (s : State) : exec .pageOutRaw s = execPageOutRaw s := rfl
theorem exec_pagesIn (s : State) : exec .pagesIn s = execPagesIn s := rfl
theorem exec_badcmd (s : State) : exec .badcmd s = execBadcmd s := rfl
theorem exec_migrationComplete (s : State) : exec .migrationComplete s = execMigrationComplete s := rfl
theorem exec_tlbInvalidate (s : State) : exec .tlbInvalidate s = execTlbInvalidate s := rfl
theorem exec_invalidationComplete (s : State) : exec .invalidationComplete s = execInvalidationComplete s := rfl
theorem exec_l2WayGate (s : State) : exec .l2WayGate s = execL2WayGate s := rfl
theorem exec_l2WayUngate (s : State) : exec .l2WayUngate s = execL2WayUngate s := rfl
theorem exec_vaultScrub (s : State) : exec .vaultScrub s = execVaultScrub s := rfl
theorem exec_linkCrc (s : State) : exec .linkCrc s = execLinkCrc s := rfl
theorem exec_refreshWindow (s : State) : exec .refreshWindow s = execRefreshWindow s := rfl
theorem exec_hbmRetrain (s : State) : exec .hbmRetrain s = execHbmRetrain s := rfl
theorem exec_retrain (s : State) : exec .retrain s = execRetrain s := rfl
theorem exec_healthClear (s : State) : exec .healthClear s = execHealthClear s := rfl
theorem exec_flitReplay (s : State) : exec .flitReplay s = execFlitReplay s := rfl
theorem exec_portRetrain (s : State) : exec .portRetrain s = execPortRetrain s := rfl
theorem exec_portClear (s : State) : exec .portClear s = execPortClear s := rfl
theorem exec_fabricCountersClear (s : State) : exec .fabricCountersClear s = execFabricCountersClear s := rfl
theorem exec_remoteTimeout (s : State) : exec .remoteTimeout s = execRemoteTimeout s := rfl
theorem exec_ptpMessage (s : State) : exec .ptpMessage s = execPtpMessage s := rfl
theorem exec_collSendDone (s : State) : exec .collSendDone s = execCollSendDone s := rfl
theorem exec_collArrival (s : State) : exec .collArrival s = execCollArrival s := rfl
theorem exec_parkedArrivalApply (s : State) : exec .parkedArrivalApply s = execParkedArrivalApply s := rfl
theorem exec_powerGrant (s : State) : exec .powerGrant s = execPowerGrant s := rfl
theorem exec_drawWindowEnd (s : State) : exec .drawWindowEnd s = execDrawWindowEnd s := rfl
theorem exec_throttleInterval (s : State) : exec .throttleInterval s = execThrottleInterval s := rfl
theorem exec_matrixGate (s : State) : exec .matrixGate s = execMatrixGate s := rfl
theorem exec_matrixWakeDone (s : State) : exec .matrixWakeDone s = execMatrixWakeDone s := rfl
theorem exec_pwrcfgWrite (s : State) : exec .pwrcfgWrite s = execPwrcfgWrite s := rfl
theorem exec_reuseCountersClear (s : State) : exec .reuseCountersClear s = execReuseCountersClear s := rfl
theorem exec_freeze (s : State) : exec .freeze s = execFreeze s := rfl
theorem exec_frzN (s : State) : exec .frzN s = execFrzN s := rfl
theorem exec_packageReset (s : State) : exec .packageReset s = execPackageReset s := rfl
theorem exec_configurationImage (s : State) : exec .configurationImage s = execConfigurationImage s := rfl
theorem exec_getVersion (s : State) : exec .getVersion s = execGetVersion s := rfl
theorem exec_getCapabilities (s : State) : exec .getCapabilities s = execGetCapabilities s := rfl
theorem exec_negotiateAlgorithms (s : State) : exec .negotiateAlgorithms s = execNegotiateAlgorithms s := rfl
theorem exec_getDigests (s : State) : exec .getDigests s = execGetDigests s := rfl
theorem exec_getCertificate (s : State) : exec .getCertificate s = execGetCertificate s := rfl
theorem exec_challenge (s : State) : exec .challenge s = execChallenge s := rfl
theorem exec_getMeasurements (s : State) : exec .getMeasurements s = execGetMeasurements s := rfl
theorem exec_registerWrite (s : State) : exec .registerWrite s = execRegisterWrite s := rfl
theorem exec_uncorrectableError (s : State) : exec .uncorrectableError s = execUncorrectableError s := rfl

end Sys2Proof.Machine
end

