-- ==== Sys2Proof/Laws/Completes.lean ====
section
/-! SUPPORT. When a word completes, jumps or waits: one lemma for each shape, over the effect seen through the start of the
word. -/

namespace Sys2Proof.Machine

open Sys2Proof

/-- `v` is `u` as the start of a word of lane `l` at `s` leaves it: only the equivalence snapshot and the lane's npc differ. -/
def Seen (l : Lane) (s u v : State) : Prop :=
  v = u.updMe fun c => { c with eqj := (s.starts l).me.eqj, lanes := (s.starts l).me.lanes }

theorem starts_seen (s : State) (l : Lane) : Seen l s s (s.starts l) := by
  obtain ⟨e, h⟩ := starts_eq s l
  show s.starts l = _
  rw [h]; simp [State.updMe, State.updCore, State.me]

theorem updLane_updLane (c : Core) (l : Lane) (f g : LaneSt → LaneSt) :
    (c.updLane l f).updLane l g = c.updLane l fun x => g (f x) := by
  simp [Core.updLane, Tab.upd]

/-! ### Effects seen through the start of a word -/

/-- An update of the core that neither reads nor writes its lanes and its snapshot. -/
theorem Seen.updMe {l : Lane} {s u v : State} (h : Seen l s u v) (g : Core → Core)
    (hg : ∀ c e k, g { c with eqj := e, lanes := k } = { g c with eqj := e, lanes := k }) : Seen l s (u.updMe g) (v.updMe g) := by
  unfold Seen at *; rw [h, updMe_updMe, updMe_updMe]; exact congrArg _ (funext fun c => hg c _ _)

theorem Seen.updR {l : Lane} {s u v : State} (h : Seen l s u v) (g : Regs → Regs) : Seen l s (u.updR g) (v.updR g) :=
  h.updMe _ fun _ _ _ => rfl

theorem Seen.updCtl {l : Lane} {s u v : State} (h : Seen l s u v) (g : Ctl → Ctl) : Seen l s (u.updCtl g) (v.updCtl g) :=
  h.updMe _ fun _ _ _ => rfl

theorem Seen.newRegion {l : Lane} {s u v : State} (h : Seen l s u v) : Seen l s u.newRegion v.newRegion :=
  h.updMe _ fun _ _ _ => rfl

theorem Seen.now {l : Lane} {s u v : State} (h : Seen l s u v) : v.now = u.now := by rw [h]; rfl
theorem Seen.focus {l : Lane} {s u v : State} (h : Seen l s u v) : v.focus = u.focus := by rw [h]; rfl
theorem Seen.me {l : Lane} {s u v : State} (h : Seen l s u v) :
    v.me = { u.me with eqj := (s.starts l).me.eqj, lanes := (s.starts l).me.lanes } := by rw [h]; simp

@[simp] theorem focus_wrS (s : State) (d : SReg) (x : Word) (n : Nat) : (s.wrS d x n).focus = s.focus := by
  unfold State.wrS; split <;> rfl
@[simp] theorem now_wrS (s : State) (d : SReg) (x : Word) (n : Nat) : (s.wrS d x n).now = s.now := by
  unfold State.wrS; split <;> rfl
@[simp] theorem focus_newRegion (s : State) : s.newRegion.focus = s.focus := rfl
@[simp] theorem focus_updMe (s : State) (f : Core → Core) : (s.updMe f).focus = s.focus := rfl
@[simp] theorem focus_updR (s : State) (f : Regs → Regs) : (s.updR f).focus = s.focus := rfl
@[simp] theorem focus_updCtl (s : State) (f : Ctl → Ctl) : (s.updCtl f).focus = s.focus := rfl
@[simp] theorem focus_setReady (s : State) (k n : Nat) : (s.setReady k n).focus = s.focus := rfl

theorem Seen.wrS {l : Lane} {s u v : State} (h : Seen l s u v) (d : SReg) (x : Word) (n : Nat) :
    Seen l s (u.wrS d x n) (v.wrS d x n) := by
  unfold State.wrS; split
  · exact h
  · rw [h.now]; exact h.updR _

theorem Seen.setReady {l : Lane} {s u v : State} (h : Seen l s u v) (k n : Nat) : Seen l s (u.setReady k n) (v.setReady k n) := by
  unfold State.setReady; rw [h.now]; exact h.updR _

theorem Seen.mem {l : Lane} {s u v : State} (h : Seen l s u v) (m : Memory) : Seen l s { u with mem := m } { v with mem := m } := by
  unfold Seen at *; rw [h]; rfl

theorem Seen.regs {l : Lane} {s u v : State} (h : Seen l s u v) (m : List Registration) :
    Seen l s { u with regs := m } { v with regs := m } := by
  unfold Seen at *; rw [h]; rfl

theorem Seen.updCluster {l : Lane} {s u v : State} (h : Seen l s u v) (n : Nat) (f : Cluster → Cluster) :
    Seen l s (u.updCluster n f) (v.updCluster n f) := by
  unfold Seen at *; rw [h]; rfl

theorem Seen.updDie {l : Lane} {s u v : State} (h : Seen l s u v) (n : Nat) (f : Die → Die) :
    Seen l s (u.updDie n f) (v.updDie n f) := by
  unfold Seen at *; rw [h]; rfl

theorem Seen.updPkg {l : Lane} {s u v : State} (h : Seen l s u v) (f : Package → Package) :
    Seen l s (u.updPkg f) (v.updPkg f) := by
  unfold Seen at *; rw [h]; rfl

/-! ### What a word leaves -/

/-- The lane's record may change in any way that leaves it at word `p`, not waiting. -/
theorem leaves_lane {l : Lane} {s u v : State} {p : BitVec 32} (g : Core → LaneSt → LaneSt) (hf : u.focus = s.focus)
    (hv : Seen l s u v) (hp : (g v.me { s.lane l with npc := none }).pc = p)
    (hw : (g v.me { s.lane l with npc := none }).waiting = false) :
    Leaves l p s u (v.updMe fun c => c.updLane l (g c)) := by
  have hme : v.me = { u.me with eqj := (s.starts l).me.eqj, lanes := (s.starts l).me.lanes } := by rw [hv]; simp
  have hlane : v.me.lane l = { s.lane l with npc := none } := by
    have : v.me.lane l = (s.starts l).lane l := by rw [hme]; rfl
    rw [this, lane_starts]
  have hl : (v.updMe fun c => c.updLane l (g c)).lane l = g v.me { s.lane l with npc := none } := by
    simp only [State.lane, me_updMe, lane_updLane_same]; rw [hlane]; rfl
  refine ⟨?_, ?_, ?_, ?_, by rw [hl, hp], by rw [hl, hw]⟩
  · rw [hv]; rfl
  · intro c hc
    have h1 : v.focus = s.focus := by rw [hv]; exact hf
    have h2 : (v.updMe fun c => c.updLane l (g c)).core c = v.core c := core_updMe_other v _ (by rw [h1]; exact hc)
    rw [h2, hv]; exact core_updMe_other u _ (by rw [hf]; exact hc)
  · simp [Core.updLane, hme]
  · intro k hk
    have : (v.updMe fun c => c.updLane l (g c)).lane k = v.lane k := by
      simp only [State.lane, me_updMe]; exact lane_updLane_other _ _ hk
    rw [this]
    show v.me.lane k = _
    rw [hme]
    obtain ⟨e, h⟩ := starts_eq s l
    rw [h]; simp only [me_updMe, State.lane, Core.lane]
    exact Tab.get_upd_ne _ _ fun e => hk (laneIdx_inj e).symm

/-- What a word leaves whose effect is the state `v`, up to what its start has changed. -/
theorem leaves_retire {l : Lane} {s u v : State} (hf : u.focus = s.focus) (hv : Seen l s u v) :
    Leaves l (s.nextPc l) s u (v.retire l) :=
  leaves_lane _ hf hv rfl rfl

/-- As `leaves_retire`, for a word that has changed its own lane's record first, and not where that goes on. -/
theorem leaves_lane_retire {l : Lane} {s u v : State} (f : LaneSt → LaneSt) (hf : u.focus = s.focus) (hv : Seen l s u v)
    (hn : ∀ x : LaneSt, (f x).npc = x.npc ∧ (f x).pc = x.pc) : Leaves l (s.nextPc l) s u ((v.updLane l f).retire l) := by
  simp only [State.retire, State.updLane, updMe_updMe, updLane_updLane]
  refine leaves_lane _ hf hv ?_ rfl
  simp only [(hn _).1, (hn _).2]; rfl

/-- What a word leaves that transfers control to word `p` and whose effect is `v` otherwise. -/
theorem leaves_jump {l : Lane} {s u v : State} {p : BitVec 32} (hf : u.focus = s.focus) (hv : Seen l s u v) :
    Leaves l p s u ((v.updLane l fun x => { x with npc := some p }).retire l) := by
  simp only [State.retire, State.updLane, updMe_updMe, updLane_updLane]
  exact leaves_lane _ hf hv rfl rfl

/-- A word that may issue, and whose effect is `u` as seen through its start, completes. -/
theorem word_completes {l : Lane} {keys : List Nat} {s u v : State} {eff : Eff} (h : Issues l keys s)
    (hf : u.focus = s.focus) (he : eff (s.starts l) = .ok v) (hv : Seen l s u v) :
    ∃ t, word l keys eff s = .next t ∧ Leaves l (s.nextPc l) s u t :=
  ⟨_, word_next h he, leaves_retire hf hv⟩

/-- A word that may issue, transfers control to word `p`, and otherwise does `u` as seen through its start. -/
theorem word_jumps {l : Lane} {keys : List Nat} {s u v : State} {eff : Eff} {p : BitVec 32} (h : Issues l keys s)
    (hf : u.focus = s.focus) (he : eff (s.starts l) = .ok (v.updLane l fun x => { x with npc := some p })) (hv : Seen l s u v) :
    ∃ t, word l keys eff s = .next t ∧ Leaves l p s u t :=
  ⟨_, word_next h he, leaves_jump hf hv⟩

end Sys2Proof.Machine
end

