-- ==== Sys2Proof/Tests/Slice0.lean ====
section
/-! SUPPORT. The model's own tests: what the checks refuse, words of the manual that decode, single steps, and for every
statement with hypotheses a state that meets them, clause by clause. -/

namespace Sys2Proof.Tests

/- One theorem at a time, so that the kernel evaluations do not all hold a thread of their own. -/
set_option Elab.async false

open Sys2Proof Sys2Proof.Machine

/-! ### Hypotheses as Booleans -/

def mayStart (l : Lane) (keys : List Nat) (s : State) : Bool :=
  decide ((s.lane l).waiting = false ∧ s.me.overdraw = false) &&
    keys.all fun k => s.isReady k && (decide (32 ≤ k) || s.isReady (kSv k))

theorem issues {l : Lane} {keys : List Nat} {s : State} (h : mayStart l keys s = true) : Issues l keys s :=
  have ⟨now, each⟩ := Bool.and_eq_true_iff.mp h
  have key {k} (hk : k ∈ keys) := Bool.and_eq_true_iff.mp (List.all_eq_true.mp each k hk)
  { fresh := (of_decide_eq_true now).1, power := (of_decide_eq_true now).2, ready := fun _ hk => (key hk).1,
    shadow := fun _ _ hk hl => (Bool.or_eq_true_iff.mp (key hk).2).resolve_left fun g => absurd (of_decide_eq_true g) (by omega) }

def isQuiet (s : State) : Bool :=
  decide ((s.eager = true ∧ s.prog .s = .none ∧ s.me.queuesEmpty = true) ∧
    (s.me.fifo = [] ∧ s.me.drained = []) ∧ s.me.l1.rows = [] ∧ s.me.wbFail = none)

theorem quiet {s : State} (h : isQuiet s = true) : Quiet s :=
  have ⟨moves, buffer, l1⟩ := of_decide_eq_true h
  { eager := moves.1, prog := moves.2.1, queues := moves.2.2, fifo := buffer.1, drained := buffer.2, l1 := l1.1, failed := l1.2 }

def inPool (s : State) (o n : Nat) : Bool :=
  decide ((0 < n ∧ s.me.ctl.pbReg ≤ o) ∧ (o + n ≤ s.me.ctl.pbSpad ∧ o + n ≤ 0xC0000) ∧
    s.me.slotOwner o = .lanes ∧ s.me.slotOwner (o + n - 1) = .lanes)

theorem ownPool {s : State} {o n : Nat} (h : inPool s o n = true) : OwnPool s o n :=
  have ⟨start, stop, owner⟩ := of_decide_eq_true h
  { size := start.1, low := start.2, high := stop.1, pool := stop.2, first := owner.1, last := owner.2 }

theorem noConflict {s : State} {k : Nat} (h : s.regs = []) : NoConflict s k := by
  intro r hr; simp [h] at hr

/-- The instruction answers a next state. -/
def runs (i : Instr) (s : State) : Bool := match exec i s with | .next _ => true | _ => false

theorem next_of_runs {i : Instr} {s : State} (h : runs i s = true) : ∃ t, exec i s = .next t := by
  unfold runs at h
  split at h
  · exact ⟨_, by assumption⟩
  · cases h

/-- A result that satisfies `p`. -/
def okWith {ε α : Type} (e : Except ε α) (p : α → Bool) : Bool := match e with | .ok a => p a | .error _ => false

theorem ok_of {ε α : Type} {e : Except ε α} {p : α → Bool} (h : okWith e p = true) : ∃ a, e = .ok a ∧ p a = true := by
  unfold okWith at h
  split at h
  · exact ⟨_, rfl, h⟩
  · cases h

/-! ### States -/

/-- A core at task level whose lanes are at word 10 of sections of 64 words, with a scratchpad of 48 slots. -/
def taskCore : Core :=
  { mode := .running,
    r := { s := { dflt := 0, rows := [(1, 7), (2, -3), (3, 5), (4, 0xFF00000000010040), (5, 8), (6, 1), (7, 0x1234567890ABCDEF)] } },
    ctl := { pl := false, clen := .fill 64, pbSpad := 0x40000, pbL1 := 0x80000, vfid := 1, spillBase := 0x11000, spillLim := 0x11090,
             spillTop := 0x11048 },
    lanes := .fill { parked := false, pc := 10 } }

/-- Core 0 runs a task, 1,000 pulses after reset. -/
def wS : State := { State.reset with cores := State.reset.cores.set 0 taskCore, pkg := { State.reset.pkg with mode := 1, ticks := 4000 } }
/-- The same at system level. -/
def wP : State := wS.updCtl fun c => { c with pl := true }
/-- Scalar `n` holds `v`. -/
def reg (n : Nat) (v : Word) (s : State) : State := s.updR fun r => { r with s := r.s.set n v }
/-- Bytes of the own pool. -/
def pool (o : Nat) (bs : List Byte) (s : State) : State := { s with mem := memWrite s.mem (keyPool s.focus o) bs }
/-- The core in focus is changed. -/
def my (f : Core → Core) (s : State) : State := s.updMe f
/-- An event's operands. -/
def arg (a : EventArg) (s : State) : State := { s with arg := a }
/-- Moves are made by the agenda. -/
def lazy (s : State) : State := { s with eager := false }

/-! ### Hypotheses of the statements: S lane -/

/-- Hypotheses of `Obligations.IntegerGroupCompletes`. -/
theorem witness_IntegerGroupCompletes :
    (Issues .s [kS 1, kS 2] wS) ∧ (Issues .s [kS 3, kS 1, kS 2] wS ∧ wS.rdS 3 ≠ 0) ∧
    (Issues .s [kS 0, kS 1, kS 2] wS ∧ wS.rdS 0 = 0) :=
  ⟨issues (by decide +kernel), ⟨issues (by decide +kernel), by decide +kernel⟩, ⟨issues (by decide +kernel), by decide +kernel⟩⟩

/-- Hypotheses of `Obligations.MultiplyDivideCountCompletes`. -/
theorem witness_MultiplyDivideCountCompletes :
    (Issues .s [kS 1, kS 2] wS) ∧ (Issues .s [kS 1, kS 0, kDiv] wS ∧ wS.rdS 0 = 0) ∧ (Issues .s [kS 0] wS) :=
  ⟨issues (by decide +kernel), ⟨issues (by decide +kernel), by decide +kernel⟩, issues (by decide +kernel)⟩

/-- Hypotheses of `Obligations.ImmediatesComplete`. -/
theorem witness_ImmediatesComplete :
    (Issues .s [kS 1] wS) ∧
    (bits (0x01800040 : Code) 21 7 = 0x0C ∧ bits (0x01800040 : Code) 6 5 ≠ 0) ∧ (bits (0x01C00400 : Code) 21 7 = 0x0E ∧ bits (0x01C00400 : Code) 6 5 ≠ 0) :=
  ⟨issues (by decide +kernel), by decide +kernel⟩

/-- Hypotheses of `Obligations.LisCompletes`. -/
theorem witness_LisCompletes :
    (Issues .s [kS 9] wS ∧ (1 : BitVec 2) ≠ 3) ∧ (Issues .s [] wS) :=
  ⟨⟨issues (by decide +kernel), by decide +kernel⟩, issues (by decide +kernel)⟩

/-- Hypotheses of `Obligations.PlainScalarFrame`. -/
theorem witness_PlainScalarFrame :
    ((∃ t, exec (.add 3 1 2) wS = .next t) ∧ wS.me.overdraw = false ∧ Instr.add 3 1 2 ∈ plainScalars 3 1 2 0 0 0 0 .global) ∧
    ((∃ t, exec (.apis .global 0 1) wS = .next t) ∧ wS.me.overdraw = false ∧ Instr.apis .global 0 1 ∈ plainScalars 0 1 2 0 0 0 0 .global) :=
  ⟨⟨next_of_runs (by decide +kernel), by decide +kernel⟩, ⟨next_of_runs (by decide +kernel), by decide +kernel⟩⟩

/-- Hypotheses of `Obligations.BranchesComplete`: a target at the last word of the section, and one behind it. -/
theorem witness_BranchesComplete :
    (Issues .s [kS 1, kS 2] wS ∧ wS.rdS 1 ≠ wS.rdS 2 ∧ ((wS.lane .s).pc + (53 : BitVec 11).signExtend 32).toNat < wS.me.clen .s) ∧
    (Issues .s [kS 1, kS 1] wS ∧ wS.me.clen .s ≤ ((wS.lane .s).pc + (54 : BitVec 11).signExtend 32).toNat) :=
  ⟨⟨issues (by decide +kernel), by decide +kernel⟩, ⟨issues (by decide +kernel), by decide +kernel⟩⟩

/-- Hypotheses of `Obligations.LoopAndJumpsComplete`. -/
theorem witness_LoopAndJumpsComplete :
    (Issues .s [kS 0] wS ∧ wS.rdS 0 = 0) ∧ (Issues .s [kS 6] wS ∧ wS.rdS 6 = 1) ∧
    (Issues .s [kS 5] wS ∧ 1 < (wS.rdS 5).toNat ∧ ((wS.lane .s).pc + (-10 : BitVec 11).signExtend 32).toNat < wS.me.clen .s) ∧
    (Issues .s [] wS ∧ ((wS.lane .s).pc + (53 : BitVec 21).signExtend 32).toNat < wS.me.clen .s ∧ ((wS.lane .s).pc + (-10 : BitVec 16).signExtend 32).toNat < wS.me.clen .s) ∧
    (Issues .s [kS 5] wS ∧ ((wS.rdS 5).setWidth 32 + (55 : BitVec 11).signExtend 32).toNat < wS.me.clen .s) :=
  ⟨⟨issues (by decide +kernel), by decide +kernel⟩, ⟨issues (by decide +kernel), by decide +kernel⟩,
    ⟨issues (by decide +kernel), by decide +kernel⟩, ⟨issues (by decide +kernel), by decide +kernel⟩,
    ⟨issues (by decide +kernel), by decide +kernel⟩⟩

/-- Hypotheses of `Obligations.LoadsOfOwnScratchpadComplete`: the first and the last bytes of the scratchpad. -/
theorem witness_LoadsOfOwnScratchpadComplete :
    (Issues .s [kS 4] wS ∧ OwnPool wS 0x10000 8 ∧ NoConflict wS (keyPool 0 0x10000) ∧ Sound wS ∧ Direct .s wS ∧ wS.rdS 4 + (-64 : BitVec 11).signExtend 64 = 0xFF00000000000000 + BitVec.ofNat 64 0x10000 ∧ 0x10000 % 8 = 0 ∧ wS.me.latch = none) ∧
    (Issues .s [kS 8, kS 0] (reg 8 0xFF0000000003FFFF wS) ∧ OwnPool (reg 8 0xFF0000000003FFFF wS) 0x3FFFF 1 ∧ NoConflict (reg 8 0xFF0000000003FFFF wS) (keyPool 0 0x3FFFF) ∧ Sound (reg 8 0xFF0000000003FFFF wS) ∧ Direct .s (reg 8 0xFF0000000003FFFF wS) ∧ (reg 8 0xFF0000000003FFFF wS).rdS 8 + (reg 8 0xFF0000000003FFFF wS).rdS 0 <<< 3 = 0xFF00000000000000 + BitVec.ofNat 64 0x3FFFF ∧ (reg 8 0xFF0000000003FFFF wS).me.latch = none) :=
  ⟨⟨issues (by decide +kernel), ownPool (by decide +kernel), noConflict rfl, ⟨rfl, rfl, rfl⟩, ⟨rfl, rfl, rfl⟩, by decide +kernel⟩,
    ⟨issues (by decide +kernel), ownPool (by decide +kernel), noConflict rfl, ⟨rfl, rfl, rfl⟩, ⟨rfl, rfl, rfl⟩, by decide +kernel⟩⟩

/-- Hypotheses of `Obligations.StoresToOwnScratchpadComplete`. -/
theorem witness_StoresToOwnScratchpadComplete :
    (Issues .s [kS 4, kS 7] wS ∧ OwnPool wS 0x10000 8 ∧ NoConflict wS (keyPool 0 0x10000) ∧ Sound wS ∧ Direct .s wS ∧ wS.rdS 4 + (-64 : BitVec 11).signExtend 64 = 0xFF00000000000000 + BitVec.ofNat 64 0x10000 ∧ 0x10000 % 8 = 0 ∧ wS.me.latch = none) ∧
    (Issues .s [kS 8, kS 0, kS 7] (reg 8 0xFF0000000003FFFE wS) ∧ OwnPool (reg 8 0xFF0000000003FFFE wS) 0x3FFFE 2 ∧ NoConflict (reg 8 0xFF0000000003FFFE wS) (keyPool 0 0x3FFFE) ∧ Sound (reg 8 0xFF0000000003FFFE wS) ∧ Direct .s (reg 8 0xFF0000000003FFFE wS) ∧ (reg 8 0xFF0000000003FFFE wS).rdS 8 + (reg 8 0xFF0000000003FFFE wS).rdS 0 <<< 1 = 0xFF00000000000000 + BitVec.ofNat 64 0x3FFFE ∧ (reg 8 0xFF0000000003FFFE wS).me.latch = none) :=
  ⟨⟨issues (by decide +kernel), ownPool (by decide +kernel), noConflict rfl, ⟨rfl, rfl, rfl⟩, ⟨rfl, rfl, rfl⟩, by decide +kernel⟩,
    ⟨issues (by decide +kernel), ownPool (by decide +kernel), noConflict rfl, ⟨rfl, rfl, rfl⟩, ⟨rfl, rfl, rfl⟩, by decide +kernel⟩⟩

/-- Hypotheses of `Obligations.AddressInstructionsComplete`. -/
theorem witness_AddressInstructionsComplete :
    Issues .s [kS 4] wS :=
  issues (by decide +kernel)

/-- Hypotheses of `Obligations.CallAndReturnComplete`. -/
theorem witness_CallAndReturnComplete :
    (Issues .s (frameRegs.map kS) wS ∧ Sound wS ∧ OwnPool wS 0x11048 72 ∧ Direct .s wS ∧ wS.me.latch = none ∧ wS.me.ctl.spillTop.toNat = 0x11048 ∧ 0x11048 % 8 = 0 ∧ wS.me.ctl.spillBase.toNat ≤ 0x11048 ∧ 0x11048 + 72 ≤ wS.me.ctl.spillLim.toNat ∧ ((wS.lane .s).pc + (53 : BitVec 21).signExtend 32).toNat < wS.me.clen .s) ∧
    (Issues .s (frameRegs.map kS) (my (fun c => { c with ctl := { c.ctl with spillTop := 0x11050 } }) wS) ∧ ¬ 0x11050 + 72 ≤ (0x11090 : Word).toNat) ∧
    (Issues .s [] wS ∧ Quiet wS ∧ Sound wS ∧ OwnPool wS 0x11000 72 ∧ wS.me.ctl.spillTop.toNat ≤ wS.me.ctl.spillLim.toNat ∧ wS.me.ctl.spillBase.toNat + 72 ≤ wS.me.ctl.spillTop.toNat ∧ (∀ n, n < 9 → ∀ i, i < 8 → memGet wS.mem (keyPool 0 0x11000 + 8 * n + i) = (0 : Word).extractLsb' (8 * i) 8) ∧ (bits (0 : Word) 0 32).toNat < wS.me.clen .s) ∧
    (Issues .s [] (my (fun c => { c with ctl := { c.ctl with spillTop := 0x11040 } }) wS) ∧ Quiet (my (fun c => { c with ctl := { c.ctl with spillTop := 0x11040 } }) wS) ∧ ¬ (0x11000 : Word).toNat + 72 ≤ (0x11040 : Word).toNat) :=
  ⟨⟨issues (by decide +kernel), ⟨rfl, rfl, rfl⟩, ownPool (by decide +kernel), ⟨rfl, rfl, rfl⟩, by decide +kernel⟩,
    ⟨issues (by decide +kernel), by decide +kernel⟩,
    ⟨issues (by decide +kernel), quiet (by decide +kernel), ⟨rfl, rfl, rfl⟩, ownPool (by decide +kernel), by decide +kernel⟩,
    ⟨issues (by decide +kernel), quiet (by decide +kernel), by decide +kernel⟩⟩

/-- Macro 3 is one word, `ADD`, whose fields the call fills in. -/
def wMacro : State := my (fun c => { c with macros := c.macros.set 48 { valid := true, last := true, selb := 3, sela := 2, seld := 1 } }) wS

/-- Hypotheses of `Obligations.IdlePrefetchAndMacroCallComplete`. -/
theorem witness_IdlePrefetchAndMacroCallComplete :
    (Issues .s [] wS) ∧ (Issues .s [kS 4] wS) ∧ (Issues .s [] wS ∧ macroOk wS.me 3 = false) ∧
    (Issues .s [] wMacro ∧ decode (.lane .s) [BitVec.ofNat 32 (macroWord (wMacro.me.macros.get 48) 9 1 2)] = .ok (.add 9 1 2) ∧ (∀ k, k < 32 → wMacro.me.src.ready.get k ≠ none) ∧ (wMacro.me.macros.get 48).last = true ∧ (wMacro.me.macros.get 48).valid = true ∧ macroOk wMacro.me 3 = true) :=
  ⟨issues (by decide +kernel), issues (by decide +kernel), ⟨issues (by decide +kernel), by decide +kernel⟩,
    ⟨issues (by decide +kernel), rfl, by decide +kernel⟩⟩

/-- Hypotheses of `Obligations.OrderedAccessesOfOwnScratchpadComplete`. -/
theorem witness_OrderedAccessesOfOwnScratchpadComplete :
    Quiet wS ∧ Sound wS ∧ Issues .s [kS 4] wS ∧ Issues .s [kS 4, kS 7] wS ∧ OwnPool wS 0x10000 8 ∧ wS.rdS 4 + (-64 : BitVec 11).signExtend 64 = 0xFF00000000000000 + BitVec.ofNat 64 0x10000 ∧ 0x10000 % 8 = 0 ∧ (∀ i, i < 8 → memGet wS.mem (keyPool 0 0x10000 + i) = (0 : Word).extractLsb' (8 * i) 8) ∧ (0 : Word).toNat < 2 ^ (8 * 8) :=
  ⟨quiet (by decide +kernel), ⟨rfl, rfl, rfl⟩, issues (by decide +kernel), issues (by decide +kernel), ownPool (by decide +kernel), by decide +kernel⟩

/-- A page of the local HBM. -/
def page : TlbEntry := { vf := 1, va := 0x2000, pa := 0x9000, size := 0x1000, cls := 0, sys := false, mt := 0, x := true, w := true }
/-- The TLB holds `page`; `s8` names its last word. -/
def wPage : State := my (fun c => { c with tlb := [page] }) (reg 8 0x2FF8 wS)

/-- Hypotheses of `Obligations.AtomicsComplete`. -/
theorem witness_AtomicsComplete :
    (Quiet wS ∧ Sound wS ∧ Issues .s [kS 4, kS 1, kS 9] wS ∧ OwnPool wS 0x10040 8 ∧ wS.rdS 4 = 0xFF00000000000000 + BitVec.ofNat 64 0x10040 ∧ 0x10040 % 8 = 0 ∧ (∀ i, i < 8 → memGet wS.mem (keyPool 0 0x10040 + i) = (0 : Word).extractLsb' (8 * i) 8)) ∧
    (Issues .s [kS 4, kS 1] wS ∧ wS.prog .s = .none ∧ bits (wS.rdS 4) 48 16 = 0xFF00) ∧
    (Quiet wPage ∧ Issues .s [kS 8, kS 1] wPage ∧ Mapped wPage (wPage.rdS 8) 8 0x9FF8 0 ∧ Sound wPage ∧ (wPage.rdS 8).toNat % 8 = 0 ∧ 0x9FF8 % 8 = 0 ∧ wPage.prog .s = .none ∧ (∀ r ∈ wPage.regs, r.gran ≠ 0x9FF8 / 32) ∧ (∀ i, i < 8 → memGet wPage.mem (0x9FF8 + i) = (0 : Word).extractLsb' (8 * i) 8)) :=
  ⟨⟨quiet (by decide +kernel), ⟨rfl, rfl, rfl⟩, issues (by decide +kernel), ownPool (by decide +kernel), by decide +kernel⟩,
    ⟨issues (by decide +kernel), by decide +kernel⟩,
    ⟨quiet (by decide +kernel), issues (by decide +kernel), ⟨by decide +kernel, ⟨page, by decide +kernel⟩, by decide +kernel, by decide +kernel⟩, ⟨rfl, rfl, rfl⟩, by decide +kernel⟩⟩

def wVault : State := my (fun c => { c with vpath := [(keyVault 0 0, [1], 2000)] }) wS
/-- A `VFENCE` that issued on pulse 990 waits. -/
def wFence (s : State) : State := s.updLane .s fun x => { x with waiting := true, prog := .vfence 990 }
def wGated : State := my (fun c => { c with matGate := .gated }) wS

/-- Hypotheses of `Obligations.FencesComplete`. -/
theorem witness_FencesComplete :
    (Issues .s [] wS ∧ Quiet wS) ∧ (Issues .s [] wS ∧ wS.prog .s = .none ∧ wS.me.vaultQuiet wS.now = true) ∧
    (Issues .s [] wVault ∧ wVault.prog .s = .none ∧ wVault.me.vaultQuiet wVault.now = false) ∧
    ((((wFence wVault).lane .s).waiting = true ∧ (wFence wVault).prog .s = .vfence 990 ∧ (wFence wVault).me.vaultQuiet 990 = false) ∧ (((wFence wS).lane .s).waiting = true ∧ (wFence wS).prog .s = .vfence 990 ∧ (wFence wS).me.vaultQuiet 990 = true)) ∧
    (Issues .s [] wS ∧ wS.me.matGate ≠ .gated) ∧ (Issues .s [] wGated ∧ wGated.me.matGate = .gated) ∧ (Issues .v [] wS) ∧
    (Issues .x [] wS) :=
  ⟨⟨issues (by decide +kernel), quiet (by decide +kernel)⟩, ⟨issues (by decide +kernel), by decide +kernel⟩,
    ⟨issues (by decide +kernel), by decide +kernel⟩, by decide +kernel, ⟨issues (by decide +kernel), by decide +kernel⟩,
    ⟨issues (by decide +kernel), by decide +kernel⟩, issues (by decide +kernel), issues (by decide +kernel)⟩

/-- Hypotheses of `Obligations.SignalAddition`. -/
theorem witness_SignalAddition :
    (0xFFFFFFFF < 2 ^ 32 ∧ ({} : Signal).byteMode = false) ∧ (({ byteMode := true, value := 5, expect := 8, armed := true } : Signal).byteMode = true ∧ 5 + 2 < 8) ∧ (({ byteMode := true, value := 5, expect := 8, armed := true } : Signal).armed = true ∧ 8 ≤ 5 + 3) ∧ (8 < 5 + 4) :=
  by decide +kernel

/-- Hypotheses of `Obligations.SignalWordsComplete`. -/
theorem witness_SignalWordsComplete :
    (Issues .s [kS 5] wS ∧ Quiet wS ∧ (∀ p ∈ wS.me.pendSig, p.sg ≠ 3) ∧ (bits (137 : CoreId) 3 5).toNat < 18 ∧ (bits wS.focus 3 5).toNat < 18) ∧
    (Issues .s [kS 10] (reg 10 0x809000000001 wS) ∧ Quiet (reg 10 0x809000000001 wS) ∧ ((reg 10 0x809000000001 wS).rdS 10).getLsbD 47 = true ∧ 18 ≤ (bits (bits ((reg 10 0x809000000001 wS).rdS 10) 32 11 : CoreId) 3 5).toNat) ∧
    (Issues .s [kS 5] (my (fun c => { c with sigs := c.sigs.set 3 { value := 8 } }) wS) ∧ Quiet (my (fun c => { c with sigs := c.sigs.set 3 { value := 8 } }) wS) ∧ ((my (fun c => { c with sigs := c.sigs.set 3 { value := 8 } }) wS).rdS 5).toNat ≤ ((my (fun c => { c with sigs := c.sigs.set 3 { value := 8 } }) wS).me.sigs.get 3).value.toNat) ∧
    (Issues .s [kS 5] (my (fun c => { c with sigs := c.sigs.set 3 { value := 7 } }) wS) ∧ Quiet (my (fun c => { c with sigs := c.sigs.set 3 { value := 7 } }) wS) ∧ ((my (fun c => { c with sigs := c.sigs.set 3 { value := 7 } }) wS).me.sigs.get 3).value.toNat < ((my (fun c => { c with sigs := c.sigs.set 3 { value := 7 } }) wS).rdS 5).toNat) ∧
    (Issues .s [kS 5] (my (fun c => { c with sigs := c.sigs.set 3 { byteMode := true } }) wS) ∧ Quiet (my (fun c => { c with sigs := c.sigs.set 3 { byteMode := true } }) wS)) ∧
    (Issues .s [kS 5] (my (fun c => { c with sigs := c.sigs.set 3 { byteMode := true, armed := true } }) wS) ∧ Quiet (my (fun c => { c with sigs := c.sigs.set 3 { byteMode := true, armed := true } }) wS)) :=
  ⟨⟨issues (by decide +kernel), quiet (by decide +kernel), by decide +kernel⟩,
    ⟨issues (by decide +kernel), quiet (by decide +kernel), by decide +kernel⟩,
    ⟨issues (by decide +kernel), quiet (by decide +kernel), by decide +kernel⟩,
    ⟨issues (by decide +kernel), quiet (by decide +kernel), by decide +kernel⟩,
    ⟨issues (by decide +kernel), quiet (by decide +kernel)⟩, ⟨issues (by decide +kernel), quiet (by decide +kernel)⟩⟩

/-- A ring of one segment, slot 3. -/
def ring : Ring := { valid := true, slots := .fill 3 }
/-- Ring 2 of core 0 is `r`, and `s10` holds `v`. -/
def wRing (r : Ring) (v : Word) : State := (reg 10 v wS).setRing 0 2 r
theorem notSpad {s : State} {c : CoreId} {v : Word} (h : (match decodeByte s c v true with | some (.spad _ _ _) => false | _ => true) = true) :
    ∀ p own o, decodeByte s c v true ≠ some (.spad p own o) := by
  intro p own o e
  simp [e] at h

/-- Hypotheses of `Obligations.RingAndOwnerWordsComplete`. -/
theorem witness_RingAndOwnerWordsComplete :
    (Issues .s [kS 10] (reg 10 0 wS) ∧ (wS.ring 0 2).valid = false) ∧
    (Issues .s [kS 10] (wRing { ring with claim := 63 } 0) ∧ Quiet (wRing { ring with claim := 63 } 0) ∧ ((wRing { ring with claim := 63 } 0).ring 0 2).valid = true ∧ ((wRing { ring with claim := 63 } 0).ring 0 2).claims = [] ∧ ((wRing { ring with claim := 63 } 0).ring 0 2).granted ≠ some wS.now ∧ 0 < 64 * ((0 : BitVec 5).toNat + 1) - ((63 : BitVec 32) - 0).toNat ∧ wS.me.slotOwner (ring.entry wS.me 63) = .lanes) ∧
    (Issues .s [kS 10] (wRing { ring with claim := 62, claims := [0, 5] } 0) ∧ Quiet (wRing { ring with claim := 62, claims := [0, 5] } 0) ∧ ((wRing { ring with claim := 62, claims := [0, 5] } 0).ring 0 2).valid = true ∧ ((wRing { ring with claim := 62, claims := [0, 5] } 0).ring 0 2).claims.head? = some wS.focus.toNat) ∧
    (Issues .s [kS 10] (wRing { ring with claim := 64 } 0) ∧ Quiet (wRing { ring with claim := 64 } 0) ∧ ((wRing { ring with claim := 64 } 0).ring 0 2).valid = true ∧ ¬ 0 < 64 * ((0 : BitVec 5).toNat + 1) - ((64 : BitVec 32) - 0).toNat) ∧
    (Issues .s [kS 10] (wRing { ring with claims := [5] } 0) ∧ Quiet (wRing { ring with claims := [5] } 0) ∧ ((wRing { ring with claims := [5] } 0).ring 0 2).valid = true ∧ (¬ (({ ring with claims := [5] } : Ring).claims = [] ∨ ({ ring with claims := [5] } : Ring).claims.head? = some wS.focus.toNat))) ∧
    (Issues .s [kS 10] (wRing { ring with claim := 60 } 0x400) ∧ Quiet (wRing { ring with claim := 60 } 0x400) ∧ ((wRing { ring with claim := 60 } 0x400).ring 0 2).valid = true ∧ (bits ((wRing { ring with claim := 60 } 0x400).rdS 10) 8 7).toNat = 4 ∧ 4 ≤ 64 * ((0 : BitVec 5).toNat + 1) - ((60 : BitVec 32) - 0).toNat) ∧
    (Issues .s [kS 10] (wRing { ring with claim := 61 } 0x400) ∧ Quiet (wRing { ring with claim := 61 } 0x400) ∧ ((wRing { ring with claim := 61 } 0x400).ring 0 2).valid = true ∧ 64 * ((0 : BitVec 5).toNat + 1) - ((61 : BitVec 32) - 0).toNat < 4) ∧
    (Issues .s [kS 10] (wRing ring 0) ∧ Quiet (wRing ring 0) ∧ ((wRing ring 0).ring 0 2).valid = true ∧ (bits ((wRing ring 0).rdS 10) 8 7).toNat = 0) ∧
    (Issues .s [kS 10] (wRing { ring with claim := 3, tail := 3 } 0x300) ∧ Quiet (wRing { ring with claim := 3, tail := 3 } 0x300) ∧ ((wRing { ring with claim := 3, tail := 3 } 0x300).ring 0 2).valid = true ∧ (bits ((wRing { ring with claim := 3, tail := 3 } 0x300).rdS 10) 8 7).toNat ≤ (3 - 0 : BitVec 32).toNat) ∧
    (Issues .s [kS 10] (wRing { ring with claim := 3, tail := 3 } 0x400) ∧ Quiet (wRing { ring with claim := 3, tail := 3 } 0x400) ∧ ((wRing { ring with claim := 3, tail := 3 } 0x400).ring 0 2).valid = true ∧ (3 - 0 : BitVec 32).toNat < (bits ((wRing { ring with claim := 3, tail := 3 } 0x400).rdS 10) 8 7).toNat) ∧
    (Issues .s [kS 10] (wRing { ring with claim := 1, tail := 1 } 0) ∧ Quiet (wRing { ring with claim := 1, tail := 1 } 0) ∧ ((wRing { ring with claim := 1, tail := 1 } 0).ring 0 2).valid = true ∧ (1 : BitVec 32) ≠ 0 ∧ wS.me.slotOwner (ring.entry wS.me 0) = .lanes) ∧
    (Issues .s [kS 10] (reg 10 0x2000 wS) ∧ (∀ p own o, decodeByte (reg 10 0x2000 wS) 0 0x2000 true ≠ some (.spad p own o))) ∧
    (Issues .s [kS 10] (wRing { ring with claim := 4, tail := 2 } 0xFF00000000013080) ∧ Quiet (wRing { ring with claim := 4, tail := 2 } 0xFF00000000013080) ∧ ((wRing { ring with claim := 4, tail := 2 } 0xFF00000000013080).ring 0 2).valid = true ∧ decodeByte (wRing { ring with claim := 4, tail := 2 } 0xFF00000000013080) 0 0xFF00000000013080 true = some (.spad 0 true 0x13080) ∧ ring.find wS.me 0x13080 2 2 = some 2 ∧ (2 : BitVec 32) ∉ ring.committed ∧ ring.find wS.me 0x13200 2 2 = none ∧ wS.me.slotOwner 0x13080 = .lanes) ∧
    (Issues .s [kS 10] (wRing { ring with claim := 4, tail := 4, take := 2 } 0xFF00000000013000) ∧ Quiet (wRing { ring with claim := 4, tail := 4, take := 2 } 0xFF00000000013000) ∧ ((wRing { ring with claim := 4, tail := 4, take := 2 } 0xFF00000000013000).ring 0 2).valid = true ∧ decodeByte (wRing { ring with claim := 4, tail := 4, take := 2 } 0xFF00000000013000) 0 0xFF00000000013000 true = some (.spad 0 true 0x13000) ∧ ring.find wS.me 0x13000 0 2 = some 0 ∧ (0 : BitVec 32) ∉ ring.done) ∧
    (((0 : BitVec 32) + BitVec.ofNat 32 2 ∉ ([0, 1] : List (BitVec 32)) ∧ (∀ i : Nat, i < 2 → (0 : BitVec 32) + BitVec.ofNat 32 i ∈ ([0, 1] : List (BitVec 32)))) ∧ (({ ring with pv := true, head := 64, claim := 70 } : Ring).nseg.toNat < 31 ∧ (({ ring with pv := true, head := 64, claim := 70 } : Ring).head - ring.org).toNat % (64 * (ring.nseg.toNat + 1)) = 0)) ∧
    (Issues .s [] wS ∧ 44 + 4 ≤ (wS.me.ctl.pbSpad - wS.me.ctl.pbReg) / 4096 ∧ wS.me.slotsQuiet wS.focus 44 4 = true ∧ (∀ k, k < 8 → (wS.core (peerOf wS.focus k)).xfers = []) ∧ (∀ i, i < 48 → 44 ≤ i → wS.me.slots.get i = .lanes)) ∧
    (Issues .s [] wS ∧ wS.me.slots.get 44 ≠ .xe) ∧ (Issues .s [] wS ∧ (wS.me.ctl.pbSpad - wS.me.ctl.pbReg) / 4096 < 45 + 4) :=
  ⟨⟨issues (by decide +kernel), by decide +kernel⟩, ⟨issues (by decide +kernel), quiet (by decide +kernel), by decide +kernel⟩,
    ⟨issues (by decide +kernel), quiet (by decide +kernel), by decide +kernel⟩,
    ⟨issues (by decide +kernel), quiet (by decide +kernel), by decide +kernel⟩,
    ⟨issues (by decide +kernel), quiet (by decide +kernel), by decide +kernel⟩,
    ⟨issues (by decide +kernel), quiet (by decide +kernel), by decide +kernel⟩,
    ⟨issues (by decide +kernel), quiet (by decide +kernel), by decide +kernel⟩,
    ⟨issues (by decide +kernel), quiet (by decide +kernel), by decide +kernel⟩,
    ⟨issues (by decide +kernel), quiet (by decide +kernel), by decide +kernel⟩,
    ⟨issues (by decide +kernel), quiet (by decide +kernel), by decide +kernel⟩,
    ⟨issues (by decide +kernel), quiet (by decide +kernel), by decide +kernel⟩,
    ⟨issues (by decide +kernel), notSpad (by decide +kernel)⟩,
    ⟨issues (by decide +kernel), quiet (by decide +kernel), by decide +kernel⟩,
    ⟨issues (by decide +kernel), quiet (by decide +kernel), by decide +kernel⟩, by decide +kernel,
    ⟨issues (by decide +kernel), by decide +kernel⟩, ⟨issues (by decide +kernel), by decide +kernel⟩,
    ⟨issues (by decide +kernel), by decide +kernel⟩⟩

/-- `s10` holds the present `PTIME`, 769 ns, plus `d`. -/
def wTick (d : Int) : State := reg 10 (BitVec.ofInt 64 (769 + d)) wS
def wLamp (l : Lamp) : State := my (fun c => { c with lamp := l, task := { c.task with lamp := [0, 1, 2] } }) wS
/-- A collective table of `n` tiles at the start of `page`; tile 1 is named. -/
def wTable (n : Byte) : State := { reg 10 0x2000 (reg 11 1 wPage) with mem := [(0x9000, n)] }

theorem notGlobal {s : State} {v : Word} (h : (match decodeAddr s s.focus v 1 false with | some (.global _) => false | _ => true) = true) :
    ∀ p, decodeAddr s s.focus v 1 false ≠ some (.global p) := by
  intro p e
  simp [e] at h
/-- The reads that `COLLRDY` makes before it looks at an entry succeed. -/
def headOf (s : State) (p : List Byte → Bool) : Bool :=
  okWith (release .s .package false (s.starts .s)) fun s1 => okWith (readWords 0x2000 8 s1) fun r => p r.1
theorem readsHead {s : State} {n : Nat} (h : headOf s (fun b => decide (fieldOf b 0 4 ≤ n)) = true) :
    ∃ s1 r, release .s .package false (s.starts .s) = .ok s1 ∧ readWords 0x2000 8 s1 = .ok r ∧ decide (fieldOf r.1 0 4 ≤ n) = true := by
  obtain ⟨s1, h1, h2⟩ := ok_of h
  obtain ⟨r, h3, h4⟩ := ok_of h2
  exact ⟨s1, r, h1, h3, h4⟩
def entryOf (s : State) (p : List Byte → Bool) : Bool :=
  okWith (release .s .package false (s.starts .s)) fun s1 => okWith (readWords 0x2000 8 s1) fun r => p r.1 && okWith (readWords 0x20C0 16 r.2.2) fun _ => true
theorem readsEntry {s : State} {n : Nat} (h : entryOf s (fun b => decide (n < fieldOf b 0 4)) = true) :
    ∃ s1 r b, release .s .package false (s.starts .s) = .ok s1 ∧ readWords 0x2000 8 s1 = .ok r ∧ n < fieldOf r.1 0 4 ∧
      readWords 0x20C0 16 r.2.2 = .ok b := by
  obtain ⟨s1, h1, h2⟩ := ok_of h
  obtain ⟨r, h3, h4⟩ := ok_of h2
  simp only [Bool.and_eq_true, decide_eq_true_eq] at h4
  obtain ⟨b, h5, -⟩ := ok_of h4.2
  exact ⟨s1, r, b, h1, h3, h4.1, h5⟩

/-- Hypotheses of `Obligations.TickLampAndCollectiveWordsComplete`. -/
theorem witness_TickLampAndCollectiveWordsComplete :
    (Issues .s [kS 10] (wTick 0) ∧ ((wTick 0).rdS 10).toNat ≤ (wTick 0).ptime ∧ (wTick 0).ptime ≤ ((wTick 0).rdS 10).toNat + 64) ∧
    (Issues .s [kS 10] (wTick (-64)) ∧ (wTick (-64)).ptime ≤ ((wTick (-64)).rdS 10).toNat + 64) ∧
    (Issues .s [kS 10] (wTick (-65)) ∧ ((wTick (-65)).rdS 10).toNat + 64 < (wTick (-65)).ptime ∧ (wTick (-65)).prog .s = .none) ∧
    (Issues .s [kS 10] (wTick 1) ∧ (wTick 1).ptime < ((wTick 1).rdS 10).toNat) ∧
    (Issues .s [kS 9] wS ∧ wS.me.task.lamp = [] ∧ wS.me.lamp.hold = false) ∧
    (Issues .s [kS 9] (wLamp { hold := true }) ∧ (wLamp { hold := true }).me.task.lamp ≠ [] ∧ (wLamp { hold := true }).me.lamp.hold = true) ∧
    (Issues .s [kS 10, kS 11] wS ∧ (∀ p, decodeAddr wS wS.focus 0xFF00000000010000 1 false ≠ some (.global p))) ∧
    (Issues .s [kS 10, kS 11] (wTable 1) ∧ (∃ p, decodeAddr (wTable 1) (wTable 1).focus ((wTable 1).rdS 10) 1 false = some (.global p)) ∧ (∃ s1 r, release .s .package false ((wTable 1).starts .s) = .ok s1 ∧ readWords 0x2000 8 s1 = .ok r ∧ decide (fieldOf r.1 0 4 ≤ 1) = true) ∧ ((wTable 1).rdS 11).toNat = 1) ∧
    (Issues .s [kS 10, kS 11] (wTable 2) ∧ (∃ s1 r b, release .s .package false ((wTable 2).starts .s) = .ok s1 ∧ readWords 0x2000 8 s1 = .ok r ∧ 1 < fieldOf r.1 0 4 ∧ readWords 0x20C0 16 r.2.2 = .ok b)) :=
  ⟨⟨issues (by decide +kernel), by decide +kernel⟩, ⟨issues (by decide +kernel), by decide +kernel⟩,
    ⟨issues (by decide +kernel), by decide +kernel⟩, ⟨issues (by decide +kernel), by decide +kernel⟩,
    ⟨issues (by decide +kernel), by decide +kernel⟩, ⟨issues (by decide +kernel), by decide +kernel⟩,
    ⟨issues (by decide +kernel), notGlobal (by decide +kernel)⟩,
    ⟨issues (by decide +kernel), ⟨_, rfl⟩, readsHead (by decide +kernel), by decide +kernel⟩,
    ⟨issues (by decide +kernel), readsEntry (by decide +kernel)⟩⟩

/-- Tag 0x123 stands in way 0 of its set, made in step 10 with two links; the present step is `k`, and the change `delta`. -/
def wReuse (e : TagEntry) (k : BitVec 32) (delta : Word) : State :=
  let s := reg 10 0x123 (reg 11 delta wS)
  ((s.updR fun r => { r with lv := r.lv.set 0 k }).updMe fun c =>
    { c with slots := .fill .xe, task := { c.task with maxage := 4, maxchain := 3, theta := 0x3F800000, rways := 2, rin := 16, rout := 16,
                                                       rdata := 0xFF00000000010000 } }).updDie 0 fun d => { d with tags := d.tags.set 4656 e }
def tagged : TagEntry := { valid := true, tag := 0x123, s0 := 10, chain := 2 }

/-- The entry image is read, checked and written at the way that is chosen. -/
def putRuns (rel : State) : Bool :=
  let s := rel.updMe fun c => { c with pin := none }
  decide (rel.chooseWay 0x123 = some 4656) && decide (rel.focus = 0) && okWith (engineReadRun s.engine 0xFF00000000020000 32 s) fun a =>
    okWith (engineCheckRun a.2.engine (dataAddr rel.me.task 4656) 32 true a.2) fun b =>
      okWith (engineWriteRun b.engine (dataAddr rel.me.task 4656) a.1 b) fun _ => true
/-- A `RPUT` that has released waits for a way, of which its task has none. -/
def wChoose : State := (my (fun c => { c with task := { c.task with rways := 0 } }) (wReuse {} 14 0)).updLane .s fun x =>
  { x with waiting := true, prog := .choosing }

/-- Hypotheses of `Obligations.ReuseWordsComplete`. -/
theorem witness_ReuseWordsComplete :
    (Issues .s [kS 10, kS 11] (wReuse {} 10 0) ∧ Quiet (wReuse {} 10 0) ∧ ((wReuse {} 10 0).die 0).lookup (bits ((wReuse {} 10 0).rdS 10) 0 44) = none) ∧
    (Issues .s [kS 10, kS 11] (wReuse tagged 15 0) ∧ Quiet (wReuse tagged 15 0) ∧ ((wReuse tagged 15 0).die 0).lookup (bits ((wReuse tagged 15 0).rdS 10) 0 44) = some 4656 ∧ (4 : Int) < ((15 : BitVec 32) - 10).toInt) ∧
    (Issues .s [kS 10, kS 11] (wReuse { tagged with chain := 3 } 14 0) ∧ Quiet (wReuse { tagged with chain := 3 } 14 0) ∧ ((wReuse { tagged with chain := 3 } 14 0).die 0).lookup (bits ((wReuse { tagged with chain := 3 } 14 0).rdS 10) 0 44) = some 4656 ∧ ((14 : BitVec 32) - 10).toInt ≤ 4 ∧ 3 ≤ (3 : BitVec 4).toNat) ∧
    (Issues .s [kS 10, kS 11] (wReuse tagged 14 0) ∧ Quiet (wReuse tagged 14 0) ∧ ((wReuse tagged 14 0).die 0).lookup (bits ((wReuse tagged 14 0).rdS 10) 0 44) = some 4656 ∧ (2 : BitVec 4).toNat < 3) ∧
    (Issues .s [kS 10, kS 11] (wReuse tagged 14 0x3F800000) ∧ Quiet (wReuse tagged 14 0x3F800000) ∧ f32Less 0x3F800000 0x3F800000 = false) ∧
    (Issues .s [kS 10, kS 11] (wReuse tagged 14 0x3F7FFFFF) ∧ Quiet (wReuse tagged 14 0x3F7FFFFF) ∧ f32Less 0x3F7FFFFF 0x3F800000 = true) ∧
    (Issues .s [kS 10, kS 11] (wReuse {} 14 0xFF00000000020000) ∧ Quiet (wReuse {} 14 0xFF00000000020000) ∧ (∃ rel, release .s .package false ((wReuse {} 14 0xFF00000000020000).starts .s) = .ok rel ∧ putRuns rel = true)) ∧
    (Issues .s [kS 10, kS 11] (wReuse {} 14 0) ∧ Quiet (wReuse {} 14 0) ∧ (∃ rel, release .s .package false ((wReuse {} 14 0).starts .s) = .ok rel ∧ (match engineReadRun rel.engine 0 32 rel with | .error (.trap _ _) => true | _ => false) = true)) ∧
    ((wChoose.lane .s).waiting = true ∧ wChoose.prog .s = .choosing ∧ wChoose.chooseWay 0x123 = none) ∧
    (Issues .s [kS 10] (wReuse tagged 14 0) ∧ ((wReuse tagged 14 0).die 0).lookup 0x123 = some 4656 ∧ ((wReuse {} 14 0).die 0).lookup 0x123 = none) :=
  ⟨⟨issues (by decide +kernel), quiet (by decide +kernel), by decide +kernel⟩,
    ⟨issues (by decide +kernel), quiet (by decide +kernel), by decide +kernel⟩,
    ⟨issues (by decide +kernel), quiet (by decide +kernel), by decide +kernel⟩,
    ⟨issues (by decide +kernel), quiet (by decide +kernel), by decide +kernel⟩,
    ⟨issues (by decide +kernel), quiet (by decide +kernel), by decide +kernel⟩,
    ⟨issues (by decide +kernel), quiet (by decide +kernel), by decide +kernel⟩,
    ⟨issues (by decide +kernel), quiet (by decide +kernel), ok_of (by decide +kernel)⟩,
    ⟨issues (by decide +kernel), quiet (by decide +kernel), ok_of (by decide +kernel)⟩, by decide +kernel,
    ⟨issues (by decide +kernel), by decide +kernel⟩⟩

/-- Hypotheses of `Obligations.LoopAndDescriptorWordsComplete`. -/
theorem witness_LoopAndDescriptorWordsComplete :
    (Issues .s [kS 4, kS 5] wS) ∧ (Issues .s [kS 4, kS 5] wP ∧ wP.me.ctl.pl = true) :=
  ⟨issues (by decide +kernel), ⟨issues (by decide +kernel), by decide +kernel⟩⟩

/-- Hypotheses of `Obligations.SystemRegisterReads`. -/
theorem witness_SystemRegisterReads :
    (Issues .s [] wS ∧ wS.isReady kShape = true) ∧ ((0x05A : BitVec 11).toNat ∉ [0x050, 0x051, 0x058, 0x059]) :=
  ⟨⟨issues (by decide +kernel), by decide +kernel⟩, by decide +kernel⟩

/-- Hypotheses of `Obligations.SystemRegisterWritesAndGuards`. -/
theorem witness_SystemRegisterWritesAndGuards :
    (Issues .s [kS 0] wS ∧ Issues .s [kS 1] wP ∧ wS.me.ctl.pl = false ∧ wP.me.ctl.pl = true) ∧
    (Issues .s [kS 10] (reg 10 0x1FB wS) ∧ ((reg 10 0x1FB wS).rdS 10).toNat < 2 ^ 9 ∧ ((reg 10 0x1FB wS).rdS 10).getLsbD 2 = false) ∧
    (Issues .s [kS 10] (reg 10 0x200 wS) ∧ ¬ ((reg 10 0x200 wS).rdS 10).toNat < 2 ^ 9) ∧
    (Issues .s [kS 10] (reg 10 0x4000 wP) ∧ 1 ≤ ((reg 10 0x4000 wP).rdS 10).toNat / 2 ^ 8 ∧ ((reg 10 0x4000 wP).rdS 10).toNat = (EType.f32).code + 2 ^ 8 * (((reg 10 0x4000 wP).rdS 10).toNat / 2 ^ 8) ∧ ((reg 10 0x4000 wP).rdS 10).toNat / 2 ^ 8 ≤ 256 / etBytes .f32) ∧
    (Issues .s [kS 10] (reg 10 1 wP) ∧ ((reg 10 1 wP).rdS 10).toNat / 2 ^ 8 = 0) :=
  ⟨⟨issues (by decide +kernel), issues (by decide +kernel), by decide +kernel⟩, ⟨issues (by decide +kernel), by decide +kernel⟩,
    ⟨issues (by decide +kernel), by decide +kernel⟩, ⟨issues (by decide +kernel), by decide +kernel⟩,
    ⟨issues (by decide +kernel), by decide +kernel⟩⟩

/-- The word of the S lane waits. -/
def wWait (p : Prog) : State := wS.updLane .s fun x => { x with waiting := true, prog := p }
/-- A divisor ramps. -/
def wRamp : State := wS.updMyCluster fun k => { k with clk := { k.clk with ramp := some 4100 } }

/-- Hypotheses of `Obligations.PowerWordsComplete`. -/
theorem witness_PowerWordsComplete :
    (Issues .s [] wS ∧ wS.prog .s = .none ∧ (0 : BitVec 16) = 0) ∧
    (((1 : BitVec 16) ≠ 0 ∧ wS.myCluster.share.toNat < wS.me.ctl.pwrdecl + (123 : BitVec 16).toNat) ∧ (wS.me.ctl.pwrdecl + (122 : BitVec 16).toNat ≤ 1024 ∧ wS.me.ctl.pwrdecl + (122 : BitVec 16).toNat ≤ wS.myCluster.share.toNat) ∧ ((3 : BitVec 7).toNat < 4 ∧ 64 < (65 : BitVec 7).toNat ∧ 4 ≤ (4 : BitVec 7).toNat ∧ (64 : BitVec 7).toNat ≤ 64 ∧ wS.myCluster.clk.ramp = none) ∧ ((wWait (.granted 5)).prog .s = .granted 5 ∧ ((wWait (.granted 5)).lane .s).waiting = true) ∧ ((wWait .acqp).prog .s = .acqp ∧ ((wWait .acqp).lane .s).waiting = true) ∧ ((wWait (.setdiv true)).prog .s = .setdiv true ∧ ((wWait (.setdiv true)).lane .s).waiting = true) ∧ ((wWait .ramped).prog .s = .ramped ∧ ((wWait .ramped).lane .s).waiting = true)) ∧
    (Issues .s [] wRamp ∧ wRamp.prog .s = .none ∧ wRamp.myCluster.clk.ramp ≠ none) :=
  ⟨⟨issues (by decide +kernel), by decide +kernel⟩, by decide +kernel, ⟨issues (by decide +kernel), by decide +kernel⟩⟩

def wTvec : State := wS.updCtl fun c => { c with tvec := 0x20 }

/-- Hypotheses of `Obligations.TakingATrap`. -/
theorem witness_TakingATrap :
    (wS.me.latch = none ∧ wS.me.ctl.tvec = 0 ∧ (wS.lane .s).waiting = false) ∧ (((wWait (.setdiv true)).lane .s).waiting = true ∧ (wWait (.setdiv true)).prog .s = .setdiv true ∧ (wWait (.setdiv true)).me.latch = none) ∧ ((wWait (.granted 5)).prog .s = .granted 5 ∧ (wWait (.granted 5)).me.latch = none) ∧ ((wWait (.acquiring 990)).prog .s = .acquiring 990 ∧ (wWait (.acquiring 990)).me.latch = none) ∧ (wTvec.me.latch = none ∧ wTvec.me.ctl.pl = false ∧ wTvec.me.ctl.tvec ≠ 0 ∧ Cause.trapSw ≠ .preempt ∧ Cause.trapSw ≠ .debug) ∧ (Cause.preempt = .preempt) :=
  by decide +kernel

/-- Hypotheses of `Obligations.TrapAndReturnComplete`. -/
theorem witness_TrapAndReturnComplete :
    (Issues .s [] wS) ∧ (Issues .s [] wP ∧ wP.me.ctl.pl = true) :=
  ⟨issues (by decide +kernel), ⟨issues (by decide +kernel), by decide +kernel⟩⟩

/-- A line of way 13. -/
def way13 : L2Line := { way := 13, data := List.replicate 128 0, dirty := cleanMask, ver := [0, 0, 0, 0] }
def wWay : State := wP.updCluster 0 fun k => { k with l2 := k.l2.set 5 (some way13) }
/-- A launch record in the last bytes of an uncached page. -/
def wRecord : State := my (fun c => { c with tlb := [{ page with mt := 1 }] }) (reg 8 0x2FE0 wS)

/-- Hypotheses of `Obligations.L2ConversionAndLaunchComplete`. -/
theorem witness_L2ConversionAndLaunchComplete :
    (Issues .s [] wP ∧ wP.me.ctl.pl = true ∧ (wP.cluster 0).conv < (1 : BitVec 5).toNat ∧ 15 - (wP.cluster 0).conv < (16 : BitVec 5).toNat ∧ (15 : BitVec 5).toNat ≤ 15 - (wP.cluster 0).conv) ∧
    (Issues .s [] (wP.updCluster 0 fun k => { k with conv := 3 }) ∧ (3 : BitVec 5).toNat ≤ ((wP.updCluster 0 fun k => { k with conv := 3 }).cluster 0).conv ∧ (wP.updCluster 0 fun k => { k with conv := 3 }).l2Dirty 0 = []) ∧
    (Issues .s [] wWay ∧ (wWay.cluster 0).l2.get 5 = some way13 ∧ 15 - 0 < way13.way + 3 ∧ way13.way ≤ 15 - 0) ∧
    (Issues .s [kS 4] wS ∧ wS.prog .s = .none ∧ bits (wS.rdS 4) 48 16 = 0xFF00) ∧
    (Issues .s [kS 8] (reg 8 0x2041 wS) ∧ (reg 8 0x2041 wS).prog .s = .none ∧ ((reg 8 0x2041 wS).rdS 8).toNat + 32 ≤ 2 ^ 56 ∧ ((reg 8 0x2041 wS).rdS 8).toNat % 8 ≠ 0) ∧
    (Issues .s [kS 8] wRecord ∧ Quiet wRecord ∧ Sound wRecord ∧ Mapped wRecord (wRecord.rdS 8) 32 0x9FE0 1 ∧ (wRecord.rdS 8).toNat % 8 = 0 ∧ (1 : Nat) ≠ 0 ∧ 0x9FE0 % 8 = 0 ∧ (∀ i, i < 32 → memGet wRecord.mem (0x9FE0 + i) = (0 : BitVec 256).extractLsb' (8 * i) 8) ∧ ((wRecord.die 0).lq.get 1).length < 64) :=
  ⟨⟨issues (by decide +kernel), by decide +kernel⟩, ⟨issues (by decide +kernel), by decide +kernel⟩,
    ⟨issues (by decide +kernel), by decide +kernel⟩, ⟨issues (by decide +kernel), by decide +kernel⟩,
    ⟨issues (by decide +kernel), by decide +kernel⟩,
    ⟨issues (by decide +kernel), quiet (by decide +kernel), ⟨rfl, rfl, rfl⟩, ⟨by decide +kernel, ⟨{ page with mt := 1 }, by decide +kernel⟩, by decide +kernel, by decide +kernel⟩, by decide +kernel⟩⟩

/-- A pre-emption is pending, and the core takes its points. -/
def wPoint : State := my (fun c => { c with preempt := some 0x3000, ctl := { c.ctl with pe := true } }) wS
/-- The other lanes are behind their sections. -/
def wHalt : State := my (fun c => { c with lanes := (Tab.fill { pc := 64 }).set 0 { pc := 10, parked := false } }) wS

/-- Hypotheses of `Obligations.TaskEndWordsComplete`. -/
theorem witness_TaskEndWordsComplete :
    (Issues .s [kS 4] wS ∧ wS.me.preempt = none) ∧
    (Issues .s [kS 4] wPoint ∧ Sound wPoint ∧ wPoint.me.preempt = some 0x3000 ∧ wPoint.me.takesPoint = true ∧ wPoint.me.latch = none ∧ wPoint.prog .s = .none ∧ wPoint.me.lq.get 0 = [] ∧ wPoint.rdS 4 = 0xFF00000000000000 + BitVec.ofNat 64 0x10040 ∧ 0x10040 % 8 = 0 ∧ wPoint.me.slotOwner 0x10040 = .lanes ∧ wPoint.me.slotOwner (0x10040 + 47) = .lanes ∧ wPoint.me.ctl.pbReg ≤ 0x10040 ∧ 0x10040 + 48 ≤ wPoint.me.ctl.pbSpad ∧ (∀ i, i < 48 → memGet wPoint.mem (keyPool 0 0x10040 + i) = (0 : BitVec 384).extractLsb' (8 * i) 8) ∧ liveOk 0 0x10000 0x40000 = true) ∧
    (liveOk ((1 : BitVec 384) <<< 383) 0x10000 0x40000 = false) ∧
    (Issues .s [] wHalt ∧ Quiet wHalt ∧ (∀ l ∈ [Lane.v, .m, .x], wHalt.me.laneDone l = true) ∧ wHalt.me.enginesDone wHalt.now = true ∧ wHalt.me.pathsEmpty = true ∧ wHalt.sigsDone wHalt.focus = true ∧ wHalt.turnDone wHalt.focus = true) ∧
    (Issues .s [] wS ∧ ∃ l, l ≠ Lane.s ∧ wS.me.laneDone l = false) :=
  ⟨⟨issues (by decide +kernel), by decide +kernel⟩, ⟨issues (by decide +kernel), ⟨rfl, rfl, rfl⟩, by decide +kernel⟩,
    by decide +kernel, ⟨issues (by decide +kernel), quiet (by decide +kernel), by decide +kernel⟩,
    ⟨issues (by decide +kernel), ⟨.v, by decide +kernel⟩⟩⟩

def wQueued : State := wS.updMyCluster fun k =>
  { k with turn := { k.turn with queue := [{ num := 0, nb := 0, at_ := 0, lat := 1, core := 0, op := .swap, sa := 0, sd := 0, under := none }] } }
def wTwait : State := wQueued.updLane .s fun x => { x with waiting := true, prog := .turn 0 }
def wBlamed : State := wS.updMyCluster fun k => { k with turn := { k.turn with blame := k.turn.blame.set 0 (some (.turnBits, 5)) } }
def wTurned : State := (wWait (.turn 3)).updMyCluster fun k => { k with turn := { k.turn with results := [(2, 5), (3, 77)] } }

/-- Hypotheses of `Obligations.TurntableWordsComplete`. -/
theorem witness_TurntableWordsComplete :
    (Issues .s [kS 4, kS 5] wS ∧ wS.prog .s = .none ∧ wS.me.vaultQuiet wS.now = true ∧ wS.myCluster.turn.queue.length < 16) ∧
    (Issues .s [] wS ∧ wS.prog .s = .none ∧ wS.me.vaultQuiet wS.now = true ∧ wS.myCluster.turn.queue = [] ∧ wS.myCluster.turn.blame.get 0 = none) ∧
    (Issues .s [] wBlamed ∧ wBlamed.myCluster.turn.queue = [] ∧ wBlamed.myCluster.turn.blame.get 0 = some (.turnBits, 5)) ∧
    (Issues .s [] wQueued ∧ wQueued.prog .s = .none ∧ wQueued.me.vaultQuiet wQueued.now = true ∧ wQueued.myCluster.turn.queue ≠ [] ∧ wQueued.myCluster.turn.queue.length < 16) ∧
    (((wWait (.turn 3)).lane .s).waiting = true ∧ (wWait (.turn 3)).prog .s = .turn 3 ∧ (∀ q ∈ (wWait (.turn 3)).myCluster.turn.queue, q.num ≠ 3)) ∧ ((wTwait.lane .s).waiting = true ∧ wTwait.prog .s = .turn 0 ∧ (∃ q ∈ wTwait.myCluster.turn.queue, q.num = 0)) ∧ ((wTurned.lane .s).waiting = true ∧ wTurned.prog .s = .turn 3 ∧ wTurned.myCluster.turn.results.find? (fun r => r.1 == 3) = some (3, 77)) :=
  ⟨⟨issues (by decide +kernel), by decide +kernel⟩, ⟨issues (by decide +kernel), by decide +kernel⟩,
    ⟨issues (by decide +kernel), by decide +kernel⟩, ⟨issues (by decide +kernel), by decide +kernel⟩, by decide +kernel⟩

/-- The slots are the Turntable's. -/
def wTurn : State := my (fun c => { c with slots := .fill .turn }) wS
def turnRecord : BitVec 256 := 0x1300000000
def wTurnRec : State := pool 0x10040 ((List.range 32).map fun i => turnRecord.extractLsb' (8 * i) 8) wTurn

/-- Hypotheses of `Obligations.TurntableLoadsComplete`. -/
theorem witness_TurntableLoadsComplete :
    (Issues .s [kS 4] wTurn ∧ Sound wTurn ∧ TurnPool wTurn 0x10040 32 ∧ wTurn.me.lq.get 0 = [] ∧ wTurn.rdS 4 = 0xFF00000000000000 + BitVec.ofNat 64 0x10040 ∧ (∀ i, i < 32 → memGet wTurn.mem (keyPool 0 0x10040 + i) = (0 : BitVec 256).extractLsb' (8 * i) 8) ∧ ((bindingOf 0).2 && (bindingOf 0).1.ok 0 0) = false) ∧
    (TurnPool (wTurnRec) 0x10040 32 ∧ ((bindingOf turnRecord.toNat).2 && (bindingOf turnRecord.toNat).1.ok 0 0) = true ∧ (∀ i, i < 32 → memGet wTurnRec.mem (keyPool 0 0x10040 + i) = turnRecord.extractLsb' (8 * i) 8) ∧ wTurnRec.prog .s = .none ∧ wTurnRec.me.vaultQuiet wTurnRec.now = true ∧ wTurnRec.myCluster.turn.queue.length < 16) ∧
    (TurnPool wTurn 0x10040 8 ∧ TurnPool wTurn 0x10040 16 ∧ (memGet wTurn.mem (keyPool 0 0x10040)).toNat % 8 = 0) ∧
    (TurnPool (pool 0x10040 [4] wTurn) 0x10040 2056 ∧ (memGet (pool 0x10040 [4] wTurn).mem (keyPool 0 0x10040)).toNat % 8 = 4) ∧
    (4 < (memGet (pool 0x10040 [5] wTurn).mem (keyPool 0 0x10040)).toNat % 8) :=
  ⟨⟨issues (by decide +kernel), ⟨rfl, rfl, rfl⟩, ⟨by decide +kernel, by decide +kernel, by decide +kernel, by decide +kernel, fun _ _ => noConflict rfl⟩, by decide +kernel⟩,
    ⟨⟨by decide +kernel, by decide +kernel, by decide +kernel, by decide +kernel, fun _ _ => noConflict rfl⟩, by decide +kernel⟩,
    ⟨⟨by decide +kernel, by decide +kernel, by decide +kernel, by decide +kernel, fun _ _ => noConflict rfl⟩, ⟨by decide +kernel, by decide +kernel, by decide +kernel, by decide +kernel, fun _ _ => noConflict rfl⟩, by decide +kernel⟩,
    ⟨⟨by decide +kernel, by decide +kernel, by decide +kernel, by decide +kernel, fun _ _ => noConflict rfl⟩, by decide +kernel⟩,
    by decide +kernel⟩

/-! ### Hypotheses of the statements: V lane -/

def inPools (s : State) (w : Nat) (act : List Nat) (off : Nat → Nat) : Bool := act.all fun i => off i % w == 0 && inPool s (off i) w

theorem inOwnPool {s : State} {w : Nat} {act : List Nat} {off : Nat → Nat} (hr : s.regs = []) (h : inPools s w act off = true) :
    InOwnPool s w act off := by
  intro i hi
  simp only [inPools, List.all_eq_true, Bool.and_eq_true, beq_iff_eq] at h
  exact ⟨(h i hi).1, ownPool (h i hi).2, noConflict hr⟩

/-- The walk, and each of its elements. -/
def walks (s : State) (x : XdReg) (n w o : Nat) : Bool :=
  let d := s.rdXd x
  decide ((d.shapeOk = true ∧ d.window = false ∧ d.cur.toNat + n ≤ d.len.toNat) ∧
    (d.addr d.cur.toNat = 0xFF00000000000000 + BitVec.ofNat 64 o ∧ d.contiguous d.cur.toNat n = true) ∧ n % w = 0 ∧ 0 < n) &&
  inPools s w (List.range (n / w)) fun i => o + w * i

theorem walkInOwnPool {s : State} {x : XdReg} {n w o : Nat} (hr : s.regs = []) (h : walks s x n w o = true) : WalkInOwnPool s x n w o :=
  have ⟨walk, each⟩ := Bool.and_eq_true_iff.mp h
  have ⟨form, place, whole⟩ := of_decide_eq_true walk
  { shape := form.1, walk := form.2.1, long := form.2.2, start := place.1, run := place.2, whole := whole,
    pool := fun i hi => inOwnPool hr each i (List.mem_range.mpr hi) }

/-- Predicate 1 holds elements 0, 2, 3 and 5; descriptor 5 walks 1 KiB of the scratchpad. -/
def wV : State := my (fun c => { c with p := c.p.set 1 0x2D, r := { c.r with xd := c.r.xd.set 5 { base := 0xFF00000000010040, len := 1024 } } })
  (reg 11 8 wS)
/-- The shape is full of elements of a type. -/
def typed (t : EType) (s : State) : State := s.updR fun r => { r with ety := t, vl := BitVec.ofNat 9 (256 / etBytes t) }
/-- Vector `n` holds `x`. -/
def vec (n : Nat) (x : BitVec 2048) (s : State) : State := my (fun c => { c with v := c.v.set n x }) s
/-- Every flag is enabled to trap, and poison is. -/
def wTraps : State := wV.updR fun r => { r with fpctl := 0x1F8 }

/-- Hypotheses of `Obligations.ElementWrites`. -/
theorem witness_ElementWrites :
    ((4 : Nat) ∈ [1, 2, 4, 8] ∧ ([(0, 1), (63, 0xFFFFFFFF)].map Prod.fst).Nodup ∧ (∀ e ∈ [(0, 1), (63, 0xFFFFFFFF)], e.1 < 256 / 4 ∧ e.2 < 2 ^ (8 * 4))) ∧ (([0, 255] : List Nat).Nodup ∧ (∀ i ∈ [0, 255], i < 256) ∧ (15 : PReg) ≠ 0 ∧ wV.pp 1 ≠ wV.pp 2) :=
  by decide +kernel

/-- Hypotheses of `Obligations.VectorElementWordsComplete`: element types of every class, and no active element. -/
theorem witness_VectorElementWordsComplete :
    (Untrapped wV ∧ Issues .v (wV.vReads 1 [59, 0] []) wV ∧ wV.active 1 ≠ [] ∧ (59 : VReg).toNat < 60 ∧ wV.ety = .f32) ∧
    (Untrapped (typed .i8 wV) ∧ Issues .v ((typed .i8 wV).vReads 1 [59, 0] []) (typed .i8 wV) ∧ (typed .i8 wV).active 1 ≠ [] ∧ (typed .i8 wV).ety = .i8) ∧
    (Untrapped (typed .c64 wV) ∧ Issues .v ((typed .c64 wV).vReads 1 [59, 0] []) (typed .c64 wV) ∧ (typed .c64 wV).active 1 ≠ [] ∧ (typed .c64 wV).ety = .c64) ∧
    (Issues .v (wV.vReads 1 [59, 0] [kV (wV.pv 3)]) wV ∧ Issues .v (wV.vReads 1 [59] []) wV) ∧
    (Issues .v [kShape, kP (wV.pp 2)] wV ∧ wV.active 2 = []) :=
  ⟨⟨⟨by decide +kernel, by decide +kernel, by decide +kernel⟩, issues (by decide +kernel), by decide +kernel⟩,
    ⟨⟨by decide +kernel, by decide +kernel, by decide +kernel⟩, issues (by decide +kernel), by decide +kernel⟩,
    ⟨⟨by decide +kernel, by decide +kernel, by decide +kernel⟩, issues (by decide +kernel), by decide +kernel⟩,
    ⟨issues (by decide +kernel), issues (by decide +kernel)⟩, ⟨issues (by decide +kernel), by decide +kernel⟩⟩

/-- Hypotheses of `Obligations.VectorTrapsArePrecise`. -/
theorem witness_VectorTrapsArePrecise :
    (Issues .v ((vec 1 0x7FC0DEAD00000000000000000000000000000000 wTraps).vReads 1 [1, 2] []) (vec 1 0x7FC0DEAD00000000000000000000000000000000 wTraps) ∧ (vec 1 0x7FC0DEAD00000000 wTraps).me.vUe = [] ∧ (vec 1 0x7FC0DEAD00000000000000000000000000000000 wTraps).me.src.ptrap = true ∧ (vec 1 0x7FC0DEAD00000000000000000000000000000000 wTraps).active 1 = [0, 2, 3, 5] ∧ poisoned .f32 ((vec 1 (0x7FC0DEAD <<< 96) wTraps).elem 1 3) = true ∧ (∀ j ∈ [0, 2], poisoned .f32 ((vec 1 (0x7FC0DEAD <<< 96) wTraps).elem 1 j) = false)) ∧
    (Issues .v ((vec 1 0x7F7FFFFF (vec 2 0x7F7FFFFF wTraps)).vReads 1 [1, 2] []) (vec 1 0x7F7FFFFF (vec 2 0x7F7FFFFF wTraps)) ∧ (∀ j ∈ [0, 2, 3, 5], poisoned .f32 ((vec 1 0x7F7FFFFF wTraps).elem 1 j) = false) ∧ (allFlags (((vec 1 0x7F7FFFFF (vec 2 0x7F7FFFFF wTraps)).active 1).map fun k => (elAdd .f32 .rne ((vec 1 0x7F7FFFFF wTraps).elem 1 k) ((vec 2 0x7F7FFFFF wTraps).elem 2 k)).2)).toBits &&& wTraps.me.src.ten ≠ 0) :=
  ⟨⟨issues (by decide +kernel), by decide +kernel⟩, ⟨issues (by decide +kernel), by decide +kernel⟩⟩

/-- Hypotheses of `Obligations.PredicateWordsComplete`. -/
theorem witness_PredicateWordsComplete :
    (Untrapped wV ∧ Issues .v [] wV ∧ Issues .v [kShape, kP (wV.pp 1), kP (wV.pp 2)] wV ∧ Issues .v [kShape, kP (wV.pp 1)] wV ∧ (59 : VReg).toNat < 60) ∧
    (Untrapped (typed .i8 wV) ∧ Issues .v ((typed .i8 wV).vReads 1 [59, 0] []) (typed .i8 wV) ∧ (typed .i8 wV).active 1 ≠ [] ∧ Cmp.le ≠ .un) ∧
    (Issues .v (wV.vReads 1 [59, 0] []) wV ∧ wV.active 1 ≠ [] ∧ wV.ety = .f32) ∧
    (Issues .v (wV.vReads 1 [59] []) wV ∧ wV.vl = 64 ∧ (3 : BitVec 6).toNat ∈ wV.active 1 ∧ (63 : BitVec 6).toNat < wV.vl ∧ (63 : BitVec 6).toNat ∉ wV.active 1) ∧
    (Issues .v ((typed .f64 wV).vReads 1 [59] []) (typed .f64 wV) ∧ (typed .f64 wV).active 1 ≠ [] ∧ (typed .f64 wV).vl ≤ (32 : BitVec 6).toNat) :=
  ⟨⟨⟨by decide +kernel, by decide +kernel, by decide +kernel⟩, issues (by decide +kernel), issues (by decide +kernel), issues (by decide +kernel), by decide +kernel⟩,
    ⟨⟨by decide +kernel, by decide +kernel, by decide +kernel⟩, issues (by decide +kernel), by decide +kernel⟩,
    ⟨issues (by decide +kernel), by decide +kernel⟩, ⟨issues (by decide +kernel), by decide +kernel⟩,
    ⟨issues (by decide +kernel), by decide +kernel⟩⟩

/-- Hypotheses of `Obligations.VectorRearrangementComplete`. -/
theorem witness_VectorRearrangementComplete :
    (Untrapped wV ∧ Issues .v (wV.vReads 1 [56] []) wV ∧ wV.active 1 ≠ [] ∧ (56 : VReg).toNat < 57 ∧ wV.vl * max (etBytes wV.ety) (etBytes .bf16) ≤ 256 ∧ 256 < wV.vl * max (etBytes wV.ety) (etBytes .f64) ∧ wV.vl = 64) ∧
    (Untrapped (typed .c64 wV) ∧ Issues .v ((typed .c64 wV).vReads 1 [56] []) (typed .c64 wV) ∧ (typed .c64 wV).ety = .c64 ∧ RedOp.sum = .sum) ∧
    (Issues .v (wV.vReads 1 [] [kS 7]) wV) ∧ (Issues .v (wV.vReads 1 [56, 59] []) wV) ∧
    (Untrapped (typed .i16 wV) ∧ Issues .v ((typed .i16 wV).vReads 1 [56, 59] []) (typed .i16 wV) ∧ (typed .i16 wV).active 1 ≠ [] ∧ (typed .i16 wV).ety = .i16) ∧
    (Issues .v (wV.vReads 1 [56, 56 + 1, 56 + 2, 56 + 3] []) wV ∧ wV.ety = .f32) :=
  ⟨⟨⟨by decide +kernel, by decide +kernel, by decide +kernel⟩, issues (by decide +kernel), by decide +kernel⟩,
    ⟨⟨by decide +kernel, by decide +kernel, by decide +kernel⟩, issues (by decide +kernel), by decide +kernel⟩,
    issues (by decide +kernel), issues (by decide +kernel),
    ⟨⟨by decide +kernel, by decide +kernel, by decide +kernel⟩, issues (by decide +kernel), by decide +kernel⟩,
    ⟨issues (by decide +kernel), by decide +kernel⟩⟩

/-- The cursor leaves one byte too few. -/
def wEnd : State := wV.updR fun r => { r with xd := r.xd.set 5 { base := 0xFF00000000010040, len := 1024, cur := 769 } }

/-- Hypotheses of `Obligations.VectorLoadsComplete`. -/
theorem witness_VectorLoadsComplete :
    (Untrapped wV ∧ Sound wV ∧ Direct .v wV ∧ InOwnPool wV 4 [0, 2, 3, 5] (fun k => 0x10040 + 8 * k) ∧ Issues .v (wV.vReads 1 [] [kS 4, kS 11]) wV ∧ wV.me.xdWrote = [] ∧ wV.active 1 = [0, 2, 3, 5] ∧ (∀ k ∈ [0, 2, 3, 5], wV.rdS 4 + BitVec.ofNat 64 k * wV.rdS 11 = 0xFF00000000000000 + BitVec.ofNat 64 (0x10040 + 8 * k))) ∧
    (InOwnPool wV 4 [0, 2, 3, 5] (fun _ => 0x10040) ∧ Issues .v (wV.vReads 1 [59] [kS 4]) wV ∧ (∀ k ∈ [0, 2, 3, 5], wV.rdS 4 + BitVec.ofInt 64 (natSigned 32 (wV.elem 59 k)) = 0xFF00000000000000 + BitVec.ofNat 64 0x10040)) ∧
    (InOwnPool wV 4 [0, 2, 3, 5] (fun k => 0x10040 + 4 * k) ∧ Issues .v (wV.vReads 1 [] []) wV ∧ (wV.rdXd 5).shapeOk = true ∧ (wV.rdXd 5).window = false ∧ (wV.rdXd 5).cur.toNat + wV.vl * 4 ≤ (wV.rdXd 5).len.toNat ∧ (∀ k ∈ [0, 2, 3, 5], (wV.rdXd 5).addr ((wV.rdXd 5).cur.toNat + k * 4) = 0xFF00000000000000 + BitVec.ofNat 64 (0x10040 + 4 * k) ∧ (wV.rdXd 5).contiguous ((wV.rdXd 5).cur.toNat + k * 4) 4 = true)) ∧
    (Issues .v (wEnd.vReads 1 [] []) wEnd ∧ wEnd.active 1 ≠ [] ∧ (wEnd.rdXd 5).shapeOk = true ∧ (wEnd.rdXd 5).window = false ∧ (wEnd.rdXd 5).len.toNat < (wEnd.rdXd 5).cur.toNat + wEnd.vl * 4) ∧
    (Issues .v [] wV ∧ WalkInOwnPool wV 5 256 8 0x10040 ∧ (wV.me.q.get 3).length < 8 ∧ (∀ e ∈ wV.me.q.get 3, e.id ≠ wV.fresh)) :=
  ⟨⟨⟨by decide +kernel, by decide +kernel, by decide +kernel⟩, ⟨rfl, rfl, rfl⟩, ⟨rfl, rfl, rfl⟩, inOwnPool rfl (by decide +kernel), issues (by decide +kernel), by decide +kernel⟩,
    ⟨inOwnPool rfl (by decide +kernel), issues (by decide +kernel), by decide +kernel⟩,
    ⟨inOwnPool rfl (by decide +kernel), issues (by decide +kernel), by decide +kernel⟩,
    ⟨issues (by decide +kernel), by decide +kernel⟩,
    ⟨issues (by decide +kernel), walkInOwnPool rfl (by decide +kernel), by decide +kernel⟩⟩

/-- Vector 58 holds four times the index of each element. -/
def wOffsets : State := vec 58 (setElems 4 0 ((List.range 64).map fun k => (k, 4 * k))) wV

/-- Hypotheses of `Obligations.VectorStoresComplete`. -/
theorem witness_VectorStoresComplete :
    (Untrapped wV ∧ Sound wV ∧ Direct .v wV ∧ InOwnPool wV 4 [0, 2, 3, 5] (fun k => 0x10040 + 4 * k) ∧ Issues .v ((reg 11 4 wV).vReads 1 [59] [kS 4, kS 11]) (reg 11 4 wV) ∧ wV.me.latch = none ∧ wV.me.xdWrote = [] ∧ wV.active 1 = [0, 2, 3, 5] ∧ (∀ k ∈ [0, 2, 3, 5], ∀ l ∈ [0, 2, 3, 5], k ≠ l → 0x10040 + 4 * k + 4 ≤ 0x10040 + 4 * l ∨ 0x10040 + 4 * l + 4 ≤ 0x10040 + 4 * k) ∧ (∀ k ∈ [0, 2, 3, 5], (reg 11 4 wV).rdS 4 + BitVec.ofNat 64 k * (reg 11 4 wV).rdS 11 = 0xFF00000000000000 + BitVec.ofNat 64 (0x10040 + 4 * k))) ∧
    (Issues .v (wOffsets.vReads 1 [59, 58] [kS 4]) wOffsets ∧ (∀ k ∈ [0, 2, 3, 5], wOffsets.rdS 4 + BitVec.ofInt 64 (natSigned 32 (wOffsets.elem 58 k)) = 0xFF00000000000000 + BitVec.ofNat 64 (0x10040 + 4 * k))) ∧
    (Issues .v (wV.vReads 1 [59] []) wV ∧ (wV.rdXd 5).cur.toNat + wV.vl * 4 ≤ (wV.rdXd 5).len.toNat) :=
  ⟨⟨⟨by decide +kernel, by decide +kernel, by decide +kernel⟩, ⟨rfl, rfl, rfl⟩, ⟨rfl, rfl, rfl⟩, inOwnPool rfl (by decide +kernel), issues (by decide +kernel), by decide +kernel⟩,
    ⟨issues (by decide +kernel), by decide +kernel⟩, ⟨issues (by decide +kernel), by decide +kernel⟩⟩

def wLoops (l : List LoopRec) : State := my (fun c => { c with vloop := l }) wV

/-- Hypotheses of `Obligations.VectorControlCompletes`. -/
theorem witness_VectorControlCompletes :
    (Issues .v [] (wLoops [{ addr := 9, rem := 3 }, { addr := 10, rem := 2 }]) ∧ (9 : BitVec 32) ≠ ((wLoops []).lane .v).pc ∧ (10 : BitVec 32) = ((wLoops []).lane .v).pc ∧ 1 < 2 ∧ (((wLoops []).lane .v).pc + (53 : BitVec 12).signExtend 32).toNat < (wLoops []).me.clen .v) ∧
    (Issues .v [] (wLoops [{ addr := 10, rem := 1 }]) ∧ 1 ≤ 1) ∧
    (Issues .v [] (wLoops [{ addr := 9, rem := 3 }]) ∧ (1 : BitVec 10).toNat ≤ 1 ∧ 1 < (2 : BitVec 10).toNat ∧ (wLoops [{ addr := 9, rem := 3 }]).me.vloop.length ≠ 4) ∧
    (Issues .v [] (wLoops (List.replicate 4 { addr := 9, rem := 3 })) ∧ (∀ q ∈ (wLoops (List.replicate 4 { addr := 9, rem := 3 })).me.vloop, q.addr ≠ ((wLoops []).lane .v).pc) ∧ (wLoops (List.replicate 4 { addr := 9, rem := 3 })).me.vloop.length = 4) ∧
    (Issues .v [kShape, kP (wV.pp 1)] wV ∧ ((List.range wV.vl).filter fun i => (wV.rdP 1).getLsbD i) ≠ [] ∧ ((List.range wV.vl).filter fun i => (wV.rdP 0).getLsbD i).length = wV.vl ∧ ((List.range wV.vl).filter fun i => (wV.rdP 2).getLsbD i) = []) :=
  ⟨⟨issues (by decide +kernel), by decide +kernel⟩, ⟨issues (by decide +kernel), by decide +kernel⟩,
    ⟨issues (by decide +kernel), by decide +kernel⟩, ⟨issues (by decide +kernel), by decide +kernel⟩,
    ⟨issues (by decide +kernel), by decide +kernel⟩⟩

/-- Tile 1 is 3 x 5, tile 2 is 5 x 5. -/
def wTile : State := my (fun c => { c with tiles := (c.tiles.set 1 { cfg := true, rows := 3, cols := 5 }).set 2 { cfg := true, rows := 5, cols := 5 } }) wV

/-- Hypotheses of `Obligations.TileWordsComplete`. -/
theorem witness_TileWordsComplete :
    (Untrapped wTile ∧ Issues .v [kTile] wTile ∧ wTile.me.xdWrote = []) ∧
    (Issues .v [kTile, kT 1] wTile ∧ Direct .v wTile ∧ Sound wTile ∧ WalkInOwnPool wTile 5 20 4 0x10040 ∧ (wTile.me.tiles.get 1).cfg = true ∧ (wTile.me.tiles.get 1).resid = true ∧ (wTile.me.tiles.get 1).rows.toNat ≤ 16 ∧ (wTile.me.tiles.get 1).cols.toNat ≤ 16 ∧ wTile.ety = .f32 ∧ (2 : BitVec 4).toNat < (wTile.me.tiles.get 1).rows.toNat ∧ (2 : BitVec 4).toNat < (wTile.me.tiles.get 1).cols.toNat ∧ (wTile.me.tiles.get 1).rows.toNat ≤ (3 : BitVec 4).toNat ∧ wTile.me.latch = none ∧ wTile.isReady kShape = true) ∧
    (Issues .v [kTile, kT 1, kT 1, kT 2] wTile ∧ (wTile.me.tiles.get 2).cfg = true ∧ (wTile.me.tiles.get 2).resid = true) ∧
    (Issues .v [kTile, kT 3] wTile ∧ (wTile.me.tiles.get 3).cfg = false) :=
  ⟨⟨⟨by decide +kernel, by decide +kernel, by decide +kernel⟩, issues (by decide +kernel), by decide +kernel⟩,
    ⟨issues (by decide +kernel), ⟨rfl, rfl, rfl⟩, ⟨rfl, rfl, rfl⟩, walkInOwnPool rfl (by decide +kernel), by decide +kernel⟩,
    ⟨issues (by decide +kernel), by decide +kernel⟩, ⟨issues (by decide +kernel), by decide +kernel⟩⟩

/-- Expansions 1 and 2 are multipole ones about different centres, 3 and 4 local ones about one. -/
def wExp : State := typed .c64 (my (fun c => { c with exps := ((c.exps.set 2 { centre := 0x40000000 }).set 3 { isLocal := true }).set 4 { isLocal := true } }) wV)

/-- Hypotheses of `Obligations.ExpansionWordsComplete`. -/
theorem witness_ExpansionWordsComplete :
    (Untrapped wExp ∧ Issues .v [kExp] wExp ∧ Issues .v [kExp, kE 1] wExp ∧ wExp.me.xdWrote = [] ∧ (58 : VReg).toNat < 59) ∧
    (Issues .v [kExp, kE 1, kE 2] wExp ∧ (wExp.me.exps.get 1).isLocal = false ∧ (wExp.me.exps.get 2).isLocal = false ∧ (wExp.me.exps.get 1).centre ≠ (wExp.me.exps.get 2).centre) ∧
    (Issues .v [kExp, kE 3, kE 2] wExp ∧ (wExp.me.exps.get 3).isLocal = true) ∧
    (Issues .v [kExp, kE 3, kE 4] wExp ∧ (wExp.me.exps.get 4).isLocal = true ∧ (wExp.me.exps.get 3).centre = (wExp.me.exps.get 4).centre) ∧
    (Issues .v (wExp.vReads 1 [59, 58] [kExp, kE 1]) wExp ∧ Issues .v (wExp.vReads 1 [59] [kExp, kE 3, kV (wExp.pv 6)]) wExp ∧ Issues .v (wExp.vReads 1 [59, 58, 58 + 1] [kExp, kV (wExp.pv 6)]) wExp ∧ wExp.ety = .c64 ∧ wExp.active 1 ≠ []) ∧
    (Direct .v wExp ∧ Issues .v [kExp, kE 1] wExp ∧ Sound wExp ∧ WalkInOwnPool wExp 5 272 8 0x10040 ∧ wExp.me.latch = none ∧ wExp.isReady kShape = true ∧ wExp.ord < 32) :=
  ⟨⟨⟨by decide +kernel, by decide +kernel, by decide +kernel⟩, issues (by decide +kernel), issues (by decide +kernel), by decide +kernel⟩,
    ⟨issues (by decide +kernel), by decide +kernel⟩, ⟨issues (by decide +kernel), by decide +kernel⟩,
    ⟨issues (by decide +kernel), by decide +kernel⟩,
    ⟨issues (by decide +kernel), issues (by decide +kernel), issues (by decide +kernel), by decide +kernel⟩,
    ⟨⟨rfl, rfl, rfl⟩, issues (by decide +kernel), ⟨rfl, rfl, rfl⟩, walkInOwnPool rfl (by decide +kernel), by decide +kernel⟩⟩

/-! ### Hypotheses of the statements: M and X lanes -/

theorem engineReady {s : State} {b n : Nat} (h : (s.me.engineFree s.now && s.me.matGate == .awake && s.me.xfers.isEmpty) = true) :
    EngineReady s b n := by
  simp only [Bool.and_eq_true, List.isEmpty_iff, beq_iff_eq] at h
  exact ⟨h.1.1, h.1.2, by simp [h.2]⟩

def passes (s : State) (wr rd : List (Word × Nat)) (w : Nat) (al : List (Word × Nat)) : Bool :=
  let ps := pieces4 true wr ++ pieces4 false rd
  ps.all (fun p => match decodeAddr s s.focus p.a p.n p.wr with
    | some (.acc c o) => ((s.core c).banks.get (o / 12288)).alloc && decide (((s.core c).banks.get (o / 12288)).holder = s.focus) &&
        decide (o % 12 = 0) && decide (p.n % 12 = 0)
    | some (.spad c _ o) => decide ((s.core c).slotOwner o = .xe)
    | some _ => true
    | none => false) && al.all fun r => decide (r.1.toNat % w = 0) && decide (r.2 % w = 0)

theorem xPasses {s : State} {wr rd : List (Word × Nat)} {w : Nat} {al : List (Word × Nat)} (h : passes s wr rd w al = true) :
    XPasses s wr rd w al :=
  have ⟨each, al⟩ := Bool.and_eq_true_iff.mp h
  have at_ := List.all_eq_true.mp each
  { inside := fun p hp => by have q := at_ p hp; revert q; cases decodeAddr s s.focus p.a p.n p.wr <;> simp
    banks := fun p hp c o e => by simpa [e, and_assoc] using at_ p hp
    aligned := by simpa using al
    owned := fun p hp c b o e => by simpa [e] using at_ p hp }

def src_ : Desc := { base := 0xFF00000000010040, len := 64 }
def dst_ : Desc := { base := 0xFF00000000020000, len := 64 }
/-- Banks 0 to 3 are allocated, the slots are the copy engine's, descriptors 5 and 6 walk 64 bytes each, and the M lane holds an
`MMA` of bank 0 under manifest 3, which is 0, at word 10. -/
def wX : State := my (fun c =>
  { c with slots := .fill .xe, r := { c.r with xd := (c.r.xd.set 5 src_).set 6 dst_ },
           banks := { dflt := {}, rows := (List.range 4).map fun i => (i, { alloc := true }) },
           lanes := c.lanes.set 2 { parked := false, pc := 10, buf := { dflt := none, rows := [(10, some 0x100F9BE0), (11, some 0x2800)] } } }) wS
/-- Descriptor `n` is `d`. -/
def desc (n : Nat) (d : Desc) (s : State) : State := s.updR fun r => { r with xd := r.xd.set n d }
/-- Manifest 3 is `m`. -/
def man (m : BitVec 128) (s : State) : State := my (fun c => { c with mf := c.mf.set 3 m }) s

/-- Hypotheses of `Obligations.MatrixCommandsComplete`. -/
theorem witness_MatrixCommandsComplete :
    (Issues .m [] wX ∧ EngineReady wX 2 2 ∧ mfAccepted (wX.me.mf.get (mfIndex wX.me.src wX.me.mlc 3)) = true ∧ mfSp (wX.me.mf.get (mfIndex wX.me.src wX.me.mlc 3)) = false ∧ 2 + 2 ≤ 32 ∧ (∀ j, j < 2 → (wX.me.banks.get (2 + j)).alloc = true) ∧ (∀ j, j < 2 → (wX.me.banks.get (2 + j)).i96 = mfI96 (wX.me.mf.get (mfIndex wX.me.src wX.me.mlc 3)))) ∧
    (EngineReady wX 31 2 ∧ 32 < 31 + 2) ∧
    (EngineReady wX 3 2 ∧ (wX.me.banks.get 3).alloc = true ∧ ¬ (wX.me.banks.get 4).alloc = true) ∧
    (Issues .m [] (man (1 <<< 11) wX) ∧ EngineReady (man (1 <<< 11) wX) 0 1 ∧ mfAccepted ((man (1 <<< 11) wX).me.mf.get 3) = true ∧ mfSp ((man (1 <<< 11) wX).me.mf.get 3) = true ∧ (4 : Nat) % 4 = 0 ∧ ¬ (3 : Nat) % 4 = 0) ∧
    (Issues .m [] (man (1 <<< 1) wX) ∧ EngineReady (man (1 <<< 1) wX) 0 1 ∧ ¬ mfAccepted ((man (1 <<< 1) wX).me.mf.get 3) = true) ∧
    (Issues .m [] (my (fun c => { c with banks := .fill { alloc := true, i96 := true } }) wX) ∧ EngineReady (my (fun c => { c with banks := .fill { alloc := true, i96 := true } }) wX) 0 1 ∧ ¬ true = mfI96 (wX.me.mf.get (mfIndex wX.me.src wX.me.mlc 3))) :=
  ⟨⟨issues (by decide +kernel), engineReady (by decide +kernel), by decide +kernel⟩,
    ⟨engineReady (by decide +kernel), by decide +kernel⟩, ⟨engineReady (by decide +kernel), by decide +kernel⟩,
    ⟨issues (by decide +kernel), engineReady (by decide +kernel), by decide +kernel⟩,
    ⟨issues (by decide +kernel), engineReady (by decide +kernel), by decide +kernel⟩,
    ⟨issues (by decide +kernel), engineReady (by decide +kernel), by decide +kernel⟩⟩

/-- A computation over no entries that ends now. -/
def run_ : MatRun :=
  { kind := .mma, pc := 10, man := 0, bank := 0, k := 1, rows := 64, cols := 32, at_ := 0, step := 1, a := [], b := [], timed := false, cyc := 0,
    done := some 1000, undo := wX.me.mUndo }
def wDone : State := my (fun c => { c with mrun := some run_ }) wX

/-- Hypotheses of `Obligations.MatrixCommandCommits`. -/
theorem witness_MatrixCommandCommits :
    Sound wDone ∧ wDone.me.mrun = some run_ ∧ run_.done = some 1000 ∧ 1000 ≤ wDone.now ∧ run_.rows ≤ 64 ∧ run_.cols ≤ 32 ∧ run_.man.getLsbD 16 = false ∧ run_.man.getLsbD 18 = false :=
  ⟨⟨rfl, rfl, rfl⟩, by decide +kernel⟩

/-- Banks change on pulse 1,010. -/
def next_ (z : Option (Nat × Nat)) : BankNext := { at_ := 1010, banks := .fill {}, zero := z }
def wNext (z : Option (Nat × Nat)) : State := my (fun c => { c with bankNext := some (next_ z) }) wX
def laterOn (s : State) : State := s.updPkg fun p => { p with ticks := 5000 }
/-- The M lane stands at its last command, an `MALLOC` of bank 4. -/
def wLast : State :=
  wX.updLane .m fun x => { x with pc := 62, buf := { dflt := none, rows := [(62, some 0x50240000), (63, some 0)] } }

/-- Hypotheses of `Obligations.BankCommandsComplete`. -/
theorem witness_BankCommandsComplete :
    (Issues .m [] wX ∧ EngineReady wX 30 3 ∧ 32 < (30 : AbReg).toNat + (3 : BitVec 6).toNat) ∧
    (EngineReady wX 2 4 ∧ ¬ (wX.me.banks.get 4).alloc = true ∧ (∀ h, h < 4 → 2 ≤ h → (wX.me.banks.get h).alloc = true)) ∧
    (Issues .m [] (my (fun c => { c with banks := .fill {} }) wX) ∧ (wX.me.banks.get 3).alloc = true ∧ ((∀ h, h < 3 → 3 ≤ h → ¬ (wX.me.banks.get h).alloc = true))) ∧
    (EngineReady wX 0 4 ∧ (∀ j, j < 4 → (wX.me.banks.get j).alloc = true) ∧ bits (7 : CoreId) 3 8 = bits wX.focus 3 8 ∧ (bits (7 : CoreId) 3 5).toNat < 18 ∧ ¬ bits (8 : CoreId) 3 8 = bits wX.focus 3 8) ∧
    (EngineReady wX 4 28 ∧ (∀ j, j < 32 → 4 ≤ j → ¬ (wX.me.banks.get j).alloc = true) ∧ wX.me.pendingM = .entry 3) ∧
    (Issues .m [] wLast ∧ wLast.me.pendingM = .none) ∧
    ((wNext none).me.bankNext = some (next_ none) ∧ (wNext none).now < (next_ none).at_) ∧ ((wNext (some (2, 3))).now < (next_ (some (2, 3))).at_ ∧ (laterOn (wNext (some (2, 3)))).me.bankNext = some (next_ (some (2, 3))) ∧ (next_ (some (2, 3))).at_ ≤ (laterOn (wNext (some (2, 3)))).now) :=
  ⟨⟨issues (by decide +kernel), engineReady (by decide +kernel), by decide +kernel⟩,
    ⟨engineReady (by decide +kernel), by decide +kernel⟩, ⟨issues (by decide +kernel), by decide +kernel⟩,
    ⟨engineReady (by decide +kernel), by decide +kernel⟩, ⟨engineReady (by decide +kernel), by decide +kernel⟩,
    ⟨issues (by decide +kernel), by decide +kernel⟩, by decide +kernel⟩

/-- The last manifest was entry 3, which is 0; bank 1 is another core's. -/
def wDrain : State := my (fun c => { c with lmf := some 0, lmfNo := some 3, banks := c.banks.set 1 { alloc := true, holder := 5 } })
  (desc 6 { dst_ with len := 4096 } wX)

/-- Hypotheses of `Obligations.MatrixMovesComplete`. -/
theorem witness_MatrixMovesComplete :
    (Issues .m [] wDrain ∧ EngineReady wDrain 0 1 ∧ XPasses wDrain ((wDrain.rdXd 6).spans 0 4096) [] 4 ((wDrain.rdXd 6).spans 0 4096) ∧ wDrain.me.lmf = some 0 ∧ wDrain.me.lmfNo = some 3 ∧ drainOk (wDrain.me.banks.get 0).i96 (mfDrain 0) = true ∧ 0 + 1 ≤ 32 ∧ (wDrain.me.banks.get 0).alloc = true ∧ (wDrain.me.banks.get 0).holder = wDrain.focus ∧ (wDrain.rdXd 6).shapeOk = true ∧ (wDrain.rdXd 6).window = false ∧ 1 * 1024 * drainBytes 0 ≤ (wDrain.rdXd 6).len.toNat) ∧
    (EngineReady wDrain 31 2 ∧ (wDrain.rdXd 5).len.toNat < 1 * 1024 * drainBytes 0 ∧ (wDrain.rdXd 5).shapeOk = true ∧ (wDrain.rdXd 5).window = false ∧ 32 < 31 + 2) ∧
    ((¬ drainOk false (mfDrain (5 <<< 12)) = true ∧ (wDrain.me.banks.get 0).i96 = false) ∧ ((wDrain.me.banks.get 1).alloc = true ∧ (wDrain.me.banks.get 1).holder ≠ wDrain.focus)) ∧
    (Issues .m [] (desc 6 { dst_ with len := 12288 } wX) ∧ EngineReady (desc 6 { dst_ with len := 12288 } wX) 0 1 ∧ XPasses (desc 6 { dst_ with len := 12288 } wX) [] (((desc 6 { dst_ with len := 12288 } wX).rdXd 6).spans 0 (1 * 12288)) 1 [] ∧ 1 * 12288 ≤ ((desc 6 { dst_ with len := 12288 } wX).rdXd 6).len.toNat ∧ (∀ r ∈ ((desc 6 { dst_ with len := 12288 } wX).rdXd 6).spans 0 (1 * 12288), bits r.1 48 16 ≠ 0xFF04)) ∧
    (EngineReady wX 0 1 ∧ (wX.rdXd 6).len.toNat < 1 * 12288) ∧
    (EngineReady wX 0 0 ∧ XPasses wX [] ((wX.rdXd 6).spans 0 16) 1 [] ∧ 16 ≤ (wX.rdXd 6).len.toNat) ∧
    (Issues .m [] (desc 6 { dst_ with len := 15 } wX) ∧ EngineReady (desc 6 { dst_ with len := 15 } wX) 0 0 ∧ ((desc 6 { dst_ with len := 15 } wX).rdXd 6).len.toNat < 16) :=
  ⟨⟨issues (by decide +kernel), engineReady (by decide +kernel), xPasses (by decide +kernel), by decide +kernel⟩,
    ⟨engineReady (by decide +kernel), by decide +kernel⟩, by decide +kernel,
    ⟨issues (by decide +kernel), engineReady (by decide +kernel), xPasses (by decide +kernel), by decide +kernel⟩,
    ⟨engineReady (by decide +kernel), by decide +kernel⟩,
    ⟨engineReady (by decide +kernel), xPasses (by decide +kernel), by decide +kernel⟩,
    ⟨issues (by decide +kernel), engineReady (by decide +kernel), by decide +kernel⟩⟩

def wLost : State := my (fun c => { c with xfaults := [3, 4] }) wX
/-- A copy waits in the queue. -/
def wBehind : State := { my (fun c => { c with xfers := [{ id := 0, kind := .copy }] }) wX with fresh := 1 }

/-- Hypotheses of `Obligations.FeedAndControlWordsComplete`. -/
theorem witness_FeedAndControlWordsComplete :
    (Issues .m [] (my (fun c => { c with mloop := some { addr := 10, rem := 1 }, xloop := some { addr := 10, rem := 1 } }) wX) ∧ Issues .x [] (my (fun c => { c with mloop := some { addr := 10, rem := 1 }, xloop := some { addr := 10, rem := 1 } }) wX) ∧ ((my (fun c => { c with mloop := none, xloop := none }) wX).lane .m).pc = 10 ∧ ((my (fun c => { c with mloop := none, xloop := none }) wX).lane .x).pc = 10) ∧
    (Issues .m [] (my (fun c => { c with mloop := some { addr := 10, rem := 2 }, xloop := some { addr := 10, rem := 2 } }) wX) ∧ (my (fun c => { c with mloop := none, xloop := none }) wX).timed = false ∧ ((10 : BitVec 32) + (53 : BitVec 16).signExtend 32).toNat < wX.me.clen .m ∧ ((10 : BitVec 32) + (53 : BitVec 13).signExtend 32).toNat < wX.me.clen .x) ∧
    (Issues .m [] (my (fun c => { c with mloop := some { addr := 8, rem := 2 }, xloop := some { addr := 8, rem := 2 } }) wX) ∧ (8 : BitVec 32) ≠ 10 ∧ 1 < (2 : BitVec 12).toNat ∧ (1 : BitVec 12).toNat ≤ 1) ∧
    (wX.me.mrun = none ∧ wX.me.bankNext = none ∧ wX.me.mBusy ≤ wX.now ∧ (∀ t ∈ wX.me.xfers, t.ofM = false) ∧ wX.me.xfaults = [] ∧ wX.me.beforeX wX.fresh = false) ∧
    (Issues .m [] wLost ∧ Issues .x [] wLost ∧ wLost.me.xfaults = [3, 4] ∧ wLost.me.mrun = none) ∧
    (Issues .m [] wDone ∧ ¬ wDone.me.mrun = none) ∧ (Issues .x [] wBehind ∧ wBehind.me.beforeX wBehind.fresh = true) ∧
    (Issues .x [] wX ∧ (wX.me.feeds.filter fun f => f.fifoB == false).length < 8 ∧ (wX.rdXd 5).shapeOk = true ∧ (wX.rdXd 5).window = false ∧ wX.me.pendingM = .entry 3 ∧ fmtRow false (feedFmt false 0).code.toNat = true ∧ wX.me.xdWrote = [] ∧ ¬ (feedFmt false 0).ql4 false = true ∧ (wX.rdXd 5).len.toNat < (wX.rdXd 5).cur.toNat + (feedFmt false 0).uses false 4) ∧
    (Issues .x [] (desc 5 { src_ with len := 1024 } wX) ∧ XPasses (desc 5 { src_ with len := 1024 } wX) [] (((desc 5 { src_ with len := 1024 } wX).rdXd 5).spans 0 ((feedFmt false 0).uses false 4)) (fmtBytes (feedFmt false 0).code.toNat) (((desc 5 { src_ with len := 1024 } wX).rdXd 5).spans 0 ((feedFmt false 0).uses false 4)) ∧ ((desc 5 { src_ with len := 1024 } wX).rdXd 5).cur.toNat + (feedFmt false 0).uses false 4 ≤ ((desc 5 { src_ with len := 1024 } wX).rdXd 5).len.toNat) ∧
    (Issues .x [] wLast ∧ wLast.me.pendingM = .none) :=
  ⟨⟨issues (by decide +kernel), issues (by decide +kernel), by decide +kernel⟩, ⟨issues (by decide +kernel), by decide +kernel⟩,
    ⟨issues (by decide +kernel), by decide +kernel⟩, by decide +kernel,
    ⟨issues (by decide +kernel), issues (by decide +kernel), by decide +kernel⟩, ⟨issues (by decide +kernel), by decide +kernel⟩,
    ⟨issues (by decide +kernel), by decide +kernel⟩, ⟨issues (by decide +kernel), by decide +kernel⟩,
    ⟨issues (by decide +kernel), xPasses (by decide +kernel), by decide +kernel⟩, ⟨issues (by decide +kernel), by decide +kernel⟩⟩

/-- The source is 16 entries of bank 0. -/
def wBand : State := desc 5 { base := 0xFF04000000000000, len := 192 } wX
/-- Multicast set 4 of the function names cores 0 and 1, their last slot and signal 9. -/
def wSet : State := { wX with cores := wX.cores.set 1 wX.me, boxes := wX.boxes.set 1 { mc := (Tab.fill 0).set 4 (3 + 47 <<< 1152 + 9 <<< 1168) } }

/-- Hypotheses of `Obligations.TransfersComplete`. -/
theorem witness_TransfersComplete :
    (Issues .x [] wX ∧ XPasses wX ((wX.rdXd 6).spans 0 64) ((wX.rdXd 5).spans 0 64) 1 [] ∧ XPasses wX ((wX.rdXd 6).spans 0 64) ((wX.rdXd 5).spans 0 64) 4 ((wX.rdXd 5).spans 0 64) ∧ XPasses wX ((wX.rdXd 6).spans 0 64) ((wX.rdXd 5).spans 0 64) 4 ((wX.rdXd 6).spans 0 64) ∧ (∃ r, haloTarget (wX.rdXd 6) (pieces4 true ((wX.rdXd 6).spans 0 64)) (wX.starts .x) = .ok r ∧ true = true) ∧ wX.me.queued < 16 ∧ (wX.rdXd 6).shapeOk = true ∧ (wX.rdXd 6).window = false ∧ (wX.rdXd 5).shapeOk = true ∧ (wX.rdXd 5).window = false ∧ bits (wX.rdXd 5).base 48 16 ≠ 0xFF04 ∧ (wX.rdXd 5).len.toNat ≤ (wX.rdXd 6).len.toNat ∧ (wX.rdXd 6).units 0 64 ≠ [] ∧ (wX.rdXd 6).units 4 (wX.rdXd 6).len.toNat ≠ [] ∧ 64 % 8 = 0 ∧ (wX.rdXd 6).len.toNat % 8 = 0 ∧ 64 % 4 = 0) ∧
    (Issues .x [] (desc 6 { dst_ with cnt1 := 3 } wX) ∧ ((desc 6 { dst_ with cnt1 := 3 } wX).rdXd 6).shapeOk = false) ∧
    (Issues .x [] (desc 6 { dst_ with win := 0x80 } wX) ∧ ((desc 6 { dst_ with win := 0x80 } wX).rdXd 6).window = true ∧ ((desc 6 { dst_ with win := 0x80 } wX).rdXd 6).shapeOk = true) ∧
    (Issues .x [] (desc 6 { dst_ with len := 63 } wX) ∧ ((desc 6 { dst_ with len := 63 } wX).rdXd 6).len.toNat < 64) ∧
    (Issues .x [] (desc 5 { src_ with len := 0 } wX) ∧ XPasses (desc 5 { src_ with len := 0 } wX) ((wX.rdXd 6).spans 0 64) [] 1 [] ∧ ((desc 5 { src_ with len := 0 } wX).rdXd 5).len.toNat = 0 ∧ wX.me.vfencing = none ∧ (∀ t ∈ wX.me.xfers, t.id ≠ wX.fresh)) ∧
    (62 % 4 ≠ 0 ∧ (62 : Nat) % 2 = 0) ∧
    (Issues .x [] wBand ∧ XPasses wBand ((wBand.rdXd 6).spans 0 64) ((wBand.rdXd 5).spans 0 192) 1 [] ∧ List.range (192 / 12) ≠ [] ∧ bits (wBand.rdXd 5).base 48 16 = 0xFF04 ∧ (wBand.rdXd 5).len.toNat % 12 = 0 ∧ (wBand.rdXd 5).len.toNat / 3 ≤ (wBand.rdXd 6).len.toNat) ∧
    (Issues .x [] (desc 5 { src_ with len := 60 } wX) ∧ XPasses (desc 5 { src_ with len := 60 } wX) ((wX.rdXd 6).spans 60 4) ((wX.rdXd 6).spans 0 60 ++ ((desc 5 { src_ with len := 60 } wX).rdXd 5).spans 0 60) 4 ((wX.rdXd 6).spans 0 60 ++ ((desc 5 { src_ with len := 60 } wX).rdXd 5).spans 0 60) ∧ 60 + 4 = 64 ∧ (∀ r ∈ (wX.rdXd 6).spans 60 4, r.1.toNat % 4 = 0 ∧ r.2 % 4 = 0)) ∧
    (Issues .x [] (desc 7 { base := 0xFF00000000018000, len := 4 } wX) ∧ XPasses (desc 7 { base := 0xFF00000000018000, len := 4 } wX) (((desc 7 { base := 0xFF00000000018000, len := 4 } wX).rdXd 6).spans 0 64) ((((desc 7 { base := 0xFF00000000018000, len := 4 } wX).rdXd 5).spans 0 64) ++ (((desc 7 { base := 0xFF00000000018000, len := 4 } wX).rdXd 7).spans 0 4)) 4 (((desc 7 { base := 0xFF00000000018000, len := 4 } wX).rdXd 7).spans 0 4) ∧ 0 < ((desc 7 { base := 0xFF00000000018000, len := 4 } wX).rdXd 7).len.toNat ∧ ((desc 7 { base := 0xFF00000000018000, len := 4 } wX).rdXd 6).len.toNat % (((desc 7 { base := 0xFF00000000018000, len := 4 } wX).rdXd 7).len.toNat / 4) = 0) ∧
    (Issues .x [] wSet ∧ XPasses wSet ([0, 1].map fun k => (peerSpad k (0x10000 + 4096 * 47), 64)) ((wSet.rdXd 5).spans 0 64) 1 [] ∧ (∀ k ∈ [0, 1], (wSet.core (peerOf wSet.focus k)).ctl.pbReg + 4096 * 47 + 64 ≤ (wSet.core (peerOf wSet.focus k)).ctl.pbSpad) ∧ 0 < (wSet.rdXd 5).len.toNat ∧ ((List.range 8).filter fun k => ((wSet.boxes.get 1).mc.get 4).getLsbD (denseOf (peerOf wSet.focus k))) = [0, 1]) :=
  ⟨⟨issues (by decide +kernel), xPasses (by decide +kernel), xPasses (by decide +kernel), xPasses (by decide +kernel), ok_of (p := fun _ => true) (by decide +kernel), by decide +kernel⟩,
    ⟨issues (by decide +kernel), by decide +kernel⟩, ⟨issues (by decide +kernel), by decide +kernel⟩,
    ⟨issues (by decide +kernel), by decide +kernel⟩, ⟨issues (by decide +kernel), xPasses (by decide +kernel), by decide +kernel⟩,
    by decide +kernel, ⟨issues (by decide +kernel), xPasses (by decide +kernel), by decide +kernel⟩,
    ⟨issues (by decide +kernel), xPasses (by decide +kernel), by decide +kernel⟩,
    ⟨issues (by decide +kernel), xPasses (by decide +kernel), by decide +kernel⟩,
    ⟨issues (by decide +kernel), xPasses (by decide +kernel), by decide +kernel⟩⟩

/-! ### Hypotheses of the statements: Signal Box and events -/

/-- Context 1 runs at word 20 of its program. -/
def ctx : BoxCtx := { pbase := 0xFF02000000000000, pc := 20, st := .run, mc := (Tab.fill 0).set 4 (3 + 47 <<< 1152 + 9 <<< 1168) }
def wBox (c : BoxCtx) : State := { wS with boxFocus := 1, boxes := wS.boxes.set 1 c }
def burst_ (n : Nat) : Burst := { set := 3 + 47 <<< 1152 + 9 <<< 1168, bytes := List.replicate n 7, members := [0, 1] }
/-- A burst of `n` bytes waits for its members; core 0 has 64 bytes at its destination, in slots of `o`. -/
def wBurst (n : Nat) (o : Owner) : State :=
  { wBox { ctx with bursts := [burst_ n] } with cores := wS.cores.set 0 { taskCore with slots := .fill o, ctl := { taskCore.ctl with pbSpad := 0x3F040 } }, arg := { n := 1, core := 0 } }

/-- Hypotheses of `Obligations.BurstsReachTheirMembers`. -/
theorem witness_BurstsReachTheirMembers :
    (((wBurst 64 .sbox).boxes.get 1).bursts[0]? = some (burst_ 64) ∧ (burst_ 64).members = [0, 1] ∧ denseOf 0 = 0 ∧ 0x10000 + 4096 * 47 + 64 ≤ ((wBurst 64 .sbox).core 0).ctl.pbSpad ∧ ((wBurst 64 .sbox).core 0).slotOwner (0x10000 + 4096 * 47) = .sbox) ∧ (¬ 0x10000 + 4096 * 47 + 65 ≤ ((wBurst 65 .sbox).core 0).ctl.pbSpad) ∧ (¬ ((wBurst 64 .lanes).core 0).slotOwner (0x10000 + 4096 * 47) = .sbox) :=
  by decide +kernel

/-- Function 1 maps page 2 to the frame at 0x9000, through five tables from 0x1000 on. -/
def wMapped : State :=
  { wBox ctx with vfs := wS.vfs.set 1 { root := 1, en := true },
                  mem := [(0x1000, 1), (0x1001, 0x20), (0x2000, 1), (0x2001, 0x30), (0x3000, 1), (0x3001, 0x40), (0x4000, 1), (0x4001, 0x50),
                          (0x5010, 7), (0x5011, 0x90)] }

/-- Hypotheses of `Obligations.SignalBoxWordsComplete`. -/
theorem witness_SignalBoxWordsComplete :
    (8 ≤ ((wBox { ctx with bursts := List.replicate 8 (burst_ 1) }).boxes.get 1).bursts.length) ∧
    ((∃ r, boxRead (wBox ctx) 1 0xFF02000000000040 (64 * (1 : BitVec 21).toNat) = .ok r ∧ true = true) ∧ ((wBox { ctx with bursts := List.replicate 7 (burst_ 1) }).boxes.get 1).bursts.length < 8 ∧ (bits (((wBox ctx).boxes.get 1).mc.get 4) 1176 104 : BitVec 104) = 0 ∧ (bits (((wBox ctx).boxes.get 1).mc.get 4) 1152 16 : BitVec 16).toNat ≤ 191 ∧ (bits (((wBox ctx).boxes.get 1).mc.get 4) 1168 8 : BitVec 8).toNat ≤ 63 ∧ (0xFF02000000000040 : BitVec 64).toNat % 64 = 0 ∧ (0xFF02000000000020 : BitVec 64).toNat % 64 ≠ 0 ∧ ((wBox ctx).experts.get 3).st ≠ 2 ∧ boxWindow (wBox ctx) 0xFF02000000000040 = true ∧ boxWindow (wBox ctx) 0xFF03000000000040 = false ∧ (0xFF03000000000040 : BitVec 64).toNat % 64 = 0) ∧
    (¬ (bits ((192 : BitVec 1280) <<< 1152) 1152 16 : BitVec 16).toNat ≤ 191) ∧
    ((∃ r, boxWrite (wBox ctx) 1 0xFF02000000000044 (toBytes 4 5) = .ok r ∧ true = true) ∧ ((wBox ctx).boxes.get 1).bursts = [] ∧ (0xFF02000000000042 : BitVec 64).toNat % 4 ≠ 0 ∧ coreOk 137 = true ∧ coreOk 144 = false) ∧
    ((((wBox { ctx with loops := [{ addr := 9, rem := 4 }, { addr := 20, rem := 1 }] }).boxes.get 1).loops = [{ addr := 9, rem := 4 }] ++ { addr := 20, rem := 1 } :: [] ∧ (9 : BitVec 32) ≠ ctx.pc ∧ (20 : BitVec 32) = ctx.pc ∧ (2 : Nat) ≠ 1) ∧ ((∀ q ∈ ((wBox { ctx with loops := List.replicate 4 { addr := 9, rem := 4 } }).boxes.get 1).loops, q.addr ≠ ctx.pc) ∧ (List.replicate 4 ({ addr := 9, rem := 4 } : LoopRec)).length = 4 ∧ (1 : BitVec 11).toNat ≤ 1 ∧ 1 < (2 : BitVec 11).toNat) ∧ ((lazy (wBox ctx)).eager = false ∧ (((lazy (wBox ctx)).core 1).sigs.get 3).byteMode = false ∧ (1 : BitVec 10).toNat ≤ (1 : BitVec 32).toNat ∧ (((lazy (wBox ctx)).core 1).sigs.get 3).value.toNat < (1 : BitVec 10).toNat) ∧ ((0 : BitVec 9) = (wBox ctx).pkg.pkgid ∧ (1 : BitVec 9) ≠ (wBox ctx).pkg.pkgid ∧ ((wBox ctx).experts.get 9).st ≠ 1)) ∧
    ((∃ r, boxWrite wMapped 1 0x2FF0 ([3, 4].flatMap fun k => toBytes 8 (wMapped.experts.get k).use.toNat) = .ok r ∧ true = true) ∧ (0x2FF0 : BitVec 64).toNat % 8 = 0 ∧ bits (0x2FF0 : BitVec 64) 56 8 ≠ 0xFF) :=
  ⟨by decide +kernel, ⟨ok_of (p := fun _ => true) (by decide +kernel), by decide +kernel⟩, by decide +kernel,
    ⟨ok_of (p := fun _ => true) (by decide +kernel), by decide +kernel⟩, by decide +kernel,
    ⟨ok_of (p := fun _ => true) (by decide +kernel), by decide +kernel⟩⟩

/-- A read of 4 bytes, and a write to the last two of them. -/
def read_ : Acc :=
  { isWrite := false, place := .scratch, key := keyPool 0 0x10040, n := 4, data := [], dest := .sreg 9 false, repl := [], at_ := 990, fig := some 3 }
def write_ : Acc := { isWrite := true, place := .scratch, key := keyPool 0 0x10042, n := 2, data := [5, 6], dest := .none, repl := [], at_ := 990, fig := none }
/-- The queue of the S lane holds `l`. -/
def wQueue (l : List Acc) : State := lazy (my (fun c => { c with lq := c.lq.set 0 l }) wS)
def l2_ (dirty : List Bool) : L2Line := { way := 3, data := List.replicate 128 1, dirty := dirty, ver := [0, 0, 0, 0] }
def l1_ (ex : Bool) (dirty : List Bool) : L1Line := { ex := ex, data := List.replicate 128 2, dirty := dirty, ver := [0, 0, 0, 0] }
def oneDirty : List Bool := (List.range 128).map fun i => i == 127
/-- A read of line 7 waits, and the L2 of cluster 0 holds the line clean. -/
def wLine : State :=
  arg { n := 7 } { wQueue [{ read_ with place := .cached, key := 128 * 7 }] with
    clusters := wS.clusters.set 0 { l2 := (Tab.fill none).set 7 (some (l2_ cleanMask)) } }
/-- The L1 holds line 7. -/
def wCopy (l : L1Line) (fifo : List FifoItem) : State := my (fun c => { c with l1 := (Tab.fill none).set 7 (some l), fifo := fifo }) wLine
/-- The L2 of cluster 3 holds line 7. -/
def wL2 (d : List Bool) : State := arg { n := 3, m := 7 } { lazy wS with clusters := wS.clusters.set 3 { l2 := (Tab.fill none).set 7 (some (l2_ d)) } }
def wExcl : State := wLine.setProg .s (.owning (some 7) none)
def far_ : FarReq := { op := .add, wide := true, d := 9, x := 7, key := 128 * 7, va := 0x2000, global := true, dev := none }
def wFar : State := my (fun c => { c with far := some far_ }) wS
def copy_ : Transfer := { id := 4, kind := .copy, a := dst_, b := src_, sg := some 3, left := [0, 1] }
/-- Item `t` is at the head of the queue. -/
def wItem (t : Transfer) (u : Nat) : State := arg { n := 4, m := u } (lazy (my (fun c => { c with xfers := [t] }) wX))

/-- Hypotheses of `Obligations.OrderingMovesComplete`. -/
theorem witness_OrderingMovesComplete :
    (Sound (wQueue [write_, read_]) ∧ (wQueue [write_, read_]).me.lq.get (laneIdx (wQueue [write_, read_]).arg.lane) = [write_] ++ read_ :: [] ∧ (wQueue [write_, read_]).me.lq.get (laneIdx (wQueue [write_, read_]).arg.lane) = [] ++ write_ :: [read_] ∧ (∀ b ∈ [write_], b.isWrite = true) ∧ read_.isWrite = false ∧ write_.isWrite = true ∧ Machine.passes (wQueue [write_, read_]).me.barrier read_.at_ = true ∧ read_.place = .scratch) ∧
    (((wQueue []).me.lq.get 0 = [] ∧ (wQueue []).me.needsLine 7 = false ∧ (wQueue []).me.far = none) ∧ (wLine.me.needsLine wLine.arg.n = true ∧ wLine.me.ways ≠ 0 ∧ wLine.me.l1.rows = [] ∧ wLine.me.l1.dflt = none ∧ wLine.owner.get 7 = none ∧ lineLocal 7 = true ∧ wLine.l2 0 7 = some (l2_ cleanMask) ∧ (l2_ cleanMask).dirty = cleanMask) ∧ ((wCopy (l1_ false cleanMask) []).l1 0 7 = some (l1_ false cleanMask) ∧ isDirty (l1_ false cleanMask).dirty = false) ∧ ((wCopy (l1_ true oneDirty) []).l1 0 7 = some (l1_ true oneDirty) ∧ (l1_ true oneDirty).ex = true) ∧ ((wCopy (l1_ false oneDirty) [.line 7]).l1 0 7 = some (l1_ false oneDirty) ∧ isDirty (l1_ false oneDirty).dirty = true ∧ (wCopy (l1_ false oneDirty) [.line 7]).me.fifo = .line 7 :: []) ∧ ((wL2 oneDirty).l2 3 7 = some (l2_ oneDirty) ∧ isDirty (l2_ oneDirty).dirty = true ∧ (l2_ oneDirty).data.length = 128 ∧ (l2_ oneDirty).dirty.length = 128 ∧ (wL2 cleanMask).l2 3 7 = some (l2_ cleanMask) ∧ isDirty (l2_ cleanMask).dirty = false) ∧ ((my (fun c => { c with fifo := [.mark 5 .cluster] }) wS).me.fifo = .mark 5 .cluster :: [] ∧ (Scope.cluster = .core ∨ Scope.cluster = .cluster)) ∧ ((my (fun c => { c with fifo := [.mark 5 .package] }) wS).me.fifo = .mark 5 .package :: [] ∧ (∀ m ∈ wS.me.drained, ∀ k, wS.l2 0 m = some k → isDirty k.dirty = false))) ∧
    ((∀ h, wS.prog .s ≠ .owning (some 7) h) ∧ wExcl.prog .s = .owning (some 7) none) ∧
    ((∃ r, farDone far_ wFar = .ok r ∧ true = true) ∧ wFar.me.far = some far_) ∧
    (wVault.me.vpath = (keyVault 0 0, [1], 2000) :: [] ∧ (my (fun c => { c with hpath := (Tab.fill []).set 3 [(keyVault 3 0, [1])] }) wS).me.hpath.get 3 = (keyVault 3 0, [1]) :: []) ∧ (((my (fun c => { c with pendSig := [{ sg := 3, amount := 5, src := 0, tick := 9 }] }) wS).me.pendSig.find? fun p => p.sg == 3) = some { sg := 3, amount := 5, src := 0, tick := 9 } ∧ (∀ p ∈ wS.me.pendSig, p.sg ≠ 3)) ∧ (((wItem copy_ 1).me.xfers.find? fun t => t.id == (wItem copy_ 1).arg.n) = some copy_ ∧ copy_.st = .active ∧ (wItem copy_ 1).me.runs copy_ = true ∧ copy_.mayDo (wItem copy_ 1).arg.m = true ∧ copy_.left ≠ []) ∧ (((wItem { copy_ with left := [] } 0).me.xfers.find? fun t => t.id == 4) = some { copy_ with left := [] } ∧ copy_.kind = .copy ∧ copy_.sg = some 3 ∧ Machine.passes (wItem copy_ 0).me.vfencing copy_.iss = true) :=
  ⟨⟨⟨rfl, rfl, rfl⟩, by decide +kernel⟩, by decide +kernel, ⟨(fun h e => by cases e), by decide +kernel⟩,
    ⟨ok_of (p := fun _ => true) (by decide +kernel), by decide +kernel⟩, by decide +kernel⟩

/-- Every lane that is not parked, the S lane alone, holds a `SYNC`. -/
def wSync : State := (my (fun c => { c with lanes := (Tab.fill {}).set 0 { parked := false, pc := 10, buf := .fill (some 0x1A000000) } }) wS)
/-- The sections lie in `page`. -/
def wCode : State := my (fun c => { c with ctl := { c.ctl with cbase := .fill 0x2000 } }) wPage
def entry_ (filled : Bool) (left : Nat) : QEntry := { id := 0, data := 0, left := left, bad := [], filled := filled, unbounded := false, ready := 0 }
/-- Tile 2 has been saved. -/
def wSaved : State := arg { n := 2 } (my (fun c => { c with tiles := c.tiles.set 2 { cfg := true, resid := false, rows := 2, cols := 2, image := 0xFF00000000010040 } }) wX)
def bind_ : TurnCmd :=
  { num := 0, nb := 0, at_ := 0, lat := 1, core := 0, op := .bind (bindingOf turnRecord.toNat).1, sa := 0, sd := 0, under := none }
def wBound : State := wS.updCluster 0 fun k => { k with turn := { k.turn with queue := [bind_] } }
/-- A ramp of the matrix divisor ends now. -/
def wRamped : State := wS.updCluster 0 fun k => { k with clk := { k.clk with ramp := some 4000, target := some (.mat, 8), rampAt := 900 } }
/-- Behind it the core asks for another. -/
def wHeld : State := wRamped.updCluster 0 fun k => { k with clk := { k.clk with held := [(0, .vec, 16)] } }
/-- A Lamp arrives at a core that is in task 4, or is in none. -/
def wIn (here : Bool) (m : LampMsg) (past : List LampPast) : State :=
  my (fun c => { c with lampIn := [m], lampPast := past, task := { c.task with lamp := if here then [0, 1] else [], lampOf := 4 } }) wS
def past_ : LampPast := { id := 4, to_ := [0, 1], lamp := {} }
/-- The core has stopped with a report. -/
def wStopped : State := my (fun c => { c with mode := .stopped, report := some (.trapSw, 5) }) wS
/-- A feed of one entry through descriptor 5. -/
def feed_ (fmt : Option FeedFmt) : Feed := { id := 4, fifoB := false, xd := 5, d := { src_ with len := 256 }, left := 1, fmt := fmt, start := 0, n := 0 }
def wFeed (fmt : Option FeedFmt) : State := my (fun c => { c with feeds := [feed_ fmt] }) wX
/-- A transfer waits for the answer to record 4. -/
def wFaulted : State := (arg { n := 4 } (my (fun c => { c with xfers := [{ copy_ with st := .faulted 4 }] }) wX)).updDie 0 fun d => { d with nextToken := 5 }

/-- The same, `n` ticks after reset. -/
def wLater (n : Nat) : State := wS.updPkg fun p => { p with ticks := n }
/-- The format of a manifest of zeros. -/
def fmt_ : FeedFmt := { code := 0, sparse := false, qside := 0 }

/-- Hypotheses of `Obligations.CoreEventsComplete`. -/
theorem witness_CoreEventsComplete :
    ((∃ k, wSync.me.inGroup k = true) ∧ wSync.groupPulse = some 0 ∧ 0 ≤ wSync.now) ∧
    ((wS.groupPulse = none) ∧ ((∀ i, i < 64 → 10 ≤ i → (wSync.lane .s).buf.get i ≠ none))) ∧
    ((∃ t, ensureCode .s 10 wCode = .ok t ∧ true = true) ∧ (wCode.lane .s).pc.toNat ≤ 10 ∧ 10 < wCode.me.clen .s ∧ (wCode.lane .s).buf.get 10 = none) ∧
    (((my (fun c => { c with q := c.q.set 3 [entry_ true 0, entry_ false 1, entry_ false 0] }) wS).me.q.get 3 = [entry_ true 0, entry_ false 1] ++ entry_ false 0 :: [] ∧ (∀ x ∈ [entry_ true 0, entry_ false 1], x.filled = true ∨ x.left ≠ 0)) ∧ (wS.me.feeds = [])) ∧
    ((∃ r, Feed.readAll fmt_ (((feed_ (some fmt_)).reqs fmt_).length - 0) (feed_ (some fmt_)) (wFeed (some fmt_)) = .ok r ∧ true = true) ∧ ((wFeed (some fmt_)).me.feeds.find? fun f => f.fifoB == (wFeed (some fmt_)).arg.flag) = some (feed_ (some fmt_)) ∧ (feed_ (some fmt_)).st = .active ∧ ((wFeed (some fmt_)).me.fifo_ false).length < 64 ∧ (feed_ (some fmt_)).due (wFeed (some fmt_)) ≤ (wFeed (some fmt_)).now ∧ (feed_ (some fmt_)).left = 1) ∧
    ((∃ r, feedCheck false 5 (feed_ none).d fmt_ 1 (wFeed none).pending.2 = .ok r ∧ true = true) ∧ (wFeed none).me.feeds = [feed_ none] ∧ (feed_ none).fmt = none ∧ (wFeed none).pending.1 = .entry 3 ∧ (wFeed none).pending.2.me.feeds = [feed_ none] ∧ feedFmt false ((wFeed none).pending.2.me.mf.get 3) = fmt_ ∧ fmtRow false fmt_.code.toNat = true) ∧
    (((my (fun c => { c with matGate := .waking 1000 }) wS).me.matGate = .waking 1000) ∧ ((wS.me.tiles.get 2).cfg = false)) ∧
    ((∃ t, restoreTile 2 wSaved = .ok t ∧ true = true) ∧ (wSaved.me.tiles.get 2).cfg = true ∧ (wSaved.me.tiles.get 2).resid = false) ∧
    ((wS.clusters.get 0).turn.queue = []) ∧
    ((∃ p, wBound.turnDue 0 = some (bind_, p) ∧ p ≤ wBound.pulses 0) ∧ (wBound.clusters.get 0).turn.queue = bind_ :: []) ∧
    (wS.me.lampIn = [] ∧ (wIn true { id := 4, to_ := [0, 1], lb := true, ls := 2 } []).me.lampIn = [{ id := 4, to_ := [0, 1], lb := true, ls := 2 }] ∧ (wIn true { id := 4, to_ := [0, 1], lb := true, ls := 2 } []).me.inLamp 4 = true) ∧ ((wIn false { id := 4, to_ := [0, 1], lb := true, ls := 2 } []).me.inLamp 4 = false ∧ ((wIn false { id := 4, to_ := [0, 1], lb := true, ls := 2 } []).me.lampPast.find? fun p => p.id == 4) = none) ∧ (((wIn false { id := 4, to_ := [0, 1], lb := true, ls := 2 } [past_]).me.lampPast.find? fun p => p.id == 4) = some past_) ∧ ((wS.clusters.get 0).clk.ramp = none ∧ (wRamped.clusters.get 0).clk.ramp = some 4000 ∧ 4000 ≤ wRamped.pkg.ticks ∧ (wRamped.clusters.get 0).clk.target = some (.mat, 8) ∧ (wRamped.clusters.get 0).clk.held = [] ∧ (wHeld.clusters.get 0).clk.held = [] ++ [(0, .vec, 16)]) ∧ (wS.saveReady wS.focus = false ∧ (my (fun c => { c with mode := .saving }) wHalt).saveReady 0 = true) ∧ (wS.me.mode ≠ .idle ∧ (0x3000 : Word).toNat % 4096 = 0) ∧ ((my (fun c => { c with mode := .idle }) wS).me.mode = .idle ∧ wStopped.me.mode ≠ .running ∧ wStopped.me.mode ≠ .idle ∧ wS.me.mode = .running ∧ wS.timed = false ∧ (my (fun c => { c with ctl := { c.ctl with timed := true } }) wS).timed = true) ∧ (wS.me.reported = false ∧ wStopped.me.reported = true ∧ wStopped.me.report = some (.trapSw, 5)) ∧ (wS.waiting false 4 = none ∧ wFaulted.waiting false 4 = some (wFaulted.focus, .inl { copy_ with st := .faulted 4 })) ∧ ((wStopped.me.mode = .idle ∨ wStopped.me.mode = .stopped)) ∧ (wS.ptime / 1000 ≤ wS.pkg.usGrant ∧ (wLater 10000).pkg.usGrant < (wLater 10000).ptime / 1000 ∧ (∀ r ∈ (wLater 10000).clusters.rows, r.2.pend = [])) :=
  ⟨⟨⟨.s, by decide +kernel⟩, by decide +kernel⟩, by decide +kernel,
    ⟨ok_of (p := fun _ => true) (by decide +kernel), by decide +kernel⟩, by decide +kernel,
    ⟨ok_of (p := fun _ => true) (by decide +kernel), by decide +kernel⟩,
    ⟨ok_of (p := fun _ => true) (by decide +kernel), by decide +kernel⟩, by decide +kernel,
    ⟨ok_of (p := fun _ => true) (by decide +kernel), by decide +kernel⟩, by decide +kernel,
    ⟨⟨4, by decide +kernel⟩, by decide +kernel⟩, by decide +kernel⟩

theorem hasShape {s : State} {d : Nat} {r : BitVec 128} (h : (match s.bindHasShape d r with | .ok b => b | .error _ => false) = true) :
    s.bindHasShape d r = .ok true := by
  split at h
  · next e => rw [e, h]
  · cases h

/-- A graph of function 1 with one OPB, in page 2. -/
def graph : Graph :=
  { vf := 1, hdr := 0, nopb := 1, rways := 0, wbase := 0, total := 0, opbs := 0x2000, steps := 0x2400, k0 := 0, nstep := 1, tag := 0,
    dies := 1, cookie := 0, step := 0, inStep := true, notBefore := 0, lv := .fill 0, opb := .fill {}, lost := 0, failed := false }
/-- Entry 5 has been expanded, on die 0; the first OPB has one schedule, at 0x2100, and its parameters at 0x2200. -/
def wTask : State :=
  (arg { value := 5 } { wMapped with mem := memWrite (memWrite (memWrite wMapped.mem 0x9003 [1]) 0x9039 [0x22]) 0x9041 [0x21] }).updDie 0 fun d =>
    { d with tasks := d.tasks.set 5 { st := .expanded, vf := 1 }, graphs := d.graphs.set 1 (some graph) }
/-- Its bind record stands at the head of the queues of cores 8 to 15. -/
def bound : BitVec 128 := 5 + 8 <<< 32
def wDispatch : State :=
  { wTask with focus := 8 }.updDie 0 fun d => { d with slots := (List.range 8).foldl (fun t i => t.set (8 + i) [bound]) d.slots }
def dispatched : Nat × State :=
  (wDispatch.updDie 0 fun y => { y with slots := (bindCores bound).foldl (fun t c => t.upd c.toNat fun q => q.drop 1) y.slots }).take
/-- Its step has not begun. -/
def wStep : State := (arg { n := 1 } wTask).setGraph 0 1 (some { graph with inStep := false })
def stepOf (s : State) : Bool :=
  okWith (ttRead 0 1 (graph.steps + BitVec.ofNat 64 0) 64 s) fun r => !r.lost && okWith (loadDeps 0 { graph with inStep := false } [0] (.fill {}) r.st) fun _ => true
theorem stepReads {s : State} (h : stepOf s = true) : ∃ r o, ttRead 0 1 (graph.steps + BitVec.ofNat 64 0) 64 s = .ok r ∧ r.lost = false ∧
    loadDeps 0 { graph with inStep := false } [0] (.fill {}) r.st = .ok o := by
  obtain ⟨r, h1, h2⟩ := ok_of h
  simp only [Bool.and_eq_true, Bool.not_eq_true'] at h2
  obtain ⟨o, h3, -⟩ := ok_of h2.2
  exact ⟨r, o, h1, h2.1, h3⟩
/-- The first OPB is ready, and has been checked. -/
def walked : Graph := { graph with opb := (Tab.fill {}).set 0 { ready := true, checked := true } }
def wWalk : State := (arg { n := 1, m := 0 } wTask).setGraph 0 1 (some walked)
def opbFuses (s : State) : Bool := okWith (readOpb 0 walked 0 s) fun r => (r.1.fused (r.1.indices 0)).isSome
theorem opbReads {s : State} (h : opbFuses s = true) : ∃ r, readOpb 0 walked 0 s = .ok r ∧ (r.1.fused (r.1.indices 0)).isSome = true := ok_of h
/-- A launch record waits at die 0 for function 3, and is not well formed. -/
def wLq : State := wS.updDie 0 fun d => { d with lq := d.lq.set 3 [7] }
/-- One waits for function 1, whose header stands at the start of its page; function 2 runs a graph of `n` OPBs. -/
def launch : Launch := 0x2000 + 1 <<< 96 + 1 <<< 136
def wLaunch (n : Nat) : State :=
  { wMapped with mem := memWrite (memWrite (memWrite wMapped.mem 0x9000 [1, 0, 1, 0, 1]) 0x9008 [0x80, 0x20]) 0x9011 [0x21] }.updDie 0 fun d =>
    { d with lq := d.lq.set 1 [launch], graphs := d.graphs.set 2 (some { graph with vf := 2, nopb := n }) }
def launchOk (s : State) (b : Bool) : Bool :=
  match checkLaunch 0 1 launch (s.updDie 0 fun x => { x with lq := x.lq.set 1 [] }) with | some r => s.opbRoom r.1 == b | none => false
theorem launches {s : State} {b : Bool} (h : launchOk s b = true) :
    ∃ r, checkLaunch 0 1 launch (s.updDie 0 fun x => { x with lq := x.lq.set 1 [] }) = some r ∧ s.opbRoom r.1 = b := by
  unfold launchOk at h
  split at h
  · exact ⟨_, by assumption, eq_of_beq h⟩
  · cases h
/-- An invalidation of function 2 waits. -/
def wInval (r : Option (BitVec 40 × Bool)) : State := wS.updPkg fun p => { p with invals := [{ vf := 2, lo := 0, hi := 5, root := r }] }
/-- Expert 3 is being fetched into the page, from package 5 or from a stored page of zeros. -/
def wPeer : State :=
  { wMapped with experts := wS.experts.set 3 { st := 1, prev := 2, src := some 5, by_ := 1, base := 0x2040, len := 64 },
                 arg := { n := 3, fetch := .peerBytes (List.replicate 64 9) },
                 pkg := { wS.pkg with routes := wS.pkg.routes.set 5 1, masks := wS.pkg.masks.set 1 32 } }
def wStored : State :=
  { wMapped with experts := wS.experts.set 3 { st := 1, prev := 2, src := none, by_ := 1, base := 0x2040, len := 64 },
                 arg := { n := 3, fetch := .capacity },
                 mem := memWrite wMapped.mem (keyCap 0) [3, 0, 0, 0, 3, 0, 0, 0, 3, 0, 0, 0, 3, 0, 0, 0, 0xFF, 0x80, 0x3F, 0xFF, 0x80, 0x3F, 0xFF, 0x80, 0x3F, 0xFF, 0x80, 0x3F],
                 pkg := { wS.pkg with capSize := wS.pkg.capSize.set 0 0x10000 } }
def storedPut (s : State) : Bool := okWith (s.storedAt 0) fun r => okWith (s.fetchPut 3 0 (r.1.take 64)) fun _ => true
theorem stored {s : State} (h : storedPut s = true) : ∃ r u, s.storedAt 0 = .ok r ∧ s.fetchPut 3 0 (r.1.take 64) = .ok u := by
  obtain ⟨r, h1, h2⟩ := ok_of h
  obtain ⟨u, h3, -⟩ := ok_of h2
  exact ⟨r, u, h1, h3⟩
/-- Bytes of package 5 arrive for the page; a slot of peers `m` waits for them, or applies them. -/
def arrival (a : Word) : Parked := { vf := 1, src := 5, dst := a, bytes := List.replicate 4096 0 }
def slot_ (m : BitVec 512) : CollSlot :=
  { vf := 1, dst := 0x2000, flags := 0x9FFF, peers := m, applied := [], len := 4096, op := 3, bf16 := false, dcore := 0, dsig := 0 }
def wParked (l : List CollSlot) : State := wMapped.updPkg fun p => { p with parked := [arrival 0x2000], collSlots := l }
/-- Which of the three an arrival meets. -/
def fitCode (s : State) (a : Parked) : Nat := match s.fits a with | .apply _ => 0 | .park => 1 | .discard => 2
theorem applies {s : State} {a : Parked} {c : CollSlot} (h : fitCode s a = 0) (hs : s.slotOf a.vf a.dst = some c) : s.fits a = .apply c := by
  unfold fitCode State.fits at h
  unfold State.fits
  rw [hs] at h ⊢
  dsimp only at h ⊢
  by_cases h1 : (!c.peers.getLsbD a.src) = true
  · rw [if_pos h1] at h; cases h
  · rw [if_neg h1] at h ⊢
    by_cases h2 : (c.next != some a.src || c.cur.isSome || (s.staging a).isSome) = true
    · rw [if_pos h2] at h; cases h
    · rw [if_neg h2]
theorem discards {s : State} {a : Parked} (h : fitCode s a = 2) : s.fits a = .discard := by unfold fitCode at h; cases e : s.fits a <;> simp_all
theorem parks {s : State} {a : Parked} (h : fitCode s a = 1) : s.fits a = .park := by unfold fitCode at h; cases e : s.fits a <;> simp_all
def wChunk : State := arg { flag := true } (wParked [{ slot_ 32 with cur := some (arrival 0x2000, 0) }])
def chunkOk (s : State) : Bool :=
  match collRead s 1 0x2000 2048 with
  | some (b, u) => (collWrite u 1 0x2000 (collBytes 3 false 512 b (((arrival 0x2000).bytes.drop 0).take 2048))).isSome
  | none => false
theorem chunk {s : State} (h : chunkOk s = true) : ∃ b u, collRead s 1 0x2000 2048 = some (b, u) ∧
    (collWrite u 1 0x2000 (collBytes 3 false 512 b (((arrival 0x2000).bytes.drop 0).take 2048))).isSome = true := by
  unfold chunkOk at h
  split at h
  · exact ⟨_, _, by assumption, h⟩
  · cases h
/-- Function 3 has two records to take, and asks for messages at two. -/
def wVf : State := { wS with vfs := wS.vfs.set 3 { evtail := 3, evhead := 1, evcnt := 2 }, arg := { n := 3 } }
/-- Expert 3 is being fetched from package 5, which the fabric does not reach. -/
def wFetch : State := { wS with experts := wS.experts.set 3 { st := 1, prev := 2, src := some 5 }, arg := { n := 3, fetch := .fabricErr } }
/-- Migration command `r` is in progress. -/
def wMig (m : Mig) : State := wS.updPkg fun p => { p with mig := some m }
/-- A command of operation `n` on one page. -/
def migRec (n : BitVec 256) : BitVec 256 := n + 1 <<< 32 + 0xFE00000000000 <<< 192

/-- Hypotheses of `Obligations.TaskEventsComplete`. -/
theorem witness_TaskEventsComplete :
    (wTask.bindHasShape 0 5 = .ok true ∧ ((wTask.die 0).tasks.get 5).st = .expanded ∧ bindOk 0 5 = true ∧ (∀ c ∈ bindCores 5, ((wTask.die 0).slots.get c.toNat).length < 4) ∧ (bindCores 5).Nodup) ∧
    ((wS.die (dieOf wS.focus)).slots.get 0 = [] ∧ ((wS.updDie 0 fun d => { d with slots := d.slots.set 0 [5] }).die 0).slots.get 0 = 5 :: [] ∧ (wS.updDie 0 fun d => { d with slots := d.slots.set 0 [5] }).dispatchSet 0 5 = []) ∧
    ((∃ r, readEntry 0 (bindTask bound) (bindShape bound) (bindFirst bound) (execDispatch.coresIn (bindCores bound)) (dispatched.1 + 1) graph dispatched.2 = .ok r ∧ true = true) ∧ (wDispatch.die (dieOf wDispatch.focus)).slots.get wDispatch.focus.toNat = bound :: [] ∧ wDispatch.dispatchSet 0 bound = [bound] ∧ dispatched.2.graph 0 ((dispatched.2.die 0).tasks.get (bindTask bound)).vf = some graph ∧ bindCtx bound = 0 ∧ ((dispatched.2.die 0).tasks.get (bindTask bound)).lamp = 0) ∧
    ((∃ r o, ttRead 0 1 (graph.steps + BitVec.ofNat 64 0) 64 wStep = .ok r ∧ r.lost = false ∧ loadDeps 0 { graph with inStep := false } [0] (.fill {}) r.st = .ok o) ∧ (wStep.die 0).graphs.get 1 = some { graph with inStep := false } ∧ ({ graph with inStep := false } : Graph).onDies = [0] ∧ ({ graph with inStep := false } : Graph).timed = false ∧ wStep.mayStep 0 { graph with inStep := false } = true) ∧
    ((∃ r, readOpb 0 walked 0 wWalk = .ok r ∧ (r.1.fused (r.1.indices 0)).isSome = true) ∧ (wWalk.die 0).graphs.get 1 = some walked ∧ walked.expandable 0 = true ∧ firstFrom (fun i => ((wWalk.die 0).tasks.get i).isFree) 16384 0 = some 0 ∧ (walked.opb.get 0).checked = true) ∧
    ((∃ r, checkLaunch 0 1 launch ((wLaunch 1).updDie 0 fun x => { x with lq := x.lq.set 1 [] }) = some r ∧ (wLaunch 1).opbRoom r.1 = true) ∧ (∃ r, checkLaunch 0 1 launch ((wLaunch 16384).updDie 0 fun x => { x with lq := x.lq.set 1 [] }) = some r ∧ (wLaunch 16384).opbRoom r.1 = false) ∧ (wLaunch 1).pkg.mode = 1 ∧ ((wLaunch 1).die 0).nextLaunch = some 1 ∧ ((wLaunch 1).die 0).lq.get 1 = launch :: []) ∧
    (((wS.die 0).nextLaunch = none ∧ (wS.die 0).graphs.get 0 = none) ∧ (wLq.pkg.mode = 1 ∧ (wLq.die 0).nextLaunch = some 3 ∧ (wLq.die 0).lq.get 3 = 7 :: [] ∧ (checkLaunch 0 3 7 (wLq.updDie 0 fun x => { x with lq := x.lq.set 3 [] })).isNone = true) ∧ ((wVf.vfs.get 3).armed = true ∧ (wVf.vfs.get 3).evhead ≠ (wVf.vfs.get 3).evtail ∧ (wVf.vfs.get 3).evcnt.toNat ≤ ((wVf.vfs.get 3).evtail - (wVf.vfs.get 3).evhead).toNat ∧ (wS.vfs.get 3).evhead = (wS.vfs.get 3).evtail ∧ (wVf.vfs.get 3).held = []) ∧ (((wS.die 0).lq.get 3).length < 64 ∧ 64 ≤ (((wS.updDie 0 fun d => { d with lq := d.lq.set 3 (List.replicate 64 0) }).die 0).lq.get 3).length) ∧ ((wS.experts.get 3).st ≠ 1 ∧ (wFetch.experts.get 3).st = 1 ∧ (wFetch.experts.get 3).src = some 5 ∧ wFetch.arg.fetch = .fabricErr)) ∧
    ((∃ u, wPeer.fetchPut 3 0 ((List.replicate 64 (9 : Byte)).take 64) = .ok u ∧ true = true) ∧ (wPeer.experts.get 3).st = 1 ∧ (wPeer.experts.get 3).src = some 5 ∧ wPeer.arg.fetch = .peerBytes (List.replicate 64 9) ∧ wPeer.fabricOk 1 5 = true ∧ (64 : BitVec 32).toNat ≤ (List.replicate 64 (9 : Byte)).length) ∧
    ((∃ r u, wStored.storedAt 0 = .ok r ∧ wStored.fetchPut 3 0 (r.1.take 64) = .ok u) ∧ (wStored.experts.get 3).st = 1 ∧ (wStored.experts.get 3).src = none ∧ wStored.arg.fetch = .capacity ∧ 0 < (64 : BitVec 32).toNat) ∧
    ((wS.migCommand = none ∧ wS.pkg.mig = none) ∧ ((wMig { rec_ := 0 }).migCommand = some { rec_ := 0 } ∧ migBad 0 = true) ∧ ((wMig { rec_ := migRec 1 }).migCommand = some { rec_ := migRec 1 } ∧ migBad (migRec 1) = false ∧ migBad (migRec 2) = false ∧ migBad (migRec 3) = false ∧ migOp (migRec 1) = 1 ∧ migOp (migRec 2) = 2 ∧ migOp (migRec 3) = 3) ∧ ((wMig { rec_ := migRec 1, ended := true }).pkg.mig = some { rec_ := migRec 1, ended := true } ∧ migDone (migRec 1) % 8 = 0 ∧ 0xFE00000000000 ≤ migDone (migRec 1) ∧ migDone (migRec 1) + 8 ≤ 0xFE00012000000) ∧ ((lazy wS).eager = false ∧ (wInval (some (9, true))).pkg.invals = { vf := 2, lo := 0, hi := 5, root := some (9, true) } :: [] ∧ (wInval none).pkg.invals = { vf := 2, lo := 0, hi := 5, root := none } :: [] ∧ (wInval none).vfQuiet 2 = true ∧ (wQueue [read_]).vfQuiet 1 = false) ∧ (wS.pkg.collSends = [] ∧ wS.pkg.parked = [] ∧ wS.slotOf 3 0x2000 = none ∧ wS.parkedIn (wS.stackOf 3 0x2000) + [(1 : Byte)].length ≤ 0x400000 ∧ (wS.staging { vf := 3, src := 0, dst := 0x2000, bytes := [1] }).isSome = true) ∧ (wMapped.slotOf 1 0x2000 = none ∧ wMapped.parkedIn (wMapped.stackOf 1 0x2000) + (arrival 0x2000).bytes.length ≤ 0x400000 ∧ wMapped.staging (arrival 0x2000) = none) ∧ ((wMapped.updPkg fun p => { p with collSends := [{ vf := 1, flags := 0x9FFF, src := 0x2000, len := 64 }] }).pkg.collSends[0]? = some { vf := 1, flags := 0x9FFF, src := 0x2000, len := 64 } ∧ (collRead (wMapped.updPkg fun p => { p with collSends := [{ vf := 1, flags := 0x9FFF, src := 0x2000, len := 64 }] }) 1 0x2000 64).isSome = true)) ∧
    ((wParked []).pkg.parked[0]? = some (arrival 0x2000) ∧ (wParked [slot_ 32]).fits (arrival 0x2000) = .apply (slot_ 32) ∧ (wParked [slot_ 64]).fits (arrival 0x2000) = .discard ∧ (wParked []).fits (arrival 0x2000) = .park ∧ (wParked []).staging (arrival 0x2000) = none) ∧
    (wChunk.pkg.collSlots[0]? = some { slot_ 32 with cur := some (arrival 0x2000, 0) } ∧ (∃ b u, collRead wChunk 1 0x2000 2048 = some (b, u) ∧ (collWrite u 1 0x2000 (collBytes 3 false 512 b (((arrival 0x2000).bytes.drop 0).take 2048))).isSome = true) ∧ 2048 * 0 + min 2048 (4096 - 2048 * 0) < 4096) :=
  ⟨⟨hasShape (by decide +kernel), by decide +kernel⟩, by decide +kernel,
    ⟨ok_of (p := fun _ => true) (by decide +kernel), by decide +kernel⟩, ⟨stepReads (by decide +kernel), by decide +kernel⟩,
    ⟨opbReads (by decide +kernel), by decide +kernel⟩,
    ⟨launches (by decide +kernel), launches (by decide +kernel), by decide +kernel⟩, by decide +kernel,
    ⟨ok_of (p := fun _ => true) (by decide +kernel), by decide +kernel⟩, ⟨stored (by decide +kernel), by decide +kernel⟩,
    by decide +kernel,
    ⟨rfl, applies (by decide +kernel) rfl, discards (by decide +kernel), parks (by decide +kernel), by decide +kernel⟩,
    ⟨rfl, chunk (by decide +kernel), by decide +kernel⟩⟩

def image : ConfigImage :=
  { signatureOk := true, version := 0, windows := [], pkgid := 3, prio1 := 0, prio2 := 0, budget := 100, shares := [], ports := 0,
    sensorLimit := 0, readOut := false }

/-- Hypotheses of `Obligations.PackageEventsComplete`. -/
theorem witness_PackageEventsComplete :
    ((wS.clusters.get 0).gated.contains 15 = false ∧ (wS.clusters.get 0).l2.rows = [] ∧ 15 < 16 - (wS.clusters.get 0).conv ∧ (wS.clusters.get 0).gated.length + 2 < 16 - (wS.clusters.get 0).conv ∧ 16 - (wS.clusters.get 0).conv ≤ 16) ∧ ((3 : Nat) < 4 ∧ (4 : Nat) ≤ 4 ∧ (arg { flag := true } wS).arg.flag = true ∧ wS.arg.flag = false) ∧ ((0 : BitVec 3).toNat < 2 ∧ 2 ≤ (2 : BitVec 3).toNat ∧ ((wS.updPkg fun p => { p with ports := p.ports.set 4 { st := 1 } }).pkg.ports.get 4).st = 1 ∧ (wS.pkg.ports.get 4).en = false ∧ ((wS.updPkg fun p => { p with ports := p.ports.set 4 { en := true } }).pkg.ports.get 4).en = true) ∧ (((0x9000 : Nat) < hbmSize ∧ hbmChannel 0x9000 = 32) ∧ (¬ (0x9000 < hbmSize ∧ hbmChannel 0x9000 = 33))) ∧ (wS.pkg.winsClock { ratePpb := 0, step := 0, offs := 0, hops := 0, lock := false, prio1 := 255, prio2 := 255, master := 1 } = true ∧ wS.pkg.winsClock { ratePpb := 0, step := 0, offs := 0, hops := 0, lock := false } = false) ∧ ((hbmSize / 128 - 1) * 128 < hbmSize ∧ hbmSize ≤ hbmSize / 128 * 128) ∧ (wS.ptime / 1000 ≤ wS.pkg.usWindow ∧ (wLater 10000).pkg.usWindow < (wLater 10000).ptime / 1000 ∧ wS.pkg.k = 0 ∧ (wLater 10000).pkg.firstLock = false ∧ (wS.updPkg fun p => { p with firstLock := true }).pkg.firstLock = true) ∧ (wS.pkg.usThrottle ≤ wS.ptime / 10000 ∧ wS.ptime / 10000 < (wS.updPkg fun p => { p with usThrottle := 1 }).pkg.usThrottle) ∧ (wS.arg.img = none ∧ wS.pkg.flash = none) ∧ ((arg { img := some image } wS).arg.img = some image ∧ image.signatureOk = true ∧ wS.pkg.minVersion ≤ image.version ∧ wS.arg.boot = none ∧ (wS.updPkg fun p => { p with mode := 2 }).pkg.mode = 2 ∧ wS.pkg.mode ≠ 2) ∧ ((wS.updPkg fun p => { p with spdmVersion := true }).pkg.spdmVersion = true ∧ ¬ wS.pkg.spdmVersion = true ∧ (wS.updPkg fun p => { p with spdmCaps := true }).pkg.spdmCaps = true ∧ (wS.updPkg fun p => { p with spdmAlgs := true, img := some image }).pkg.spdmAlgs = true ∧ (wS.updPkg fun p => { p with spdmAlgs := true, img := some image }).pkg.img = some image) ∧ ((4 : Nat) % 8 ≠ 0 ∧ (0x180 : Nat) % 8 = 0 ∧ (wS.core 0).mode = .running) ∧ (UeTarget.scalar 0 5 = .scalar 0 5 ∧ UeTarget.memWord 0x1004 = .memWord 0x1004) :=
  by decide +kernel

/-! ### Hypotheses of the statements: encoding and the machine -/

/-- Hypotheses of `Obligations.DecodeOfEncode`. -/
theorem witness_DecodeOfEncode :
    ((Instr.xmcast 15 15 63 true).source = some (.lane .x) ∧ (Instr.xmcast 15 15 63 true).wf = true ∧ ({ idle := 3, syn := true, stamp := 0 } : Framing).fits (.lane .x) = true) ∧ (Instr.sync.source = some (.lane .s) ∧ Instr.sync.wf = true ∧ ({ idle := 3, syn := true, stamp := 0 } : Framing).fits (.lane .s) = true ∧ ({ idle := 3, syn := true, stamp := 0 } : Framing).syn = true) ∧ ((Instr.mma 31 255 15 true 31).source = some (.lane .m) ∧ (Instr.mma 31 255 15 true 31).wf = true ∧ ({ idle := 0, syn := false, stamp := 0x1FFFF } : Framing).fits (.lane .m) = true) ∧ ((Instr.sburst 15 0x4000 0xFFFFFFFFFFFFFFC0).source = some .box ∧ (Instr.sburst 15 0x4000 0xFFFFFFFFFFFFFFC0).wf = true ∧ noFrame.fits .box = true) :=
  by decide +kernel

/-- Hypotheses of `Obligations.EncodeOfDecode`. -/
theorem witness_EncodeOfDecode :
    (decode (.lane .v) [0x10480000] = .ok (.vsetshape .f32 64) ∧ Lane.v ≠ .m) ∧
    (decode (.lane .m) [0x100F9BE0, 0x2800] = .ok (.mma 0 31 3 false 31)) ∧
    (decode .box [0x28011801, 1, 2, 3] = .ok (.ssig 1 6 1)) :=
  ⟨⟨rfl, by decide +kernel⟩, rfl, rfl⟩

/-- The next word of the S lane. -/
def wAdd : State := wS.withFetchWord 32 0x100000
/-- The next word of Signal Box context 0. -/
def wProgram : State := wS.withFetchWord 96 0x400000100040000040
def wWaits : State := { wProgram with boxes := wProgram.boxes.upd 0 fun b => { b with st := .wait } }
/-- The state in which the word of `wAdd` runs. -/
def wAddT : State := { wAdd.newTurn.passTo wAdd.newTurn.nextTick with focus := wAdd.focus }
def wEvent : State := { wS with agenda := [.event .ringLink {}] }

/-- Hypotheses of `Obligations.StepRunsTheWord`. -/
theorem witness_StepRunsTheWord :
    (decode (.lane .s) [0x100000] = .ok (.add 16 0 0) ∧ wAdd.agenda = [] ∧ wAdd.pkg.frozen = false ∧ wAddT.dueLanes = [.s] ∧ ([0x100000] : List Code).length = (laneStep .s).toNat ∧ (wAddT.lane .s).pc.toNat + 1 ≤ wAddT.me.clen .s ∧ (wAddT.lane .s).buf.get 0 = some 0x100000 ∧ stateCause wAddT (.add 16 0 0) = none ∧ (framing (.lane .s) [0x100000]).syn = false ∧ wAddT.onStamp .s (framing (.lane .s) [0x100000]) = true) ∧
    ((∃ r, boxFetch { wProgram.newTurn with agenda := [] } 0 = .ok r ∧ decide (r.1 = .scount 0 16 0x4000001000) = true) ∧ wProgram.agenda = .box 0 :: [] ∧ wProgram.pkg.frozen = false ∧ ({ wProgram.newTurn with agenda := [] }.boxes.get 0).st ≠ .wait ∧ (List.range 96).find? ({ wProgram.newTurn with agenda := [] } : State).boxStarts = some 0) ∧
    ((∃ r, boxFetch { wWaits.newTurn with agenda := [] } 0 = .ok r ∧ decide (r.1 = .scount 0 16 0x4000001000) = true) ∧ wWaits.agenda = .box 0 :: [] ∧ ({ wWaits.newTurn with agenda := [] }.boxes.get 0).st = .wait) ∧
    ((wEvent.agenda) = .event .ringLink {} :: [] ∧ wEvent.pkg.frozen = false ∧ Instr.ringLink.source = none ∧ Instr.ringLink ≠ .syncGroup) :=
  ⟨⟨rfl, by decide +kernel⟩, ⟨ok_of (by decide +kernel), by decide +kernel⟩, ⟨ok_of (by decide +kernel), by decide +kernel⟩,
    by decide +kernel⟩

/-- Hypotheses of `Obligations.MemoryReadsWhatWasWritten`. -/
theorem witness_MemoryReadsWhatWasWritten :
    Memory.wf [(5, 1), (7, 2)] = true ∧ Memory.wf (memWrite [(5, 1), (7, 2)] 5 [0, 3]) = true ∧ ((7 : Nat) < 5 ∨ 5 + 2 ≤ 7) :=
  by decide +kernel

/-- A step answers a next state. -/
def steps (s : State) : Bool := match step s with | .next _ => true | _ => false

theorem step_next {s : State} (h : steps s = true) : ∃ t, step s = .next t := by
  unfold steps at h
  split at h
  · exact ⟨_, by assumption⟩
  · cases h

/-- Hypotheses of `Obligations.StepKeepsMemoryCanonical`. -/
theorem witness_StepKeepsMemoryCanonical :
    (State.Canonical wAdd ∧ (∃ t, step wAdd = .next t)) ∧ (State.Canonical wProgram ∧ (∃ t, step wProgram = .next t)) :=
  ⟨⟨(by decide +kernel : Memory.wf wAdd.mem = true), step_next (by decide +kernel)⟩,
    ⟨(by decide +kernel : Memory.wf wProgram.mem = true), step_next (by decide +kernel)⟩⟩

/-- `s8` names a page of the range of windows, where the image places none. -/
def wDevice : State := my (fun c => { c with tlb := [{ page with pa := 0xFFFFFFFFF0000, mt := 2, sys := true }] }) (reg 8 0x2000 wP)

def faults (s : State) : Bool := match step s with | .fault .notAnEvent => true | _ => false

theorem faults_of {s : State} (h : faults s = true) : step s = .fault .notAnEvent := by
  unfold faults at h
  split at h <;> first | assumption | cases h

/-- 11 R286: what the image places nowhere is the permission cause, 0x12 (log 31). -/
theorem test_ld_unplaced : (match exec (.ldD 9 8 0) wDevice with | .next t => t.me.ctl.causeCode == 0x12 | _ => false) = true := by
  decide +kernel

/-- Hypotheses of `Obligations.StopsAreNamed`. -/
theorem witness_StopsAreNamed :
    ((∃ t, step (wEvent.updPkg fun p => { p with frozen := true }) = .next t) ∧ (wEvent.updPkg fun p => { p with frozen := true }).pkg.frozen = true) ∧
    (step { wS with agenda := [.event .sync {}] } = .fault .notAnEvent) :=
  ⟨⟨step_next (by decide +kernel), by decide +kernel⟩, faults_of (by decide +kernel)⟩

/-! ### Decoding (expected operands: the fields of the rows of the opcode table and of 04 R100-R116, put into their
bits by hand; each row's operands differ from one another) -/

/-- Each word of the list decodes to the instruction beside it, and that instruction encodes back to the word. -/
def decodesTo (src : Source) (l : List (List Code × Instr)) : Bool :=
  l.all (fun p =>
    match decode src p.1 with
    | .ok i => decide (i = p.2 ∧ encode (framing src p.1) i = p.1 ∧ i.wf = true)
    | .error _ => false)

/-- Each list of words is refused with the cause. -/
def refusesWith (e : DecErr) (l : List (Source × List Code)) : Bool :=
  l.all (fun p =>
    match decode p.1 p.2 with
    | .ok _ => false
    | .error e' => decide (e' = e))

theorem test_decode_scalar_0 : decodesTo (.lane .s) [
     ([0x000596C0], .add 5 18 27), ([0x00069E81], .sub 6 19 26), ([0x0007A642], .and_ 7 20 25), ([0x0005AE03], .or_ 5 21 24),
     ([0x0006B6C4], .xor_ 6 22 27), ([0x00079685], .andn 7 18 26), ([0x00059E46], .shl 5 19 25), ([0x0006A607], .shr 6 20 24),
     ([0x0007AEC8], .sra 7 21 27), ([0x0005B689], .slt 5 22 26), ([0x0006964A], .sltu 6 18 25), ([0x00079E0B], .min_ 7 19 24),
     ([0x0005A6CC], .max_ 5 20 27), ([0x0006AE8D], .minu 6 21 26), ([0x0007B64E], .maxu 7 22 25), ([0x0005960F], .sel 5 18 24),
     ([0x00269EC0], .mul 6 19 27), ([0x0027A681], .mulh 7 20 26), ([0x0025AE42], .mulhu 5 21 25), ([0x0026B603], .div 6 22 24),
     ([0x002796C4], .divu 7 18 27), ([0x00259E85], .rem 5 19 26), ([0x0026A646], .remu 6 20 25), ([0x0027A808], .clz 7 21),
     ([0x0025B009], .ctz 5 22), ([0x0026900A], .popc 6 18), ([0x01079A71], .addi 7 19 625), ([0x0125A442], .andi 5 20 1090),
     ([0x0146AE13], .ori 6 21 1555), ([0x0167B7E4], .xori 7 22 2020)] = true := by decide +kernel

theorem test_decode_scalar_1 : decodesTo (.lane .s) [
     ([0x01859035], .shli 5 18 53), ([0x01A69806], .shri 6 19 6), ([0x01C7A017], .srai 7 20 23),
     ([0x01E5AF28], .slti 5 21 1832), ([0x0226A8F9], .lis 6 1 43257), ([0x0312C2CA], .beq 18 24 714),
     ([0x0333DC9B], .bne 19 27 1179), ([0x0354D66C], .blt 20 26 1644), ([0x0375C83D], .bge 21 25 61),
     ([0x0396C20E], .bltu 22 24 526), ([0x03B2DBDF], .bgeu 18 27 991), ([0x03D305B0], .loop 19 1456),
     ([0x040EF781], .jmp 980865), ([0x042F0152], .call 983378), ([0x04470B23], .jal 7 2851), ([0x046594F4], .jalr 5 18 1268),
     ([0x04800000], .ret), ([0x04A7A616], .mcall 22 7 20 24), ([0x04C03267], .idle 12903), ([0x04E00000], .halt),
     ([0x05079609], .ldB 7 18 1545), ([0x05259FDA], .ldBu 5 19 2010), ([0x0546A1AB], .ldH 6 20 427),
     ([0x0567AB7C], .ldHu 7 21 892), ([0x0585B54D], .ldW 5 22 1357), ([0x05A6971E], .ldWu 6 18 1822),
     ([0x05C798EF], .ldD 7 19 239), ([0x0614D2C0], .stB 20 26 704), ([0x0635CC91], .stH 21 25 1169),
     ([0x0656C662], .stW 22 24 1634)] = true := by decide +kernel

theorem test_decode_scalar_2 : decodesTo (.lane .s) [
     ([0x0672D833], .stD 18 27 51), ([0x06869E85], .ldx .wu 0 6 19 26), ([0x06A7A64E], .stx .d 1 7 20 25),
     ([0x06C2ADA6], .pref 2 21 1446), ([0x06E6B000], .aptoPkg 6 22), ([0x06E79001], .aptoOwn 7 18),
     ([0x06E5980C], .apis .peerAcc 5 19), ([0x0706A4EA], .ldaW 6 20 1258), ([0x0727AEBB], .ldaD 7 21 1723),
     ([0x0756D08C], .stlW 22 26 140), ([0x0772CA5D], .stlD 18 25 605), ([0x08079E27], .atomW .maxu .rel 7 19 24),
     ([0x0825A6E7], .atomD .maxu .rel 5 20 27), ([0x0846AE8D], .casW .acq .sc 6 21 26), ([0x0867B64D], .casD .acq .sc 7 22 25),
     ([0x08859605], .fatomW .max 5 18 24), ([0x08A69EC5], .fatomD .max 6 19 27), ([0x08C00006], .fence .acq .package),
     ([0x08E00000], .vfence), ([0x0900B036], .sigadd 54 22), ([0x09209007], .sigwait 7 18), ([0x09409818], .sigexpect 24 19),
     ([0x09660029], .sigread 6 41), ([0x0987AAC0], .ringclaim 7 11 21), ([0x0980B2C1], .ringcommit 11 22),
     ([0x098092C2], .ringwaitf 11 18), ([0x09809AC3], .ringwaite 11 19), ([0x098502C4], .ringtake 5 11),
     ([0x0980AAC5], .ringdone 11 21), ([0x09C0E000], .own 224 0 .lanes)] = true := by decide +kernel

theorem test_decode_scalar_3 : decodesTo (.lane .s) [
     ([0x09F1B140], .ownwait 177 17 .xe), ([0x1A000000], .sync), ([0x1A20A000], .tickwait 20), ([0x0A400000], .lampsend),
     ([0x0A660000], .lamptest 6), ([0x0A809600], .collrdy 18 24), ([0x0AA59EC0], .rprobe 5 19 27), ([0x0AC0A680], .rput 20 26),
     ([0x0AE0A800], .rdrop 21), ([0x0B05000A], .lvread 5 10), ([0x0B20900B], .lvwrite 11 18), ([0x0B4000D1], .mfsel .lv10 13),
     ([0x0B80447D], .acqp 17533), ([0x0BA04E4E], .relp 20046), ([0x0BC0007E], .setdiv .vec 31), ([0x0BE00000], .wake),
     ([0x0C009800], .phint 19), ([0x0C207592], .trap 30098), ([0x0C400000], .eret), ([0x0C660134], .sysr 6 308),
     ([0x0C809305], .sysw 773 18), ([0x0CA00029], .l2conv true 9), ([0x0CC0A000], .event 20), ([0x0CEDA878], .xdset 13 21 120),
     ([0x0D0CB640], .xdsetD1 12 22 25), ([0x0D0C9601], .xdsetD2 12 18 24), ([0x0D0C9802], .xdsetWin 12 19 0),
     ([0x0D0CA003], .xdsetLen 12 20 0), ([0x0E00A800], .tbind 21), ([0x0E20B003], .tmap 3 22)] = true := by decide +kernel

theorem test_decode_scalar_4 : decodesTo (.lane .s) [
     ([0x0E409181], .tgld true 18 6), ([0x0E609942], .tgate .realBf16 19 5), ([0x0E87A0C1], .tcgate .real32 7 20 3),
     ([0x0EA0A942], .tdiag .realBf16 21 5), ([0x0EC0B000], .tswap 22), ([0x0EE79000], .tprob 7 18),
     ([0x0F050002], .tnorm .realBf16 5), ([0x0F200000], .twait)] = true := by decide +kernel

theorem test_decode_vector_0 : decodesTo (.lane .v) [
     ([0x00000000], .vnop), ([0x004C8002], .vsetshape .f16 100), ([0x00AD7F29], .vadd 45 31 50 9),
     ([0x00EE8319], .vsub 46 32 49 9), ([0x012F5B09], .vmul 47 22 48 9), ([0x01705F69], .vdiv 48 23 54 9),
     ([0x01B16359], .vmin 49 24 53 9), ([0x01E96749], .vmax 41 25 52 9), ([0x022A6B39], .vfma 42 26 51 9),
     ([0x026B6F29], .vfms 43 27 50 9), ([0x02AC7319], .vfnma 44 28 49 9), ([0x02ED7709], .vcmul 45 29 48 9),
     ([0x032E7809], .vabs 46 30 9), ([0x032F7C19], .vneg 47 31 9), ([0x03308029], .vrcp 48 32 9),
     ([0x03315839], .vrsqrt 49 22 9), ([0x03295C49], .vsqrt 41 23 9), ([0x032A6059], .vexp2 42 24 9),
     ([0x032B6469], .vlog2 43 25 9), ([0x032C6879], .vsinpi 44 26 9), ([0x032D6C89], .vcospi 45 27 9),
     ([0x032E7099], .vsig 46 28 9), ([0x036F7739], .viadd 47 29 51 9), ([0x03B07B29], .visub 48 30 50 9),
     ([0x03F17F19], .vimul 49 31 49 9), ([0x04298309], .vand 41 32 48 9), ([0x046A5B69], .vor 42 22 54 9),
     ([0x04AB5F59], .vxor 43 23 53 9), ([0x04EC6349], .vshl 44 24 52 9), ([0x052D6739], .vshr 45 25 51 9)] = true := by decide +kernel

theorem test_decode_vector_1 : decodesTo (.lane .v) [
     ([0x056E6B29], .vsra 46 26 50 9), ([0x05AD6F1B], .vcmp .le 13 27 49 11), ([0x05DE730B], .vcmpU .ltu 14 28 48 11),
     ([0x06033890], .pand 3 14 9), ([0x06433890], .por 3 14 9), ([0x06833890], .pxor 3 14 9),
     ([0x06CC8339], .eform 12 32 51 9), ([0x071D1C00], .pcount 29 7), ([0x076D5C29], .vql4dec 45 23 2 9),
     ([0x07AE6009], .vql4enc 46 24 9), ([0x07EF6409], .vredsum 47 25 9), ([0x07F06819], .vredmax 48 26 9),
     ([0x07F16C29], .vredmin 49 27 9), ([0x07E97039], .vscan 41 28 9), ([0x082A75BB], .vcvt 42 29 .i16 .rdn 11),
     ([0x086B79BB], .vcvtS 43 30 .i16 .rdn 11), ([0x088D0000], .eclr 13), ([0x088B1810], .eshift 11 6),
     ([0x088B1820], .econv 11 6), ([0x088B1830], .elshift 11 6), ([0x088B1840], .eadd 11 6), ([0x08805450], .eord 21),
     ([0x08E96B19], .vperm 41 26 49 9), ([0x092A6FC9], .vslide 42 27 60 9), ([0x096B7009], .vbcast 43 28 9),
     ([0x09AC7409], .vcompress 44 29 9), ([0x09ED7B49], .vbucket 45 30 52 9), ([0x0A2E3409], .vld 46 13 9),
     ([0x0A6F3409], .vst 47 13 9), ([0x0AB059E9], .vlds 48 22 30 9)] = true := by decide +kernel

theorem test_decode_vector_2 : decodesTo (.lane .v) [
     ([0x0AF15DE9], .vsts 49 23 30 9), ([0x0B296369], .vgather 41 24 54 9), ([0x0B6A6759], .vscatter 42 25 53 9),
     ([0x0BBE2C00], .qld 2 11), ([0x0BD1FB79], .vmovs 17 62 55 9), ([0x0C2D7329], .vguide 45 28 50 9),
     ([0x0C6E7719], .vstep 46 29 49 9), ([0x0CAF7809], .vtemb 47 30 9), ([0x0CFCEF3B], .vloop 3899 827),
     ([0x0D2090C9], .vbr .all 2316 9), ([0x0D453070], .tcfg 5 11 6), ([0x0D8634A0], .tldrow 6 13 10),
     ([0x0DC634A0], .tstrow 6 13 10), ([0x0E2C0CE0], .tmovr 44 3 14), ([0x0E6D0CE0], .tmovc 45 3 14), ([0x0E870000], .tzero 7),
     ([0x0EC11060], .tfma 1 4 6), ([0x0F3074D9], .eeval 48 29 13 9), ([0x0F717B39], .ep2p 49 30 51 9),
     ([0x0F8B14E0], .eadmit 11 5 14), ([0x0FC93000], .eld 9 12), ([0x0FC93010], .est 9 12)] = true := by decide +kernel

theorem test_decode_transfer_0 : decodesTo (.lane .x) [
     ([0x00000000], .xnop), ([0x00D2CD00], .xcopy 10 5 38 true), ([0x0158004B], .xfeeda 11 75), ([0x01C8001C], .xfeedb 9 28),
     ([0x0203532B], .xmcast 43 6 41 true), ([0x02DACB0C], .xgather 11 5 12 37 true), ([0x034B4D02], .xzce .four 9 6 38 true),
     ([0x03D2CF02], .xzcd .four 10 5 39 true), ([0x045B5108], .xdelta .f64 11 6 40 true), ([0x04CAD300], .xhalo 9 5 41 true),
     ([0x05004BD3], .xsig 37 211), ([0x059494A4], .xloop 164 5284), ([0x06000000], .xwait)] = true := by decide +kernel

theorem test_decode_signal_box_0 : decodesTo (.box) [
     ([0x1846E846], .sloop 70 59462), ([0x22175E17], .swait 535 23 535), ([0x2BE8A3E8], .ssig 1000 40 1000),
     ([0x32DCF200], .sexpert 1465 57), ([0x3FC57140], .sfetch 3978 true 394), ([0x4836195B], .sjump 3545435),
     ([0x50000000], .shalt), ([0x58000000], .spark)] = true := by decide +kernel

theorem test_decode_matrix : decodesTo (.lane .m) [
     ([0x12E3CEA0, 0x2BC00100], .mma 5 199 9 true 21),
     ([0x293233C0, 0x00000001], .mmasp 18 100 6 false 30),
     ([0x35A6EE00, 0x2BC22300], .mmv 11 77 13 6),
     ([0x41A80000, 0x00000001], .mzero 3 20),
     ([0x522A0000, 0x2BC44500], .malloc 4 21),
     ([0x63920000, 0x00000001], .mfree 7 9),
     ([0x7126A540, 0x2BC66700], .mhand 2 19 0x295),
     ([0x832376C0, 0x00000001], .mdrain 6 17 11 45 true),
     ([0x941AA000, 0x2BC88900], .mload 8 13 5),
     ([0xAC700000, 0x00000001], .mfmt 12 7),
     ([0xB0000000, 0x2BCAAB00], .mwait),
     ([0xCABCFF76, 0x00000001], .mloop 0xABC 0xFF76),
     ([0xD0000000, 0x2BCCCD00], .mstop)] = true := by decide +kernel

theorem test_decode_long_signal_box : decodesTo .box [
     ([0x0CA12345, 0x89ABCDC0, 0x01234567], .sburst 37 0x12345 0x0123456789ABCDC0),
     ([0x10000000, 0x40001238, 0x00000002, 0xDEADBEEF], .swrite 0x0000000240001238 0xDEADBEEF),
     ([0x44D2848C, 0x10203040, 0x00000050], .scount 0x9A5 0x123 0x0000005010203040)] = true := by decide +kernel

/-- 04 R98, R112: the framing of a word: IDLE 5 with SYN, IDLE 2 without, and the stamp and the sync flag of a command. -/
theorem test_framing :
    framing (.lane .s) [0xB1000000] = { idle := 5, syn := true, stamp := 0 } ∧
    framing (.lane .x) [0x40800000] = { idle := 2, syn := false, stamp := 0 } ∧
    framing (.lane .m) [0xB0000000, 0xABCDEF01] = { idle := 0, syn := true, stamp := 0xABCDEF } := by decide +kernel

/-- 04 R117: what a reserved major, function, field, register code and operand value answer. -/
theorem test_reserved_encodings :
    refusesWith .illegalOp [(.lane .s, [0x05E00000]), (.lane .m, [0, 0]), (.lane .x, [0x06800000]), (.box, [0x60000000])] = true ∧
    refusesWith .illegalFn [(.lane .s, [0x00000010]), (.lane .s, [0x00200007]), (.lane .s, [0x0680000F]), (.lane .s, [0x08400008]),
      (.lane .s, [0x0BE00001]), (.lane .v, [0x030000A0]), (.lane .v, [0x05C00000]), (.lane .x, [0x03000003])] = true ∧
    refusesWith .reservedField [(.lane .s, [0x04800001]), (.lane .s, [0x0CF00000]), (.lane .v, [0x00BC0000]),
      (.lane .v, [0x0CC00400]), (.lane .v, [0x0B800000]), (.lane .m, [0x40000000, 0]), (.lane .m, [0xC0010001, 0]),
      (.lane .x, [0x05000000]), (.lane .x, [0x05800001]), (.box, [0x18000001]), (.box, [0x47FF8008, 0, 0])] = true := by
  decide +kernel

/-! ### Well-formed instructions: an ill-formed term for each check, which the check refuses -/

/-- 02 R48: a length of 0, and a length above each type's limit. -/
theorem test_wf_refuses_shapes :
    ([.vsetshape .f32 0, .vsetshape .f32 65, .vsetshape .bf16 129, .vsetshape .f16 129, .vsetshape .e4m3 257, .vsetshape .e5m2 257,
      .vsetshape .i32 65, .vsetshape .i16 129, .vsetshape .i8 257, .vsetshape .f64 33, .vsetshape .c64 33] : List Instr).all
      (fun i => !i.wf) = true := by decide +kernel

/-- 04 R109: codes 60-63 name no vector register where the position is written. -/
theorem test_wf_refuses_queue_destinations : ([
     .vadd 60 1 1 1, .vsub 60 1 1 1, .vmul 60 1 1 1, .vdiv 60 1 1 1, .vmin 60 1 1 1, .vmax 60 1 1 1, .vfma 60 1 1 1,
     .vfms 60 1 1 1, .vfnma 60 1 1 1, .vcmul 60 1 1 1, .vabs 60 1 1, .vneg 60 1 1, .vrcp 60 1 1, .vrsqrt 60 1 1, .vsqrt 60 1 1,
     .vexp2 60 1 1, .vlog2 60 1 1, .vsinpi 60 1 1, .vcospi 60 1 1, .vsig 60 1 1, .viadd 60 1 1 1, .visub 60 1 1 1,
     .vimul 60 1 1 1, .vand 60 1 1 1, .vor 60 1 1 1, .vxor 60 1 1 1, .vshl 60 1 1 1, .vshr 60 1 1 1, .vsra 60 1 1 1,
     .vql4dec 60 1 1 1, .vql4enc 60 1 1, .vredsum 60 1 1, .vredmax 60 1 1, .vredmin 60 1 1, .vscan 60 1 1,
     .vcvt 60 1 .f32 .rne 1, .vcvtS 60 1 .f32 .rne 1, .vperm 60 1 1 1, .vslide 60 1 1 1, .vbcast 60 1 1, .vcompress 60 1 1,
     .vbucket 60 1 1 1, .vld 60 1 1, .vlds 60 1 1 1, .vgather 60 1 1 1, .vguide 60 1 1 1, .vstep 60 1 1 1, .vtemb 60 1 1,
     .tmovr 60 1 1, .tmovc 60 1 1, .eeval 60 1 1 1, .ep2p 60 1 1 1] : List Instr).all (fun i => !i.wf) = true := by decide +kernel

/-- 04 R109-R116 and the rules of the instructions: counts, lengths, orders and registers that name no value. -/
theorem test_wf_refuses_values :
    ([.casW .acq .rel 1 2 3, .casD .acq .rel 1 2 3, .vql4enc 1 57 0, .vql4enc 1 59 0, .vcvt 1 2 .c64 .rne 0, .vcvtS 1 2 .c64 .rne 0, .eord 0,
      .vloop 4 0, .ep2p 1 2 59 0, .mzero 0 0,
      .mzero 0 33, .malloc 0 0, .malloc 0 33, .mfree 0 0, .mfree 0 33, .mhand 0 0 1, .mhand 0 33 1, .mdrain 0 0 1 0 false,
      .mdrain 0 33 1 0 false, .mload 0 0 1, .mload 0 33 1, .mloop 0 2, .mloop 1 3, .xdelta .c64 1 2 0 false, .xloop 0 1, .sburst 1 0 0,
      .sloop 0 1, .scount 0 0 0, .scount 4095 2 0] : List Instr).all (fun i => !i.wf) = true := by decide +kernel

/-- The names that an event carries. -/
theorem test_wf_refuses_names :
    validCore 0x090 = false ∧ RegBlock.wf (.bar0 96) = false ∧ RegBlock.wf (.core 0x090) = false ∧
    RegWrite.wf { block := .power, off := 2, wide := false, value := 0 } = false ∧
    RegWrite.wf { block := .power, off := 4, wide := true, value := 0 } = false ∧
    PtpMessage.wf { ratePpb := 50001, step := 0, offs := 0, hops := 0, lock := false } = false ∧
    PtpMessage.wf { ratePpb := -50001, step := 0, offs := 0, hops := 0, lock := false } = false ∧
    PtpMessage.wf { ratePpb := 0, step := 0, offs := 0, hops := 17, lock := false } = false ∧
    UeTarget.wf (.taskEntry false 16384) = false ∧ UeTarget.wf (.depCounter false 96 0) = false ∧
    UeTarget.wf (.depCounter false 0 16384) = false ∧ UeTarget.wf (.tagEntry false 32768) = false ∧
    UeTarget.wf (.memWord 4) = false ∧ UeTarget.wf (.scalar 0x090 0) = false ∧ UeTarget.wf (.vecWord 0 60 0) = false ∧
    UeTarget.wf (.vecWord 0 0 32) = false ∧ UeTarget.wf (.vecWord 0x090 0 0) = false := by decide +kernel

/-! ### Single steps (results worked out by hand from the rules named) -/

/-- Running the instruction gives a next state that satisfies `p`. -/
def gives (i : Instr) (s : State) (p : State → Bool) : Bool := match exec i s with | .next t => p t | _ => false
/-- It leaves `v` in scalar `d`. -/
def leaves (i : Instr) (d : Nat) (v : Word) (s : State) : Bool := gives i s fun t => t.me.r.s.get d == v
/-- It leaves `x` in element `k` of vector `d` under the shape of the state. -/
def element (i : Instr) (d : VReg) (k x : Nat) (s : State) : Bool := gives i s fun t => t.elem d k == x
/-- The core reports the trap. -/
def stops (i : Instr) (c : Cause) (v : Word) (s : State) : Bool := gives i s fun t => t.me.report == some (c, v)

/-- 05 R121 on s1 = 7, s2 = -3, s3 = 5: wraps, shift counts modulo 64, signed and unsigned order, SEL. -/
theorem test_integer_group :
    leaves (.add 9 10 1) 9 6 (reg 10 (-1) wS) = true ∧
    leaves (.sub 9 3 5) 9 (-3) wS = true ∧
    leaves (.andn 9 1 3) 9 2 wS = true ∧
    leaves (.shl 9 6 10) 9 2 (reg 10 65 wS) = true ∧
    leaves (.shr 9 2 10) 9 1 (reg 10 63 wS) = true ∧
    leaves (.sra 9 2 10) 9 (-1) (reg 10 63 wS) = true ∧
    leaves (.slt 9 2 3) 9 1 wS = true ∧
    leaves (.sltu 9 2 3) 9 0 wS = true ∧
    leaves (.min_ 9 2 3) 9 (-3) wS = true ∧
    leaves (.maxu 9 2 3) 9 (-3) wS = true ∧
    leaves (.sel 9 1 3) 9 5 wS = true ∧
    leaves (.sel 1 2 3) 1 (-3) wS = true := by decide +kernel

/-- 05 R122: the high halves of -3 x 5, the fixed results of a zero divisor and of the overflow, truncation, and the counts. -/
theorem test_multiply_divide :
    leaves (.mul 9 2 3) 9 (-15) wS = true ∧
    leaves (.mulh 9 2 3) 9 (-1) wS = true ∧
    leaves (.mulhu 9 2 3) 9 4 wS = true ∧
    leaves (.div 9 1 0) 9 (-1) wS = true ∧
    leaves (.div 9 10 11) 9 (1 <<< 63) (reg 10 (1 <<< 63) (reg 11 (-1) wS)) = true ∧
    leaves (.rem 9 10 11) 9 0 (reg 10 (1 <<< 63) (reg 11 (-1) wS)) = true ∧
    leaves (.div 9 10 3) 9 (-1) (reg 10 (-7) wS) = true ∧
    leaves (.rem 9 10 3) 9 (-2) (reg 10 (-7) wS) = true ∧
    leaves (.remu 9 1 0) 9 7 wS = true ∧
    leaves (.clz 9 1) 9 61 wS = true ∧
    leaves (.ctz 9 0) 9 64 wS = true ∧
    leaves (.popc 9 2) 9 63 wS = true := by decide +kernel

/-- 05 R123, R124, 04 R101: the sign-extended and the zero-extended immediate, and LIS at k = 1. -/
theorem test_immediates :
    leaves (.addi 9 1 0x7FF) 9 6 wS = true ∧
    leaves (.andi 9 2 0x7FF) 9 0x7FD wS = true ∧
    leaves (.slti 9 2 0x7FF) 9 1 wS = true ∧
    leaves (.srai 9 2 1) 9 (-2) wS = true ∧
    leaves (.lis 7 1 0xBEEF) 7 0x12345678BEEF0000 wS = true := by decide +kernel

/-- 02 R45: a result for s0 is discarded, and the word goes on. -/
theorem test_scalar_zero :
    gives (.add 0 1 3) wS fun t => t.rdS 0 == 0 && (t.lane .s).pc == 11 = true := by decide +kernel

/-- 05 R129-R131 at word 10: a taken signed branch, the same operands unsigned, a loop that goes round, and a link. -/
theorem test_branches :
    gives (.blt 2 3 0x7FC) wS fun t => (t.lane .s).pc == 6 = true ∧
    gives (.bltu 2 3 0x7FC) wS fun t => (t.lane .s).pc == 11 = true ∧
    gives (.loop 1 0x7FE) wS fun t => (t.lane .s).pc == 8 && t.me.r.s.get 1 == 6 = true ∧
    gives (.jal 9 5) wS fun t => (t.lane .s).pc == 15 && t.me.r.s.get 9 == 11 = true ∧
    stops (.beq 0 0 60) .illegalOp 70 wS = true := by decide +kernel

/-- 05 R141: the signs of the bytes 80 FF at s4 + 3, and the scaled index of LDX. -/
theorem test_loads :
    leaves (.ldB 9 4 3) 9 (-128) (pool 0x10043 [0x80, 0xFF] wS) = true ∧
    leaves (.ldBu 9 4 3) 9 128 (pool 0x10043 [0x80, 0xFF] wS) = true ∧
    leaves (.ldH 9 4 4) 9 0xFF (pool 0x10043 [0x80, 0xFF] wS) = true ∧
    leaves (.ldx .w 2 9 4 6) 9 (-1) (pool 0x10044 [0xFF, 0xFF, 0xFF, 0xFF] wS) = true ∧
    leaves (.ldx .wu 2 9 4 6) 9 0xFFFFFFFF (pool 0x10044 [0xFF, 0xFF, 0xFF, 0xFF] wS) = true := by decide +kernel

/-- 05 R141: the low bytes, least significant first, and the bytes beside them. -/
theorem test_stores :
    gives (.stH 4 7 2) wS fun t => memGet t.mem (keyPool 0 0x10042) == 0xEF && memGet t.mem (keyPool 0 0x10043) == 0xCD && memGet t.mem (keyPool 0 0x10044) == 0 = true ∧
    gives (.stx .d 3 7 4 6) wS fun t => memGet t.mem (keyPool 0 0x10048) == 0xEF && memGet t.mem (keyPool 0 0x1004F) == 0x12 = true := by decide +kernel

/-- 05 R140: a misaligned access stops the task with its address. -/
theorem test_misaligned :
    stops (.ldW 9 4 2) .misalign 0xFF00000000010042 wS = true ∧
    stops (.stD 4 1 4) .misalign 0xFF00000000010044 wS = true := by decide +kernel

/-- 06 R149: the old value, and what each form stores. -/
theorem test_atomics :
    gives (.atomW .add .sc 9 4 3) (pool 0x10040 [9] wS) fun t => t.me.r.s.get 9 == 9 && memGet t.mem (keyPool 0 0x10040) == 14 = true ∧
    gives (.atomW .min .plain 9 4 2) (pool 0x10040 [9] wS) fun t => memGet t.mem (keyPool 0 0x10040) == 0xFD = true ∧
    gives (.atomW .minu .plain 9 4 2) (pool 0x10040 [9] wS) fun t => memGet t.mem (keyPool 0 0x10040) == 9 = true ∧
    gives (.casD .acq .acq 1 4 3) (pool 0x10040 [7] wS) fun t => t.me.r.s.get 1 == 7 && memGet t.mem (keyPool 0 0x10040) == 5 = true ∧
    gives (.casD .acq .acq 3 4 1) (pool 0x10040 [7] wS) fun t => t.me.r.s.get 3 == 7 && memGet t.mem (keyPool 0 0x10040) == 7 = true := by decide +kernel

/-- 06 R157-R160: a count, a byte-mode addition that fires and keeps the excess, and one that saturates. -/
theorem test_signals :
    decide (({ value := 0xFFFFFFFF } : Signal).add 2 = { value := 1 }) = true ∧
    decide (({ byteMode := true, armed := true, expect := 10, value := 7 } : Signal).add 5 = { byteMode := true, expect := 10, value := 2, ovr := true, overcnt := 1 }) = true ∧
    decide (({ byteMode := true, value := 0xFFFFFFFE } : Signal).add 9 = { byteMode := true, value := 0xFFFFFFFF }) = true ∧
    stops (.sigadd 1 10) .aperture ((1 <<< 47) + (0x90 <<< 32)) (reg 10 ((1 <<< 47) + (0x90 <<< 32)) wS) = true := by decide +kernel

/-- 04 R108, 06 R180: what a task may not do. -/
theorem test_privilege :
    stops (.lvwrite 1 1) .privilege 0x0B200801 wS = true ∧
    stops .eret .privilege 0x0C400000 wS = true ∧
    gives (.lvwrite 1 1) wP fun t => t.me.r.lv.get 1 == 7 = true := by decide +kernel

/-- 19 R399, R401, 06 R179: TRAP at word 10 under a handler at word 0x20. -/
theorem test_trap_entry :
    gives (.trap 5) wTvec fun t => (t.lane .s).pc == 0x20 && t.me.ctl.pl && !t.me.ctl.ppl && t.me.ctl.tval == 5 && t.me.ctl.causeCode.toNat == Cause.trapSw.code && t.me.ctl.epc.get 0 == 11 = true := by decide +kernel

/-- 06 R183: XDSET sets BASE, LEN = n x 32 and clears the rest. -/
theorem test_descriptors :
    gives (.xdset 6 4 3) wS fun t => (t.me.r.xd.get 6).base == 0xFF00000000010040 && (t.me.r.xd.get 6).len == 96 && (t.me.r.xd.get 6).cur == 0 = true := by decide +kernel

/-- 07 R188, R189, 03: 1.5 + 2.25, 1.5 x -2, 3 x 3 + 1 in one rounding, the lesser of 1 and -0, and the sign. -/
theorem test_vector_floats :
    element (.vadd 9 57 58 0) 9 0 0x40700000 (vec 58 (setElems 4 0 [(0, 0x40100000)]) (vec 57 (setElems 4 0 [(0, 0x3FC00000)]) wV)) = true ∧
    element (.vmul 9 57 58 0) 9 0 0xC0400000 (vec 58 (setElems 4 0 [(0, 0xC0000000)]) (vec 57 (setElems 4 0 [(0, 0x3FC00000)]) wV)) = true ∧
    element (.vfma 58 57 57 0) 58 0 0x41200000 (vec 58 (setElems 4 0 [(0, 0x3F800000)]) (vec 57 (setElems 4 0 [(0, 0x40400000)]) wV)) = true ∧
    element (.vmin 9 57 58 0) 9 0 0x80000000 (vec 58 (setElems 4 0 [(0, 0x80000000)]) (vec 57 (setElems 4 0 [(0, 0x3F800000)]) wV)) = true ∧
    element (.vneg 9 57 0) 9 0 0xBFC00000 (vec 58 (setElems 4 0 [(0, 0)]) (vec 57 (setElems 4 0 [(0, 0x3FC00000)]) wV)) = true ∧
    element (.vdiv 9 57 58 0) 9 0 0x3EAAAAAB (vec 58 (setElems 4 0 [(0, 0x40400000)]) (vec 57 (setElems 4 0 [(0, 0x3F800000)]) wV)) = true := by decide +kernel

/-- 07 R190: exact points of the functions. -/
theorem test_vector_functions :
    element (.vexp2 9 57 0) 9 0 0x41000000 (vec 58 (setElems 4 0 [(0, 0)]) (vec 57 (setElems 4 0 [(0, 0x40400000)]) wV)) = true ∧
    element (.vlog2 9 57 0) 9 0 0x40400000 (vec 58 (setElems 4 0 [(0, 0)]) (vec 57 (setElems 4 0 [(0, 0x41000000)]) wV)) = true ∧
    element (.vsqrt 9 57 0) 9 0 0x40400000 (vec 58 (setElems 4 0 [(0, 0)]) (vec 57 (setElems 4 0 [(0, 0x41100000)]) wV)) = true ∧
    element (.vrcp 9 57 0) 9 0 0x3E800000 (vec 58 (setElems 4 0 [(0, 0)]) (vec 57 (setElems 4 0 [(0, 0x40800000)]) wV)) = true ∧
    element (.vsinpi 9 57 0) 9 0 0x3F800000 (vec 58 (setElems 4 0 [(0, 0)]) (vec 57 (setElems 4 0 [(0, 0x3F000000)]) wV)) = true ∧
    element (.vcospi 9 57 0) 9 0 0xBF800000 (vec 58 (setElems 4 0 [(0, 0)]) (vec 57 (setElems 4 0 [(0, 0x3F800000)]) wV)) = true := by decide +kernel

/-- 07 R191: 32-bit and 8-bit wraps, the arithmetic shift, counts modulo the width. -/
theorem test_vector_integers :
    element (.viadd 9 57 58 0) 9 0 1 (typed .i32 (vec 58 (setElems 4 0 [(0, 2)]) (vec 57 (setElems 4 0 [(0, 0xFFFFFFFF)]) wV))) = true ∧
    element (.viadd 9 57 58 0) 9 0 0x01 (typed .i8 (vec 58 (setElems 4 0 [(0, 2)]) (vec 57 (setElems 4 0 [(0, 0xFF)]) wV))) = true ∧
    element (.vimul 9 57 58 0) 9 0 0xFFFFFFFA (typed .i32 (vec 58 (setElems 4 0 [(0, 3)]) (vec 57 (setElems 4 0 [(0, 0xFFFFFFFE)]) wV))) = true ∧
    element (.vsra 9 57 58 0) 9 0 0xFFFFFFFF (typed .i32 (vec 58 (setElems 4 0 [(0, 34)]) (vec 57 (setElems 4 0 [(0, 0xFFFFFFFC)]) wV))) = true ∧
    element (.vshr 9 57 58 0) 9 0 0x3FFFFFFF (typed .i32 (vec 58 (setElems 4 0 [(0, 34)]) (vec 57 (setElems 4 0 [(0, 0xFFFFFFFC)]) wV))) = true := by decide +kernel

/-- 07 R192, R193: the predicate of a signed and an unsigned order, and a population count. -/
theorem test_vector_compare :
    gives (.vcmp .lt 7 57 58 0) (typed .i32 (vec 58 (setElems 4 0 [(0, 3)]) (vec 57 (setElems 4 0 [(0, 0xFFFFFFFE)]) wV))) fun t => (t.rdP 7).getLsbD 0 = true ∧
    gives (.vcmpU .ltu 7 57 58 0) (typed .i32 (vec 58 (setElems 4 0 [(0, 3)]) (vec 57 (setElems 4 0 [(0, 0xFFFFFFFE)]) wV))) fun t => !(t.rdP 7).getLsbD 0 = true ∧
    leaves (.pcount 9 1) 9 4 wV = true := by decide +kernel

/-- 07 R184: an element whose guard is clear keeps its old value. -/
theorem test_vector_guard :
    element (.vadd 9 57 58 1) 9 1 0x12345678 (vec 9 (setElems 4 0 [(1, 0x12345678)]) wV) = true := by decide +kernel

/-- The form of memory: a byte written as what an unlisted address reads as leaves no entry; the list rises. -/
theorem test_memory_canonical :
    decide (memWrite (memWrite [] 5 [7]) 5 [0] = []) = true ∧
    decide (memWrite (memWrite [] 9 [1]) 5 [2] = [(5, 2), (9, 1)]) = true ∧
    Memory.wf (memWrite (memWrite [] 9 [1, 0, 3]) 10 [4, 0]) = true := by decide +kernel

/-- The memory of the reset state has the canonical form. -/
theorem test_reset_canonical :
    Memory.wf State.reset.mem = true := by decide +kernel

/-- The step after a placed word runs it: `ADD s3, s1, s2` (word 0x00030880) and `VSETSHAPE` as table words. -/
theorem test_fetch_and_step :
    decide (decodeTableWord 32 0x00030880 = some (.add 3 1 2)) = true ∧
    decide (decodeTableWord 64 0x0000000150040000 = some (.malloc 0 2)) = true ∧
    (match step (State.reset.withFetchWord 32 0x01011803) with | .next t => t.me.r.s.get 1 == 3 | _ => false) = true := by decide +kernel

end Sys2Proof.Tests
end

section
/-! SUPPORT. Family 00, the memory: what was written is what is read (O57). -/

namespace Sys2Proof.Machine
open Sys2Proof

/-- Settles O57, from the laws of the byte map: what a read finds after a write, what a write and a clear leave alone, and
extensionality of the canonical form. -/
theorem memoryReadsWhatWasWritten : Obligations.MemoryReadsWhatWasWritten := by
  refine ⟨fun m a bs => ⟨memRead_memWrite m a bs, fun i hi => ?_, fun k hk => ?_, fun hm => memWrite_wf hm a bs⟩,
    fun m a n k => ⟨memGet_memClear m a n k, fun hm => memClear_wf hm a n⟩, fun m n hm hn h => memory_ext hm hn h⟩
  · rw [memGet_memWrite, if_pos (by omega)]
    simp [hi]
  · rw [memGet_memWrite, if_neg (by omega)]

end Sys2Proof.Machine
end

section
/-!
SUPPORT. Family 00: every step keeps the canonical form of memory (O58).

Memory changes through `State.poke`, `State.zero` and the flush of an event ring, and a package reset starts it anew. Every other
function of the model is put together from these and from functions that leave memory alone. So there is one lemma for each function, in
the model's order: from a canonical state it makes canonical states only. A word that traps or waits carries a state as well, so a
failure counts like a result.
-/

namespace Sys2Proof.Machine

open Sys2Proof

/-! ### What it means for a result -/

/-- The state that a halt carries, if any, is canonical. -/
def Halt.Canonical : Halt → Prop
  | .trapIn _ _ s | .holdIn s | .wait s => s.Canonical
  | .trap _ _ | .hold | .unreached _ _ => True

/-- A result satisfies `P`, a failure `E`. -/
def Kept {ε α : Type} (E : ε → Prop) (P : α → Prop) : Except ε α → Prop
  | .ok a => P a
  | .error e => E e

/-- Nothing is asked: the result, or the failure, holds no state. -/
abbrev Free {α : Type} (_ : α) : Prop := True

/-- The state of a result with a value, and of one with two, is canonical. -/
abbrev SndCanonical {α : Type} (r : α × State) : Prop := r.2.Canonical

@[inherit_doc SndCanonical]
abbrev ThdCanonical {α β : Type} (r : α × β × State) : Prop := r.2.2.Canonical

/-- The next state, where there is one, is canonical. -/
def NextCanonical : Out → Prop
  | .next t => t.Canonical
  | .fault _ | .refused _ => True

/-- A meaning keeps the canonical form. -/
def Keeps (f : State → Out) : Prop := ∀ {s : State}, s.Canonical → NextCanonical (f s)

/-- The meaning of every instruction does. -/
def RunCanonical (run : Run) : Prop := ∀ i, Keeps (run i)

/-! ### Rules -/

/-- No field but `mem` matters. -/
theorem canonical_mk (a b c d e f g mem h i j k l m n o p q r t u) :
    State.Canonical ⟨a, b, c, d, e, f, g, mem, h, i, j, k, l, m, n, o, p, q, r, t, u⟩ ↔ Memory.wf mem = true := Iff.rfl

theorem wf_mem (s : State) : Memory.wf s.mem = true ↔ s.Canonical := Iff.rfl

theorem bind_eq {ε α β : Type} (x : Except ε α) (f : α → Except ε β) :
    (x >>= f) = match x with | .ok a => f a | .error e => .error e := by cases x <;> rfl

theorem kept_free {ε α : Type} (x : Except ε α) : Kept Free Free x := by cases x <;> trivial

theorem kept_ok {ε α : Type} {E : ε → Prop} {P : α → Prop} {a : α} (h : P a) : Kept E P (.ok a) := h

section
variable {ε α β : Type} {E : ε → Prop} {P : α → Prop} {Q : β → Prop}

theorem Kept.of_eq_ok {x : Except ε α} {a : α} (h : x = .ok a) (hx : Kept E P x) : P a := by
  subst h
  exact hx

theorem Kept.bind {x : Except ε α} {f : α → Except ε β} (hx : Kept E P x) (hf : ∀ a, P a → Kept E Q (f a)) : Kept E Q (x >>= f) := by
  cases x with
  | ok a => exact hf a hx
  | error e => exact hx

theorem Kept.map {x : Except ε α} {f : α → β} (hx : Kept E P x) (hf : ∀ a, P a → Q (f a)) : Kept E Q (x.map f) := by
  cases x with
  | ok a => exact hf a hx
  | error e => exact hx

theorem foldlM_kept {g : α → β → Except ε α} (hg : ∀ a b, P a → Kept E P (g a b)) (l : List β) :
    ∀ {a : α}, P a → Kept E P (l.foldlM g a) := by
  induction l with
  | nil => exact fun h => h
  | cons b l ih => exact fun h => (hg _ b h).bind fun _ h => ih h

theorem foldl_canonical {g : State → α → State} (hg : ∀ s a, s.Canonical → (g s a).Canonical) (l : List α) {s : State}
    (h : s.Canonical) : (l.foldl g s).Canonical :=
  List.foldlRecOn l g h fun s h a _ => hg s a h

theorem foldl_snd {g : β × State → α → β × State} (hg : ∀ r a, r.2.Canonical → (g r a).2.Canonical) (l : List α) {r : β × State}
    (h : r.2.Canonical) : (l.foldl g r).2.Canonical :=
  List.foldlRecOn (motive := SndCanonical) l g h fun r h a _ => hg r a h
end

end Sys2Proof.Machine
end

section
/-! SUPPORT. The canonical form of memory, operations on the state, system registers, blocks, order and access. -/

namespace Sys2Proof.Machine

open Sys2Proof

/-! ### Machine/Ops -/

theorem zero_canonical {s : State} (h : s.Canonical) (key n : Nat) : (s.zero key n).Canonical := memClear_wf h key n

theorem poke_canonical {s : State} (h : s.Canonical) (a : Nat) (bs : List Byte) : (s.poke a bs).Canonical := memWrite_wf h a bs

theorem setCore_canonical {s : State} (h : s.Canonical) (c : CoreId) (x : Core) : (s.setCore c x).Canonical := h

theorem updCore_canonical {s : State} (h : s.Canonical) (c : CoreId) (f : Core → Core) : (s.updCore c f).Canonical := h

theorem updMe_canonical {s : State} (h : s.Canonical) (f : Core → Core) : (s.updMe f).Canonical := h

theorem updCtl_canonical {s : State} (h : s.Canonical) (f : Ctl → Ctl) : (s.updCtl f).Canonical := h

theorem updR_canonical {s : State} (h : s.Canonical) (f : Regs → Regs) : (s.updR f).Canonical := h

theorem updCluster_canonical {s : State} (h : s.Canonical) (n : Nat) (f : Cluster → Cluster) : (s.updCluster n f).Canonical := h

theorem updMyCluster_canonical {s : State} (h : s.Canonical) (f : Cluster → Cluster) : (s.updMyCluster f).Canonical := h

theorem updDie_canonical {s : State} (h : s.Canonical) (d : Nat) (f : Die → Die) : (s.updDie d f).Canonical := h

theorem updPkg_canonical {s : State} (h : s.Canonical) (f : Package → Package) : (s.updPkg f).Canonical := h

theorem take_canonical {s : State} (h : s.Canonical) : s.take.2.Canonical := h

theorem openLat_canonical {s : State} (h : s.Canonical) : s.openLat.2.Canonical := by
  unfold State.openLat
  split <;> exact h

theorem setReady_canonical {s : State} (h : s.Canonical) (k lat : Nat) : (s.setReady k lat).Canonical := h

theorem wrS_canonical {s : State} (h : s.Canonical) (n : SReg) (v : Word) (lat : Nat) : (s.wrS n v lat).Canonical := by
  unfold State.wrS
  split <;> exact h

theorem notReady_canonical (s : State) : s.notReady.Canonical := by
  grind [State.notReady, Halt.Canonical]

theorem needKeys_canonical (ks : List Nat) (s : State) : Kept Halt.Canonical Free (needKeys ks s) := by
  unfold needKeys
  split
  · exact True.intro
  · exact notReady_canonical _

theorem needThat_canonical (cond : Bool) (s : State) : Kept Halt.Canonical Free (needThat cond s) := by
  unfold needThat
  split
  · exact True.intro
  · exact notReady_canonical _

theorem check_canonical (cond : Bool) (c : Cause) (tval : Word) : Kept Halt.Canonical Free (check cond c tval) := by
  unfold check
  split <;> exact True.intro

theorem updLane_canonical {s : State} (h : s.Canonical) (l : Lane) (f : LaneSt → LaneSt) : (s.updLane l f).Canonical := h

theorem setProg_canonical {s : State} (h : s.Canonical) (l : Lane) (p : Prog) : (s.setProg l p).Canonical := h

theorem delay_canonical {s : State} (h : s.Canonical) (l : Lane) (n : Nat) : (s.delay l n).Canonical := h

theorem retire_canonical {s : State} (h : s.Canonical) (l : Lane) : (s.retire l).Canonical := h

theorem holdLane_canonical {s : State} (h : s.Canonical) (l : Lane) : (s.holdLane l).Canonical := h

theorem waitLane_canonical {s : State} (h : s.Canonical) (l : Lane) : (s.waitLane l).Canonical := h

theorem jumpTo_canonical (l : Lane) (t : BitVec 32) {s : State} (h : s.Canonical) :
    Kept Halt.Canonical State.Canonical (jumpTo l t s) := by
  unfold jumpTo
  split
  · exact h
  · exact True.intro

theorem dropClaims_canonical {s : State} (h : s.Canonical) (c : CoreId) : (s.dropClaims c).Canonical := h

theorem takeTrap_canonical {s : State} (h : s.Canonical) (l : Lane) (cause : Cause) (tval : Word) :
    (s.takeTrap l cause tval).Canonical := by
  grind [State.takeTrap, updMe_canonical, updMyCluster_canonical, dropClaims_canonical]

theorem raise_canonical {s : State} (h : s.Canonical) (l : Lane) (cause : Cause) (tval : Word) :
    (s.raise l cause tval).Canonical := by
  unfold State.raise
  split
  · exact takeTrap_canonical h ..
  · exact h

theorem spend_canonical {s : State} (h : s.Canonical) (c : CoreId) (n : Nat) : (s.spend c n).Canonical := h

theorem mayIssue_canonical (l : Lane) (keys : List Nat) {s : State} (h : s.Canonical) :
    Kept Halt.Canonical Free (mayIssue l keys s) := by
  unfold mayIssue
  split
  · exact True.intro
  · refine (needKeys_canonical _ _).bind fun _ _ => ?_
    split
    · exact h
    · exact True.intro

theorem notePoint_canonical {s : State} (h : s.Canonical) (l : Lane) : (s.notePoint l).Canonical := by
  unfold State.notePoint
  split
  · split <;> exact h
  · exact h

theorem starts_canonical {s : State} (h : s.Canonical) (l : Lane) : (s.starts l).Canonical := notePoint_canonical h ..

theorem keepPoint_canonical {t : State} (h : t.Canonical) (s : State) (c : Cause) : (t.keepPoint s c).Canonical := by
  unfold State.keepPoint
  split <;> exact h

theorem answer_canonical {s : State} (h : s.Canonical) (l : Lane) {x : Except Halt State}
    (hx : Kept Halt.Canonical State.Canonical x) : NextCanonical (answer l s x) := by
  unfold answer
  split <;> grind [Kept, Halt.Canonical, NextCanonical, retire_canonical, raise_canonical, keepPoint_canonical, updMe_canonical,
    holdLane_canonical, waitLane_canonical]

theorem word_canonical {s : State} (h : s.Canonical) {l : Lane} {keys : List Nat} {eff : Eff}
    (he : ∀ t : State, t.Canonical → Kept Halt.Canonical State.Canonical (eff t)) : NextCanonical (word l keys eff s) :=
  answer_canonical h l <| (mayIssue_canonical l keys h).bind fun _ _ => (he _ (starts_canonical h l)).map fun _ h => retire_canonical h l

theorem wordK_canonical {s : State} (h : s.Canonical) {l : Lane} {keys : State → List Nat} {eff : Eff}
    (he : ∀ t : State, t.Canonical → Kept Halt.Canonical State.Canonical (eff t)) : NextCanonical (wordK l keys eff s) :=
  word_canonical h he

theorem event_canonical {s : State} (h : s.Canonical) {f : State → State} (hf : ∀ t : State, t.Canonical → (f t).Canonical) :
    NextCanonical (event f s) :=
  hf s h

theorem pendSig_canonical {s : State} (h : s.Canonical) (src : Nat) (c : CoreId) (g n : Nat) : (s.pendSig src c g n).Canonical := h

theorem pendDone_canonical {s : State} (h : s.Canonical) (src : Nat) (c : CoreId) (g n : Nat) :
    (s.pendDone src c g n).Canonical := by
  unfold State.pendDone
  split
  · split <;> exact h
  · split <;> exact h

theorem postRecord_canonical {s : State} (h : s.Canonical) (die src : Nat) (cause : Cause) (core ctx desc : Nat) (resolvable : Bool)
    (addr : Word) (offset : Nat) :
    (s.postRecord die src cause core ctx desc resolvable addr offset).2.Canonical := h

theorem recordsRead_canonical {s : State} (h : s.Canonical) (die n : Nat) : (s.recordsRead die n).Canonical := h

/-! ### Machine/SysRegs -/

theorem sysWrite_canonical {s : State} (h : s.Canonical) (n : Nat) (v : Word) : Kept Free State.Canonical (sysWrite s n v) := by
  unfold sysWrite
  split <;> grind [Kept, updR_canonical, updCtl_canonical]

theorem sysPath_canonical {s : State} (h : s.Canonical) (c : CoreId) (n : Nat) (v : Word) : (s.sysPath c n v).Canonical := by
  grind [State.sysPath, Kept, canonical_mk, wf_mem, sysWrite_canonical, updCore_canonical]

/-! ### Machine/Blocks -/

theorem flushEvents_wf (n : Nat) (v : Vf) {m : Memory} (h : Memory.wf m = true) (t : Nat) :
    Memory.wf (flushEvents n v m t).2 = true := by
  induction n generalizing v m with
  | zero => exact h
  | succ n ih => grind [flushEvents, memWrite_wf]

theorem flush_canonical {s : State} (h : s.Canonical) (v : Nat) : (s.flush v).Canonical :=
  flushEvents_wf _ _ h _

theorem complete_canonical {s : State} (h : s.Canonical) (v src status cause : Nat) (tag : BitVec 8) (count step : Nat) (cookie : Word) :
    (s.complete v src status cause tag count step cookie).Canonical := by
  grind [State.complete, canonical_mk, wf_mem, flush_canonical]

theorem writeEvhead_canonical {s : State} (h : s.Canonical) (v : Nat) (x : BitVec 32) : (s.writeEvhead v x).Canonical := by
  grind [State.writeEvhead, canonical_mk, wf_mem, flush_canonical]

theorem lqPost_canonical {s : State} (h : s.Canonical) (v d : Nat) : (s.lqPost v d).Canonical := by
  unfold State.lqPost
  split <;> exact h

theorem gateIdle_canonical {s : State} (h : s.Canonical) (c : CoreId) : (s.gateIdle c).Canonical := by
  unfold State.gateIdle
  dsimp only
  split <;> exact h

theorem wakeEngine_canonical {s : State} (h : s.Canonical) (c : CoreId) : (s.wakeEngine c).Canonical := h

theorem writePwrcfg_canonical {s : State} (h : s.Canonical) (v : Word) : (s.writePwrcfg v).Canonical := by
  unfold State.writePwrcfg
  grind [foldl_canonical, gateIdle_canonical, wakeEngine_canonical, updPkg_canonical]

theorem clearFabric_canonical {s : State} (h : s.Canonical) : s.clearFabric.Canonical := h

theorem clearReuse_canonical {s : State} (h : s.Canonical) (d : Nat) : (s.clearReuse d).Canonical := h

theorem blockPut_canonical {s : State} (h : s.Canonical) (b : RegBlock) (o : Nat) (v mask : Word) :
    (blockPut s b o v mask).Canonical := by
  unfold blockPut
  cases b <;> grind [canonical_mk, wf_mem, updPkg_canonical, clearFabric_canonical, writePwrcfg_canonical, updCluster_canonical,
    clearReuse_canonical, sysPath_canonical, lqPost_canonical, flush_canonical, writeEvhead_canonical]

theorem blockWrite_canonical {s : State} (h : s.Canonical) (b : RegBlock) (o : Nat) (bs : List Byte) :
    (blockWrite s b o bs).Canonical := blockPut_canonical h ..

/-! ### Machine/Order -/

theorem pokeMask_canonical {s : State} (h : s.Canonical) (n : Nat) (bs : List Byte) (m : List Bool) :
    (s.pokeMask n bs m).Canonical := by
  refine foldl_canonical (fun s i h => ?_) _ h
  dsimp only
  split
  · exact poke_canonical h ..
  · refine foldl_canonical (fun s i h => ?_) _ h
    split
    · exact poke_canonical h ..
    · exact h

theorem setL2_canonical {s : State} (h : s.Canonical) (cl n : Nat) (l : Option L2Line) : (s.setL2 cl n l).Canonical := h

theorem setL1_canonical {s : State} (h : s.Canonical) (c : CoreId) (n : Nat) (l : Option L1Line) : (s.setL1 c n l).Canonical := h

theorem homeWrite_canonical {s : State} (h : s.Canonical) (n : Nat) (bs : List Byte) (m : List Bool) (from_ : Option (Nat × List Nat)) :
    (s.homeWrite n bs m from_).Canonical := by
  grind [State.homeWrite, canonical_mk, wf_mem, take_canonical, pokeMask_canonical]

theorem recall_canonical {s : State} (h : s.Canonical) (n : Nat) : (s.recall n).Canonical := by
  grind [State.recall, canonical_mk, wf_mem, homeWrite_canonical, setL1_canonical, updCore_canonical]

theorem writeBack_canonical {s : State} (h : s.Canonical) (cl n : Nat) : (s.writeBack cl n).Canonical := by
  grind [State.writeBack, canonical_mk, wf_mem, homeWrite_canonical, setL2_canonical]

theorem l2Evict_canonical {s : State} (h : s.Canonical) (cl n : Nat) : (s.l2Evict cl n).Canonical := writeBack_canonical h ..

theorem l2Room_canonical {s : State} (h : s.Canonical) (cl n w : Nat) : (s.l2Room cl n w).Canonical :=
  foldl_canonical (fun _ _ h => l2Evict_canonical h ..) _ h

theorem cleanL2_canonical {s : State} (h : s.Canonical) (cl : Nat) (ws : List Nat) : (s.cleanL2 cl ws).Canonical := by
  refine foldl_canonical (fun s i h => ?_) _ h
  grind [l2Evict_canonical]

theorem l2Fetch_canonical {s : State} (h : s.Canonical) (cl n : Nat) : (s.l2Fetch cl n).2.Canonical := by
  grind [State.l2Fetch, l2Room_canonical, setL2_canonical]

theorem writeDown_canonical {s : State} (h : s.Canonical) (c : CoreId) (n : Nat) (bs : List Byte) (m : List Bool) :
    (s.writeDown c n bs m).2.Canonical := by
  unfold State.writeDown
  split
  · exact l2Fetch_canonical h ..
  · exact homeWrite_canonical h ..

theorem drainLine_canonical {s : State} (h : s.Canonical) (c : CoreId) (n : Nat) : (s.drainLine c n).Canonical := by
  grind [State.drainLine, updCore_canonical, writeDown_canonical, setL1_canonical]

theorem evict_canonical {s : State} (h : s.Canonical) (c : CoreId) (n : Nat) : (s.evict c n).Canonical := drainLine_canonical h ..

theorem makeRoom_canonical {s : State} (h : s.Canonical) (c : CoreId) (n : Nat) : (s.makeRoom c n).Canonical := by
  grind [State.makeRoom, recall_canonical, evict_canonical]

theorem fetch_canonical {s : State} (h : s.Canonical) (c : CoreId) (n : Nat) : (s.fetch c n).2.Canonical := by
  grind [State.fetch, makeRoom_canonical, recall_canonical, l2Fetch_canonical, setL1_canonical]

theorem excl_canonical {s : State} (h : s.Canonical) (c : CoreId) (n : Nat) : (s.excl c n).Canonical := by
  grind [State.excl, canonical_mk, wf_mem, recall_canonical, setL1_canonical, fetch_canonical]

theorem readCached_canonical {s : State} (h : s.Canonical) (c : CoreId) (key n : Nat) : (s.readCached c key n).2.Canonical := by
  grind [State.readCached, recall_canonical, l2Fetch_canonical, fetch_canonical]

theorem writeCached_canonical {s : State} (h : s.Canonical) (c : CoreId) (key : Nat) (bs : List Byte) :
    (s.writeCached c key bs).Canonical := by
  grind [State.writeCached, recall_canonical, updCore_canonical, writeDown_canonical, fetch_canonical, setL1_canonical]

theorem readHome_canonical {s : State} (h : s.Canonical) (c : CoreId) (key n : Nat) : (s.readHome c key n).2.Canonical := by
  grind [State.readHome, writeBack_canonical, evict_canonical, recall_canonical]

theorem writeHome_canonical {s : State} (h : s.Canonical) (c : CoreId) (key : Nat) (bs : List Byte) :
    (s.writeHome c key bs).Canonical := by
  grind [State.writeHome, recall_canonical, homeWrite_canonical, setL2_canonical, setL1_canonical]

theorem engRead_canonical {s : State} (h : s.Canonical) (cl key n : Nat) : (s.engRead cl key n).2.Canonical := by
  unfold State.engRead
  dsimp only
  split <;> exact recall_canonical h ..

theorem engWrite_canonical {s : State} (h : s.Canonical) (cl key : Nat) (bs : List Byte) : (s.engWrite cl key bs).Canonical := by
  grind [State.engWrite, recall_canonical, setL2_canonical, homeWrite_canonical]

theorem closeRegs_canonical {s : State} (h : s.Canonical) (c : CoreId) (sc : Scope) : (s.closeRegs c sc).Canonical := by
  cases sc <;> exact h

theorem drainAll_canonical {s : State} (h : s.Canonical) (c : CoreId) (sc : Scope) : (s.drainAll c sc).Canonical := by
  unfold State.drainAll
  grind [foldl_canonical, drainLine_canonical, writeBack_canonical, updCore_canonical]

theorem newRegion_canonical {s : State} (h : s.Canonical) : s.newRegion.Canonical := h

theorem insertMark_canonical {s : State} (h : s.Canonical) (l : Lane) (sc : Scope) (hold : Option Nat) :
    Kept Halt.Canonical State.Canonical (s.insertMark l sc hold) := h

theorem release_canonical (l : Lane) (sc : Scope) (acq : Bool) {s : State} (h : s.Canonical) :
    Kept Halt.Canonical State.Canonical (release l sc acq s) := by
  unfold release
  split
  · exact h
  · split <;> grind [Kept, Halt.Canonical, updMe_canonical, setProg_canonical, drainAll_canonical, closeRegs_canonical,
      newRegion_canonical, insertMark_canonical]

theorem invalidate_canonical {s : State} (h : s.Canonical) (c : CoreId) (sc : Scope) : (s.invalidate c sc).Canonical := by
  unfold State.invalidate
  grind [foldl_canonical, evict_canonical]

theorem acquire_canonical (sc : Scope) {s : State} (h : s.Canonical) : (acquire sc s).Canonical := invalidate_canonical h ..

theorem register_canonical (c : CoreId) (va : Word) (key : Nat) (rd wr global : Bool) {s : State} (h : s.Canonical) :
    Kept Halt.Canonical State.Canonical (register c va key rd wr global s) := by
  unfold register
  dsimp only
  split
  · split
    · exact h
    · split
      · exact True.intro
      · exact h
  · split
    · exact h
    · split
      · exact True.intro
      · exact h

/-! ### Machine/Access -/

theorem translate_canonical (w : Who) (va : Nat) {s : State} (h : s.Canonical) :
    Kept Halt.Canonical SndCanonical (translate w va s) := by
  grind [translate, Kept, Halt.Canonical, updCore_canonical, updCluster_canonical]

theorem placeOf_canonical (w : Who) (a : Word) (e : TlbEntry) (pa n : Nat) (s : State) :
    Kept Halt.Canonical Free (placeOf w a e pa n s) := by
  unfold placeOf
  dsimp only
  repeat' split
  all_goals trivial

theorem locate_canonical (w : Who) (a : Word) (n : Nat) (wr align x : Bool) {s : State} (h : s.Canonical) :
    Kept Halt.Canonical SndCanonical (locate w a n wr align x s) := by
  unfold locate
  split
  · trivial
  · grind [Kept, Halt.Canonical]
  · split
    · trivial
    · split
      · refine (translate_canonical w _ h).bind fun ⟨r, s⟩ h => ?_
        have hp := fun e pa => placeOf_canonical w a e pa n s
        grind [bind_eq, Kept, Halt.Canonical]
      all_goals grind [Kept, Halt.Canonical]

theorem runPath_canonical {s : State} (h : s.Canonical) (p : List (Nat × List Byte)) : (runPath s p).Canonical :=
  foldl_canonical (fun _ _ h => poke_canonical h ..) _ h

theorem runPaths_canonical {s : State} (h : s.Canonical) (c : CoreId) : (s.runPaths c).Canonical :=
  foldl_canonical (fun _ _ h => runPath_canonical h _) _ (runPath_canonical h _)

theorem placeRead_canonical {s : State} (h : s.Canonical) (c : CoreId) (p : Place) (key n : Nat) :
    (placeRead s c p key n).2.Canonical := by
  unfold placeRead
  cases p <;> grind [readCached_canonical, recall_canonical, runPath_canonical, updCore_canonical, spend_canonical]

theorem placeWrite_canonical {s : State} (h : s.Canonical) (c : CoreId) (p : Place) (key : Nat) (bs : List Byte) (by_ : Nat) :
    (placeWrite s c p key bs by_).Canonical := by
  unfold placeWrite
  cases p <;> grind [writeCached_canonical, recall_canonical, homeWrite_canonical, poke_canonical, updCore_canonical, spend_canonical,
    blockWrite_canonical]

theorem loadLat_canonical {s : State} (h : s.Canonical) (c : CoreId) (l : Loc) : (loadLat s c l).2.Canonical := by
  unfold loadLat
  split
  · exact h
  · exact openLat_canonical h ..

theorem deliver_canonical {s : State} (h : s.Canonical) (d : Dest) (bs : List Byte) : (s.deliver d bs).Canonical := by
  unfold State.deliver
  cases d <;> grind [updR_canonical, updMe_canonical]

theorem reached_canonical (l : Loc) (a : Word) (s : State) : Kept Halt.Canonical Free (reached l a s) := by
  unfold reached
  split <;> exact True.intro

theorem readAcc_canonical {s : State} (h : s.Canonical) (c : CoreId) (q : List Acc) (p : Place) (key n : Nat) (repl : List Byte) :
    (readAcc s c q p key n repl).2.Canonical := by
  unfold readAcc
  split
  · exact placeRead_canonical h ..
  · split
    · exact h
    · exact placeRead_canonical h ..

theorem enqueue_canonical {s : State} (h : s.Canonical) (l : Lane) (a : Acc) : (s.enqueue l a).Canonical := h

theorem laneLoad_canonical (l : Lane) (a : Word) (n : Nat) (d : Dest) (repl : List Byte) (plain : Bool) (more : Nat → Nat) {s : State}
    (h : s.Canonical) :
    Kept Halt.Canonical (fun r : Loaded => r.st.Canonical) (laneLoad l a n d repl plain more s) := by
  refine (locate_canonical _ _ _ _ _ _ h).bind fun ⟨loc, s⟩ h => ?_
  cases plain
  case true =>
    refine (register_canonical _ _ _ _ _ _ h).bind fun s h => (reached_canonical loc a _).bind fun _ _ => ?_
    grind [Kept, loadLat_canonical, readAcc_canonical, deliver_canonical, enqueue_canonical, updR_canonical]
  case false =>
    refine (reached_canonical loc a _).bind fun _ _ => ?_
    grind [Kept, loadLat_canonical, readAcc_canonical, deliver_canonical, enqueue_canonical, updR_canonical]

theorem needStore_canonical (l : Lane) (s : State) : Kept Halt.Canonical Free (needStore l s) := needThat_canonical _ _

theorem laneStore_canonical (l : Lane) (a : Word) (bs : List Byte) (plain : Bool) {s : State} (h : s.Canonical) :
    Kept Halt.Canonical State.Canonical (laneStore l a bs plain s) := by
  refine (locate_canonical _ _ _ _ _ _ h).bind fun ⟨loc, s⟩ h => ?_
  grind [bind_eq, Kept, Halt.Canonical, register_canonical, reached_canonical, placeWrite_canonical, enqueue_canonical]

theorem readNow_canonical (l : Lane) (a : Word) (n : Nat) (align : Bool) {s : State} (h : s.Canonical) :
    Kept Halt.Canonical SndCanonical (readNow l a n align s) := by
  refine (locate_canonical _ _ _ _ _ _ h).bind fun ⟨loc, t⟩ ht => ?_
  refine (reached_canonical loc a _).bind fun _ _ => ?_
  grind [Kept, Halt.Canonical, readAcc_canonical, updMe_canonical]

theorem performRead_canonical {s : State} (h : s.Canonical) (l : Lane) (q rest : List Acc) (a : Acc) :
    (s.performRead l q rest a).Canonical := by
  grind [State.performRead, readAcc_canonical, updMe_canonical, deliver_canonical, updR_canonical]

theorem performWrite_canonical {s : State} (h : s.Canonical) (l : Lane) (rest : List Acc) (a : Acc) :
    (s.performWrite l rest a).Canonical := placeWrite_canonical h ..

theorem leave_canonical {s : State} (h : s.Canonical) (l : Lane) (i : Nat) : (s.leave l i).Canonical := by
  unfold State.leave
  dsimp only
  split
  · exact h
  · split
    · exact h
    · split
      · exact performWrite_canonical h ..
      · exact performRead_canonical h ..

theorem readMove_canonical {s : State} (h : s.Canonical) (l : Lane) : (s.readMove l).Canonical := by
  unfold State.readMove
  split
  · exact h
  · exact leave_canonical h ..

theorem writeMove_canonical {s : State} (h : s.Canonical) (l : Lane) : (s.writeMove l).Canonical := by
  unfold State.writeMove
  split
  · exact h
  · exact leave_canonical h ..

theorem letLeave_canonical (due : Acc → Bool) (x : Nat) {s : State} (h : s.Canonical) : (State.letLeave due x s).Canonical := by
  induction x generalizing s with
  | zero => exact h
  | succ n ih => grind [State.letLeave, leave_canonical]

theorem flushQueues_canonical {s : State} (h : s.Canonical) : s.flushQueues.Canonical := by
  unfold State.flushQueues
  split
  · exact h
  · exact letLeave_canonical _ _ h ..

theorem flushPaths_canonical {s : State} (h : s.Canonical) : s.flushPaths.Canonical := by
  grind [State.flushPaths, runPaths_canonical, updMe_canonical, runPath_canonical]

theorem chargeEngine_canonical (w : Who) (p : Place) (n : Nat) {s : State} (h : s.Canonical) :
    (chargeEngine w p n s).Canonical := by
  unfold chargeEngine
  cases p <;> grind [spend_canonical]

theorem engineRead_canonical (w : Who) (a : Word) (n : Nat) {s : State} (h : s.Canonical) :
    Kept Halt.Canonical (fun r : EngGot => r.st.Canonical) (engineRead w a n s) := by
  grind [engineRead, bind_eq, Kept, locate_canonical, chargeEngine_canonical, engRead_canonical, updDie_canonical]

theorem engineWrite_canonical (w : Who) (a : Word) (bs : List Byte) {s : State} (h : s.Canonical) :
    Kept Halt.Canonical State.Canonical (engineWrite w a bs s) := by
  grind [engineWrite, bind_eq, Kept, locate_canonical, chargeEngine_canonical, engWrite_canonical, poke_canonical,
    blockWrite_canonical]

theorem engineReadRaw_canonical (w : Who) (a : Word) (n : Nat) {s : State} (h : s.Canonical) :
    Kept Halt.Canonical (fun r : EngGot => r.st.Canonical) (engineReadRaw w a n s) := by
  refine foldlM_kept (fun r c hr => ?_) _ h
  exact (engineRead_canonical _ _ _ hr).bind fun _ hg => hg

theorem engineReadRun_canonical (w : Who) (a : Word) (n : Nat) {s : State} (h : s.Canonical) :
    Kept Halt.Canonical SndCanonical (engineReadRun w a n s) := by
  grind [engineReadRun, bind_eq, Kept, engineReadRaw_canonical]

theorem engineWriteRun_canonical (w : Who) (a : Word) (bs : List Byte) {s : State} (h : s.Canonical) :
    Kept Halt.Canonical State.Canonical (engineWriteRun w a bs s) := foldlM_kept (fun _ _ h => engineWrite_canonical _ _ _ h) _ h

theorem engineCheckRun_canonical (w : Who) (a : Word) (n : Nat) (wr : Bool) {s : State} (h : s.Canonical) :
    Kept Halt.Canonical State.Canonical (engineCheckRun w a n wr s) := by
  refine foldlM_kept (fun s c h => ?_) _ h
  exact (locate_canonical _ _ _ _ _ _ h).bind fun ⟨_, _⟩ h => h

end Sys2Proof.Machine
end

section
/-! SUPPORT. The canonical form of memory, Shunter, Signal Box and Timetable. -/

namespace Sys2Proof.Machine

open Sys2Proof

/-! ### Machine/Shunter -/

theorem homeRead_canonical {s : State} (h : s.Canonical) (key n : Nat) : (s.homeRead key n).2.Canonical := by
  unfold State.homeRead
  grind [foldl_canonical, recall_canonical, writeBack_canonical]

theorem homePut_canonical {s : State} (h : s.Canonical) (key : Nat) (bs : List Byte) : (s.homePut key bs).Canonical :=
  foldl_canonical (fun _ _ h => homeWrite_canonical (recall_canonical h _) ..) _ h

theorem capDevice_canonical {s : State} (h : s.Canonical) (port n : Nat) : (s.capDevice port n).Canonical := h

theorem setMig_canonical {s : State} (h : s.Canonical) (m : Mig) : (s.setMig m).Canonical := h

theorem pageOut_canonical {s : State} (h : s.Canonical) (packed : Bool) (m : Mig) : (s.pageOut packed m).Canonical := by
  grind [State.pageOut, homeRead_canonical, setMig_canonical, poke_canonical]

theorem pageIn_canonical {s : State} (h : s.Canonical) (m : Mig) : (s.pageIn m).Canonical := by
  unfold State.pageIn
  split
  · exact h
  · exact homePut_canonical h ..

theorem migPage_canonical {s : State} (h : s.Canonical) (op : Nat) {f : State → Mig → State}
    (hf : ∀ (t : State) m, t.Canonical → (f t m).Canonical) : NextCanonical (migPage op f s) := by
  refine event_canonical h fun t h => ?_
  grind

theorem execPageOutPacked_canonical : Keeps execPageOutPacked := fun h => migPage_canonical h _ fun _ _ h => pageOut_canonical h ..

theorem execPageOutRaw_canonical : Keeps execPageOutRaw := fun h => migPage_canonical h _ fun _ _ h => pageOut_canonical h ..

theorem execPagesIn_canonical : Keeps execPagesIn := fun h => migPage_canonical h _ fun _ _ h => pageIn_canonical h _

theorem execBadcmd_canonical : Keeps execBadcmd := fun h => event_canonical h fun s h => by
  split
  · split <;> exact h
  · exact h

theorem physPut_canonical {s : State} (h : s.Canonical) (pa : Nat) (bs : List Byte) : (s.physPut pa bs).Canonical := by
  grind [State.physPut, homePut_canonical, poke_canonical, blockWrite_canonical]

theorem execMigrationComplete_canonical : Keeps execMigrationComplete := fun h => event_canonical h fun s h => by
  split
  · split
    · exact physPut_canonical h ..
    · exact h
  · exact h

/-! ### Machine/SignalBox -/

theorem updBox_canonical {s : State} (h : s.Canonical) (n : Nat) (f : BoxCtx → BoxCtx) : (s.updBox n f).Canonical := h

theorem BoxPlace.read_canonical (p : BoxPlace) (n : Nat) {s : State} (h : s.Canonical) : (p.read n s).2.Canonical := by
  cases p <;> grind [BoxPlace.read, homeRead_canonical]

theorem BoxPlace.write_canonical (p : BoxPlace) (bs : List Byte) {s : State} (h : s.Canonical) : (p.write bs s).Canonical := by
  cases p with
  | plain k => exact poke_canonical h ..
  | line k => exact homePut_canonical h ..
  | block b o => exact foldl_canonical (fun _ _ h => blockWrite_canonical h ..) _ h

theorem BoxPlace.get_canonical (p : BoxPlace) (n : Nat) {s : State} (h : s.Canonical) : (p.get n s).2.Canonical := by
  unfold BoxPlace.get
  dsimp only
  split
  · exact BoxPlace.read_canonical _ _ h ..
  · split <;> exact BoxPlace.read_canonical _ _ h ..

theorem boxRead_canonical {s : State} (h : s.Canonical) (vf : Nat) (a : Word) (n : Nat) :
    Kept Free SndCanonical (boxRead s vf a n) := by
  refine Kept.bind (P := Free) (kept_free _) fun ps _ => ?_
  refine foldl_snd (fun r p h => ?_) _ h
  exact BoxPlace.get_canonical p.1 p.2 h

theorem boxWrite_canonical {s : State} (h : s.Canonical) (vf : Nat) (a : Word) (bs : List Byte) :
    Kept Free State.Canonical (boxWrite s vf a bs) := by
  refine Kept.bind (P := Free) (kept_free _) fun ps _ => ?_
  refine foldl_snd (fun r p h => ?_) _ h
  exact BoxPlace.write_canonical p.1 _ h

theorem boxEnd_canonical {s : State} (h : s.Canonical) (n : Nat) {x : BoxEff} (hx : Kept Free (fun r => r.1.Canonical) x) :
    NextCanonical (s.boxEnd n x) := by
  unfold State.boxEnd
  split <;> grind [Kept, NextCanonical, updBox_canonical, complete_canonical, postRecord_canonical]

theorem boxWord_canonical {s : State} (h : s.Canonical) (len : Nat) {eff : BoxCtx → BitVec 32 → State → BoxEff}
    (he : ∀ c pc (t : State), t.Canonical → Kept Free (fun r => r.1.Canonical) (eff c pc t)) : NextCanonical (boxWord len eff s) :=
  boxEnd_canonical h _ (he _ _ _ h)

theorem burstTo_canonical {s : State} (h : s.Canonical) (n : Nat) (b : Burst) (m : Nat) : (s.burstTo n b m).Canonical := by
  unfold State.burstTo
  dsimp only
  split
  · exact h
  · split
    · exact h
    · exact pendDone_canonical (poke_canonical h ..) ..

theorem startBurst_canonical {s : State} (h : s.Canonical) (n : Nat) (b : Burst) : (s.startBurst n b).Canonical := by
  unfold State.startBurst
  split
  · exact foldl_canonical (fun _ _ h => burstTo_canonical h ..) _ h
  · exact h

theorem execBurstMemberDone_canonical : Keeps execBurstMemberDone := fun h => event_canonical h fun s h => by
  dsimp only
  split
  · exact h
  · split
    · exact h
    · exact burstTo_canonical h ..

theorem updExpert_canonical {s : State} (h : s.Canonical) (e : Nat) (f : Expert → Expert) : (s.updExpert e f).Canonical := h

theorem fetchDone_canonical {s : State} (h : s.Canonical) (e : Nat) : (s.fetchDone e).Canonical := h

theorem fetchFail_canonical {s : State} (h : s.Canonical) (e src : Nat) (c : Cause) (a : Word) (off : Nat) :
    (s.fetchFail e src c a off).Canonical := h

theorem fetchPut_canonical {s : State} (h : s.Canonical) (e off : Nat) (bs : List Byte) :
    Kept Free State.Canonical (s.fetchPut e off bs) := boxWrite_canonical h ..

theorem capFetch_canonical (e x y z : Nat) {s : State} (h : s.Canonical) : (capFetch e x y z s).Canonical := by
  induction x generalizing y z s with
  | zero => exact fetchDone_canonical (updExpert_canonical h _ _) _
  | succ left ih =>
    unfold capFetch
    grind [fetchFail_canonical, fetchPut_canonical, Kept]

theorem endFetch_canonical {s : State} (h : s.Canonical) (e : Nat) (r : FetchResult) : (s.endFetch e r).Canonical := by
  unfold State.endFetch
  grind [Kept, capFetch_canonical, fetchFail_canonical, fetchPut_canonical, updExpert_canonical, fetchDone_canonical]

theorem execFetchEnd_canonical : Keeps execFetchEnd := fun h => event_canonical h fun _ h => endFetch_canonical h ..

theorem execExpertEntryWrite_canonical : Keeps execExpertEntryWrite :=
  fun h => event_canonical h fun _ h => updExpert_canonical h ..

theorem execSburst_canonical (mc : McReg) (units : BitVec 21) (src : BitVec 64) : Keeps (execSburst mc units src) :=
  fun h => boxWord_canonical h _ fun _ _ _ h => (kept_free _).bind fun _ _ => (kept_free _).bind fun _ _ => (kept_free _).bind fun _ _ =>
  (kept_free _).bind fun _ _ => (boxRead_canonical h ..).bind fun ⟨_, _⟩ h => startBurst_canonical h ..

theorem execSwrite_canonical (addr : BitVec 64) (v : BitVec 32) : Keeps (execSwrite addr v) :=
  fun h => boxWord_canonical h _ fun _ _ _ h => (kept_free _).bind fun _ _ => (kept_free _).bind fun _ _ =>
  (boxWrite_canonical h ..).bind fun _ h => h

theorem execSloop_canonical (n : BitVec 11) (off : BitVec 16) : Keeps (execSloop n off) :=
  fun h => boxWord_canonical h _ fun _ _ _ h => by
  split
  · exact True.intro
  · exact updBox_canonical h ..

theorem execSwait_canonical (core : CoreId) (sg : SgReg) (t : BitVec 10) : Keeps (execSwait core sg t) :=
  fun h => boxWord_canonical h _ fun _ _ s h => (kept_free _).bind fun _ _ => (kept_free _).bind fun _ _ => (kept_free _).bind fun _ _ => by
  refine updCore_canonical ?_ ..
  split
  · exact updCore_canonical h ..
  · exact h

theorem execSsig_canonical (core : CoreId) (sg : SgReg) (n : BitVec 10) : Keeps (execSsig core sg n) :=
  fun h => boxWord_canonical h _ fun _ _ _ h => (kept_free _).bind fun _ _ => (kept_free _).bind fun _ _ => pendSig_canonical h ..

theorem execSexpert_canonical (e : BitVec 12) (mc : McReg) : Keeps (execSexpert e mc) :=
  fun h => boxWord_canonical h _ fun _ _ s h => (kept_free _).bind fun _ _ => (kept_free _).bind fun _ _ => (kept_free _).bind fun _ _ =>
  (kept_free _).bind fun _ _ => by
  dsimp only
  by_cases hx : ((s.expert e.toNat).st == 2) = true
  · rw [if_pos hx]
    exact (boxRead_canonical h ..).bind fun ⟨_, _⟩ h => startBurst_canonical h ..
  · rw [if_neg hx]
    exact startBurst_canonical h ..

theorem execSfetch_canonical (e : BitVec 12) (peer : Bool) (pkg : BitVec 9) : Keeps (execSfetch e peer pkg) :=
  fun h => boxWord_canonical h _ fun _ _ s h => (kept_free _).bind fun _ _ => by
  dsimp only
  split
  · exact h
  · grind [Kept, updBox_canonical, updExpert_canonical, endFetch_canonical]

theorem execScount_canonical (first : BitVec 12) (n : BitVec 13) (table : BitVec 64) : Keeps (execScount first n table) :=
  fun h => boxWord_canonical h _ fun _ _ _ h => (kept_free _).bind fun _ _ => (kept_free _).bind fun _ _ =>
    (boxWrite_canonical h ..).bind fun _ h =>
  foldl_canonical (fun _ _ h => updExpert_canonical h ..) _ h

theorem execSjump_canonical (off : BitVec 27) : Keeps (execSjump off) := fun h => boxWord_canonical h _ fun _ _ _ h => h

theorem execShalt_canonical : Keeps execShalt :=
  fun h => boxWord_canonical h _ fun _ _ _ h => (kept_free _).bind fun _ _ => complete_canonical h ..

theorem execSpark_canonical : Keeps execSpark := fun h => boxWord_canonical h _ fun _ _ _ h => h

theorem boxCode_canonical {s : State} (h : s.Canonical) (n : Nat) (a : Word) : Kept Free SndCanonical (boxCode s n a) := by
  grind [boxCode, bind_eq, Kept, BoxPlace.read_canonical]

theorem boxFetch_canonical {s : State} (h : s.Canonical) (n : Nat) : Kept Free SndCanonical (boxFetch s n) := by
  refine (boxCode_canonical h _ _).bind fun ⟨w, s⟩ h => ?_
  refine Kept.bind (P := SndCanonical) ?_ fun ⟨ws, s⟩ h => ?_
  · refine foldlM_kept (fun r i h => ?_) _ h
    exact (boxCode_canonical h _ _).bind fun ⟨_, _⟩ h => h
  · dsimp only
    grind [Kept]

theorem execSbStart_canonical : Keeps execSbStart := fun h => event_canonical h fun _ h => updBox_canonical h ..

theorem execSbStop_canonical : Keeps execSbStop := fun h => event_canonical h fun _ h => updBox_canonical h ..

theorem execSbctlResume_canonical : Keeps execSbctlResume := fun h => event_canonical h fun _ h => updBox_canonical h ..

/-! ### Machine/Timetable -/

theorem ttRead_canonical (d vf : Nat) (a : Word) (n : Nat) {s : State} (h : s.Canonical) :
    Kept Free (fun r : TtGot => r.st.Canonical) (ttRead d vf a n s) := by
  refine foldlM_kept (fun r c h => ?_) _ h
  grind [bind_eq, Kept, homeRead_canonical, updDie_canonical]

theorem setGraph_canonical {s : State} (h : s.Canonical) (d vf : Nat) (g : Option Graph) : (s.setGraph d vf g).Canonical := h

theorem updGraph_canonical {s : State} (h : s.Canonical) (d vf : Nat) (f : Graph → Graph) : (s.updGraph d vf f).Canonical := h

theorem dropGraph_canonical {s : State} (h : s.Canonical) (d vf : Nat) : (s.dropGraph d vf).Canonical := h

theorem reap_canonical {s : State} (h : s.Canonical) (d vf : Nat) : (s.reap d vf).Canonical := by
  unfold State.reap
  split
  · split <;> exact h
  · exact h

theorem failGraph_canonical {s : State} (h : s.Canonical) (d vf code : Nat) : (s.failGraph d vf code).Canonical := by
  unfold State.failGraph
  split
  · exact h
  · split
    · exact h
    · exact foldl_canonical (fun _ _ h => reap_canonical (updDie_canonical (updGraph_canonical h ..) ..) ..) _ (complete_canonical h ..)

theorem finishGraph_canonical {s : State} (h : s.Canonical) (g : Graph) : (s.finishGraph g).Canonical :=
  foldl_canonical (fun _ _ h => dropGraph_canonical h ..) _ (complete_canonical h ..)

theorem endStep_canonical {s : State} (h : s.Canonical) (d : Nat) (g : Graph) : (s.endStep d g).Canonical := by
  unfold State.endStep
  extract_lets g1 s1 at_ s2 all
  have h1 : s1.Canonical := setGraph_canonical h ..
  have h2 : s2.Canonical := by
    dsimp only [s2]
    split
    · exact foldl_canonical (fun _ _ h => updGraph_canonical h ..) _ h1
    · exact h1
  split
  · exact finishGraph_canonical h2 _
  · exact h2

theorem checkStep_canonical {s : State} (h : s.Canonical) (d vf : Nat) : (s.checkStep d vf).Canonical := by
  grind [State.checkStep, endStep_canonical, failGraph_canonical]

theorem readOpb_canonical (d : Nat) (g : Graph) (n : Nat) {s : State} (h : s.Canonical) :
    Kept Free SndCanonical (readOpb d g n s) := by
  grind [readOpb, Kept, ttRead_canonical]

theorem readTable_canonical (d : Nat) (g : Graph) (a : Word) (n : Nat) {s : State} (h : s.Canonical) :
    Kept Free SndCanonical (readTable d g a n s) := by
  grind [readTable, Kept, ttRead_canonical]

theorem readSucc_canonical (d : Nat) (g : Graph) (o : Opb) {s : State} (h : s.Canonical) :
    Kept Free SndCanonical (readSucc d g o s) := by
  unfold readSucc
  dsimp only
  split
  · exact h
  · refine (readTable_canonical _ _ _ _ h ..).bind fun ⟨_, _⟩ h1 => ?_
    split
    · exact h1
    · exact True.intro

theorem checkOpb_canonical (d : Nat) (g : Graph) (o : Opb) {s : State} (h : s.Canonical) :
    Kept Free State.Canonical (checkOpb d g o s) := by
  unfold checkOpb
  split
  · trivial
  · refine (readSucc_canonical _ _ _ h).bind fun ⟨_, s⟩ h => (readTable_canonical _ _ _ _ h).bind fun ⟨_, s⟩ h => ?_
    refine Kept.bind (P := State.Canonical) (foldlM_kept (fun s c h => ?_) _ h) fun s h => ?_
    · refine (readTable_canonical _ _ _ _ h).bind fun ⟨bs, s⟩ h => ?_
      grind [Kept]
    · split
      · exact h
      · exact (readTable_canonical _ _ _ _ h).map fun _ h => h

theorem checkLaunch_canonical {s : State} (h : s.Canonical) (d vf : Nat) (r : Launch) {g : Graph} {t : State}
    (e : checkLaunch d vf r s = some (g, t)) : t.Canonical := by
  grind [checkLaunch, ttRead_canonical, Kept]

theorem placeGraph_canonical {s : State} (h : s.Canonical) (d : Nat) (g : Graph) : (s.placeGraph d g).Canonical := h

theorem execLaunch_canonical : Keeps execLaunch := fun h => event_canonical h fun s h => by
  have hc := fun d vf f r {g t} => checkLaunch_canonical (updDie_canonical h d f) d vf r (g := g) (t := t)
  have hg := fun {s : State} (h : s.Canonical) g => foldl_canonical (g := fun s d => s.placeGraph d g) (fun _ d h =>
    placeGraph_canonical h d g) g.onDies h
  grind [updDie_canonical, complete_canonical]

theorem loadDeps_canonical (d : Nat) (g : Graph) (x : List Nat) (y : Tab OpbSt) {s : State} (h : s.Canonical) :
    Kept Free SndCanonical (loadDeps d g x y s) := by
  induction x generalizing y s with
  | nil => exact h
  | cons n l ih => exact (readOpb_canonical _ _ _ h).bind fun ⟨_, _⟩ h => ih _ h

theorem beginStep_canonical {s : State} (h : s.Canonical) (d : Nat) (g : Graph) : (s.beginStep d g).Canonical := by
  grind [State.beginStep, Kept, ttRead_canonical, failGraph_canonical, loadDeps_canonical, checkStep_canonical, setGraph_canonical]

theorem startStep_canonical {s : State} (h : s.Canonical) (g : Graph) : (s.startStep g).Canonical := by
  unfold State.startStep
  split
  · refine foldl_canonical (fun s d h => ?_) _ h
    grind [beginStep_canonical]
  · exact h

theorem execStepStart_canonical : Keeps execStepStart := fun h => event_canonical h fun s h => by
  split
  · exact h
  · split
    · exact h
    · exact startStep_canonical h ..

theorem stepSettle_canonical {s : State} (h : s.Canonical) : s.stepSettle.Canonical := by
  refine foldl_canonical (fun s g h => ?_) _ h
  grind [startStep_canonical]

theorem expand_canonical {s : State} (h : s.Canonical) (d : Nat) (g : Graph) (n : Nat) : (s.expand d g n).Canonical := by
  unfold State.expand
  split
  · exact h
  · grind [bind_eq, Kept, readOpb_canonical, checkOpb_canonical, failGraph_canonical, updGraph_canonical, updDie_canonical]

theorem execWalkerExpand_canonical : Keeps execWalkerExpand := fun h => event_canonical h fun s h => by
  dsimp only
  split
  · exact h
  · split
    · exact expand_canonical h ..
    · exact h

theorem release1_canonical {s : State} (h : s.Canonical) (d vf : Nat) (x : List Nat) : (s.release1 d vf x).Canonical := by
  induction x generalizing s with
  | nil => exact checkStep_canonical h ..
  | cons x l ih =>
    unfold State.release1
    grind [failGraph_canonical, updGraph_canonical]

theorem opbDone_canonical {s : State} (h : s.Canonical) (d vf n : Nat) : (s.opbDone d vf n).Canonical := by
  grind [State.opbDone, bind_eq, Kept, updGraph_canonical, readOpb_canonical, readSucc_canonical, failGraph_canonical,
    release1_canonical]

theorem tileEnd_canonical {s : State} (h : s.Canonical) (d i : Nat) (st : TaskState) : (s.tileEnd d i st).Canonical := by
  grind [State.tileEnd, updDie_canonical, reap_canonical, updGraph_canonical, opbDone_canonical]

theorem tileDone_canonical {s : State} (h : s.Canonical) (d i : Nat) : (s.tileDone d i).Canonical := tileEnd_canonical h ..

theorem taskFault_canonical {s : State} (h : s.Canonical) (d i code : Nat) : (s.taskFault d i code).Canonical := by
  grind [State.taskFault, complete_canonical, tileDone_canonical]

theorem leaveTask_canonical {s : State} (h : s.Canonical) (c : CoreId) (fault : Option Nat) (saved : Bool) :
    (s.leaveTask c fault saved).Canonical := by
  grind [State.leaveTask, updDie_canonical, taskFault_canonical, tileDone_canonical]

theorem dropOpbs_canonical (d vf x : Nat) (y : List Nat) {s : State} (h : s.Canonical) : (dropOpbs d vf x y s).Canonical := by
  induction x generalizing y s with
  | zero => exact h
  | succ fuel ih =>
    cases y with
    | nil => exact checkStep_canonical h ..
    | cons n l =>
      unfold dropOpbs
      grind [bind_eq, Kept, readOpb_canonical, readSucc_canonical, failGraph_canonical, updGraph_canonical]

theorem dropCounter_canonical {s : State} (h : s.Canonical) (d vf n : Nat) : (s.dropCounter d vf n).Canonical := by
  unfold State.dropCounter
  split
  · split
    · exact dropOpbs_canonical _ _ _ _ h ..
    · exact h
  · exact h

theorem loseTask_canonical {s : State} (h : s.Canonical) (d i : Nat) : (s.loseTask d i).Canonical := h

theorem dropTask_canonical {s : State} (h : s.Canonical) (d i : Nat) : (s.dropTask d i).Canonical := by
  grind [State.dropTask, bind_eq, Kept, readOpb_canonical, readSucc_canonical, failGraph_canonical, updGraph_canonical,
    dropOpbs_canonical, tileEnd_canonical, loseTask_canonical]

end Sys2Proof.Machine
end

section
/-! SUPPORT. The canonical form of memory, fetch, flags, operands and the matrix engine. -/

namespace Sys2Proof.Machine

open Sys2Proof

/-! ### Machine/Fetch -/

theorem fetchCode_canonical (l : Lane) (i : Nat) {s : State} (h : s.Canonical) :
    Kept Halt.Canonical SndCanonical (fetchCode l i s) := by
  unfold fetchCode
  dsimp only
  refine (locate_canonical _ _ _ _ _ _ h ..).bind fun ⟨_, _⟩ h1 => ?_
  split
  · exact placeRead_canonical h1 ..
  · exact True.intro

theorem putCode_canonical {s : State} (h : s.Canonical) (l : Lane) (i : Nat) (w : Option Code) : (s.putCode l i w).Canonical := h

theorem ensureCode_canonical (l : Lane) (i : Nat) {s : State} (h : s.Canonical) :
    Kept Halt.Canonical State.Canonical (ensureCode l i s) := by
  unfold ensureCode
  split
  · exact h
  · refine (fetchCode_canonical _ _ h ..).bind fun ⟨_, _⟩ h1 => ?_
    exact h1

theorem loadBuffer_canonical {s : State} (h : s.Canonical) (l : Lane) : (s.loadBuffer l).Canonical := by
  refine foldl_canonical (fun s i h => ?_) _ (updLane_canonical h _ _)
  grind [Kept, ensureCode_canonical]

theorem execCodeFetch_canonical : Keeps execCodeFetch := fun h => event_canonical h fun _ h => by
  grind [Kept, ensureCode_canonical]

/-! ### Machine/Flags -/

theorem raiseFlags_canonical (f : FpFlags) {s : State} (h : s.Canonical) :
    Kept Halt.Canonical State.Canonical (raiseFlags f s) := by
  unfold raiseFlags
  dsimp only
  split
  · exact True.intro
  · exact h

theorem needSane_canonical (t : EType) (els : List (Nat × Nat)) (s : State) : Kept Halt.Canonical Free (needSane t els s) := by
  unfold needSane
  split
  · split <;> exact True.intro
  · exact True.intro

/-! ### Machine/Operands -/

theorem needWalk_canonical (d : Desc) (x : BitVec 4) : Kept Halt.Canonical Free (needWalk d x) :=
  (check_canonical _ _ _).bind fun _ _ => check_canonical _ _ _

theorem advance_canonical {s : State} (h : s.Canonical) (x : XdReg) (n : Nat) : (s.advance x n).Canonical := by
  unfold State.advance
  split <;> exact h

theorem badShape_canonical (s : State) : (badShape s).Canonical := trivial

theorem needShape_canonical (ok : Bool) (s : State) : Kept Halt.Canonical Free (needShape ok s) := by
  unfold needShape
  split <;> exact True.intro

theorem wrP_canonical {s : State} (h : s.Canonical) (p : PReg) (on : List Nat) (lat : Nat) : (s.wrP p on lat).Canonical := by
  unfold State.wrP
  split <;> exact h

theorem scrubV_canonical {s : State} (h : s.Canonical) (k : Nat) : (s.scrubV k).Canonical := by
  unfold State.scrubV
  split <;> exact h

theorem popQueue_canonical (q : Nat) {s : State} (h : s.Canonical) : Kept Halt.Canonical SndCanonical (popQueue q s) := by
  unfold popQueue
  split
  · exact True.intro
  · split
    · exact h
    · exact notReady_canonical _

theorem readSrc_canonical (v : VReg) {s : State} (h : s.Canonical) : Kept Halt.Canonical SndCanonical (readSrc v s) := by
  unfold readSrc
  split
  · exact scrubV_canonical h ..
  · exact popQueue_canonical _ h ..

theorem readSrcs_canonical (x : List VReg) {s : State} (h : s.Canonical) : Kept Halt.Canonical SndCanonical (readSrcs x s) := by
  induction x generalizing s with
  | nil => exact h
  | cons v t ih => grind [readSrcs, bind_eq, Kept, readSrc_canonical]

theorem wrV_canonical {s : State} (h : s.Canonical) (d : VReg) (w : Nat) (els : List (Nat × Nat)) (lat : Nat) :
    (s.wrV d w els lat).Canonical := scrubV_canonical h ..

theorem wrSv_canonical {s : State} (h : s.Canonical) (d : SReg) (v : Word) : (s.wrSv d v).Canonical := by
  unfold State.wrSv
  split
  · exact h
  · exact setReady_canonical (wrS_canonical h ..) ..

theorem needQueues_canonical (srcs : List VReg) {s : State} (h : s.Canonical) : Kept Halt.Canonical Free (needQueues srcs s) :=
  (readSrcs_canonical _ h).bind fun _ _ => kept_ok True.intro

theorem vGuarded_canonical {s : State} (h : s.Canonical) (p : PReg) (srcs : List VReg) (more : State → List Nat) (ok : State → Bool)
    {eff : List (BitVec 2048) → List Nat → Eff}
    (he : ∀ vs act (t : State), t.Canonical → Kept Halt.Canonical State.Canonical (eff vs act t)) :
    NextCanonical (vGuarded p srcs more ok eff s) := by
  refine wordK_canonical h fun t h => ?_
  split
  · exact h
  · exact (needQueues_canonical _ h).bind fun _ _ => (needShape_canonical _ _).bind fun _ _ =>
      (readSrcs_canonical _ h).bind fun _ h => he _ _ _ h

theorem vWrite_canonical (d : VReg) (w lat : Nat) (used : List (Nat × Nat)) (res : List (Nat × Nat × FpFlags)) {s : State}
    (h : s.Canonical) :
    Kept Halt.Canonical State.Canonical (vWrite d w lat used res s) :=
  (needSane_canonical _ _ _).bind fun _ _ => (raiseFlags_canonical _ h ..).bind fun _ h1 => wrV_canonical h1 ..

theorem vBin_canonical (d a b : VReg) (p : PReg) (lat : Nat) (ok : EType → Bool) (f : EType → Rm → Nat → Nat → Nat × FpFlags) {s : State}
    (h : s.Canonical) :
    NextCanonical (vBin d a b p lat ok f s) := vGuarded_canonical h _ _ _ _ fun _ _ _ h => vWrite_canonical _ _ _ _ _ h

theorem vTri_canonical (d a b : VReg) (p : PReg) (lat : Nat) (ok : EType → Bool) (f : EType → Rm → Nat → Nat → Nat → Nat × FpFlags)
    {s : State} (h : s.Canonical) :
    NextCanonical (vTri d a b p lat ok f s) := vGuarded_canonical h _ _ _ _ fun _ _ _ h => vWrite_canonical _ _ _ _ _ h

theorem vUn_canonical (d a : VReg) (p : PReg) (lat : Nat) (ok : EType → Bool) (f : EType → Nat → Nat × FpFlags) {s : State}
    (h : s.Canonical) :
    NextCanonical (vUn d a p lat ok f s) := vGuarded_canonical h _ _ _ _ fun _ _ _ h => vWrite_canonical _ _ _ _ _ h

/-! ### Machine/Matrix -/

theorem pendingFetch_canonical (x : Nat) {s : State} (h : s.Canonical) : (pendingFetch x s).2.Canonical := by
  induction x generalizing s with
  | zero => exact h
  | succ fuel ih => grind [pendingFetch, Kept, ensureCode_canonical]

theorem pending_canonical {s : State} (h : s.Canonical) : s.pending.2.Canonical := pendingFetch_canonical _ h ..

theorem MatRun.row_canonical (m : MatRun) (c : CoreId) (i : Nat) {s : State} (h : s.Canonical) : (m.row c i s).2.Canonical :=
  poke_canonical h ..

theorem raiseM_canonical {s : State} (h : s.Canonical) (t : MTrap) : (s.raiseM t).Canonical := by
  unfold State.raiseM
  dsimp only
  split
  · exact takeTrap_canonical (updMe_canonical h _) ..
  · exact updMe_canonical h _

theorem matStep_canonical {s : State} (h : s.Canonical) (m : MatRun) : (s.matStep m).Canonical := by
  grind [State.matStep, raiseM_canonical, updMe_canonical, spend_canonical]

theorem matCommit_canonical {s : State} (h : s.Canonical) (m : MatRun) : (s.matCommit m).Canonical := by
  have hf : ((List.range m.rows).foldl (fun (r : Nat × State) i =>
    let (n, t) := m.row r.2.focus i r.2; (r.1 + n, t)) (0, s)).2.Canonical := by
    refine foldl_snd (fun r i h => ?_) _ h
    exact MatRun.row_canonical m _ _ h
  grind [State.matCommit, updMe_canonical, raiseM_canonical]

theorem matAdvance_canonical (x : Nat) {s : State} (h : s.Canonical) : (matAdvance x s).Canonical := by
  induction x generalizing s with
  | zero => exact h
  | succ fuel ih => grind [matAdvance, matCommit_canonical, matStep_canonical]

theorem bankSettle_canonical {s : State} (h : s.Canonical) : s.bankSettle.Canonical := by
  unfold State.bankSettle
  split
  · exact h
  · split
    · exact h
    · split
      · exact poke_canonical h ..
      · exact h

theorem matSettle_canonical {s : State} (h : s.Canonical) : s.matSettle.Canonical := by
  grind [State.matSettle, bankSettle_canonical, gateIdle_canonical, updMe_canonical, spend_canonical, raiseM_canonical,
    matAdvance_canonical]

theorem needEngine_canonical {s : State} (h : s.Canonical) : Kept Halt.Canonical Free (needEngine s) := by
  unfold needEngine
  refine (needThat_canonical _ _).bind fun _ _ => ?_
  split
  · exact True.intro
  · split <;> exact h

theorem needBanks_canonical (b n : Nat) (s : State) : Kept Halt.Canonical Free (needBanks b n s) := needThat_canonical _ _

theorem engineBusy_canonical {s : State} (h : s.Canonical) (n : Nat) : (s.engineBusy n).Canonical := h

theorem needAlloc_canonical (b n : Nat) (s : State) : Kept Halt.Canonical Free (needAlloc b n s) := by
  unfold needAlloc
  split <;> exact True.intro

theorem mCompute_canonical (kind : MatKind) (i : Instr) (ab : AbReg) (k : Nat) (n : MfReg) (banks rows cols : Nat) {s : State}
    (h : s.Canonical) :
    NextCanonical (mCompute kind i ab k n banks rows cols s) := by
  refine word_canonical h fun t h => ?_
  exact (needEngine_canonical h).bind fun _ _ => (needBanks_canonical _ _ _).bind fun _ _ => (check_canonical _ _ _).bind fun _ _ =>
    (check_canonical _ _ _).bind fun _ _ => (needAlloc_canonical _ _ _).bind fun _ _ => (check_canonical _ _ _).bind fun _ _ =>
    (check_canonical _ _ _).bind fun _ _ => h

theorem execMma_canonical (ab : AbReg) (k1 : BitVec 8) (mf : MfReg) (rh : Bool) (ncol1 : BitVec 5) : Keeps (execMma ab k1 mf rh ncol1) :=
  fun h => mCompute_canonical _ _ _ _ _ _ _ _ h ..

theorem execMmasp_canonical (ab : AbReg) (k1 : BitVec 8) (mf : MfReg) (rh : Bool) (ncol1 : BitVec 5) :
    Keeps (execMmasp ab k1 mf rh ncol1) :=
  fun h => mCompute_canonical _ _ _ _ _ _ _ _ h ..

theorem execMmv_canonical (ab : AbReg) (k1 : BitVec 8) (mf : MfReg) (nv1 : BitVec 3) : Keeps (execMmv ab k1 mf nv1) :=
  fun h => mCompute_canonical _ _ _ _ _ _ _ _ h ..

theorem bankLater_canonical {s : State} (h : s.Canonical) (b n busy : Nat) (f : BankChange) : (s.bankLater b n busy f).Canonical :=
  h

theorem mBanks_canonical {s : State} (h : s.Canonical) (ab : AbReg) (count : BitVec 6) (busy : Nat) {ok : State → Except Halt Unit}
    {change : State → Except Halt (BankChange × State)} (hok : ∀ t : State, t.Canonical → Kept Halt.Canonical Free (ok t))
    (hc : ∀ t : State, t.Canonical → Kept Halt.Canonical SndCanonical (change t)) : NextCanonical (mBanks ab count busy ok change s) := by
  refine word_canonical h fun t h => ?_
  exact (needEngine_canonical h).bind fun _ _ => (needBanks_canonical _ _ _).bind fun _ _ => (check_canonical _ _ _).bind fun _ _ =>
    (hok t h).bind fun _ _ => (hc t h).bind fun ⟨_, _⟩ h => bankLater_canonical h ..

theorem execMzero_canonical (ab : AbReg) (count : BitVec 6) : Keeps (execMzero ab count) :=
  fun h => mBanks_canonical h _ _ _ (fun _ _ => needAlloc_canonical _ _ _) fun _ h => h

theorem execMalloc_canonical (ab : AbReg) (count : BitVec 6) : Keeps (execMalloc ab count) :=
  fun h => mBanks_canonical h _ _ _ (fun _ h => by split <;> exact True.intro) fun s h => by
  have hp := pending_canonical h
  have hr := notReady_canonical s
  grind [Kept]

theorem execMfree_canonical (ab : AbReg) (count : BitVec 6) : Keeps (execMfree ab count) :=
  fun h => mBanks_canonical h _ _ _ (fun _ _ => needAlloc_canonical _ _ _) fun _ h => h

theorem execMhand_canonical (ab : AbReg) (count : BitVec 6) (core : CoreId) : Keeps (execMhand ab count core) :=
  fun h => mBanks_canonical h _ _ _ (fun _ _ => (needAlloc_canonical _ _ _).bind fun _ _ => check_canonical _ _ _) fun _ h => h

theorem reportLost_canonical {s : State} (h : s.Canonical) : Kept Halt.Canonical State.Canonical (reportLost s) := by
  unfold reportLost
  split <;> exact h

theorem execMwait_canonical : Keeps execMwait := fun h => word_canonical h fun s h => by
  split
  · exact reportLost_canonical h
  · exact h

theorem execMstop_canonical : Keeps execMstop := fun h => word_canonical h fun _ h => updLane_canonical h ..

theorem execMloop_canonical (n : BitVec 12) (off : BitVec 16) : Keeps (execMloop n off) := fun h => word_canonical h fun s h => by
  extract_lets a t back
  have hb : ∀ rec_ mlc, Kept Halt.Canonical State.Canonical (back rec_ mlc) := fun _ _ =>
    (jumpTo_canonical _ _ h).bind fun _ h1 => by
      split
      · refine (ensureCode_canonical _ _ (updMe_canonical h1 _)).bind fun _ h2 => ?_
        split
        · exact updMe_canonical h2 _
        · exact notReady_canonical _
      · exact updMe_canonical h1 _
  clear_value back
  grind [Kept, updMe_canonical]

theorem execMCommandCommit_canonical : Keeps execMCommandCommit := fun h => event_canonical h fun s h => by
  split
  · split
    · split
      · exact matCommit_canonical h ..
      · exact h
    · exact h
  · exact h

theorem execMatrixGate_canonical : Keeps execMatrixGate := fun h => event_canonical h fun _ h => gateIdle_canonical h ..

theorem execMatrixWakeDone_canonical : Keeps execMatrixWakeDone := fun h => event_canonical h fun _ h => updMe_canonical h ..

end Sys2Proof.Machine
end

section
/-! SUPPORT. The canonical form of memory, scalar words and synchronisation. -/

namespace Sys2Proof.Machine

open Sys2Proof

/-! ### Machine/Scalar -/

theorem sOp1_canonical (d a : SReg) (lat : Nat) (f : Word → Word) {s : State} (h : s.Canonical) :
    NextCanonical (sOp1 d a lat f s) := word_canonical h fun _ h => wrS_canonical h ..

theorem sOp2_canonical (d a b : SReg) (lat : Nat) (f : Word → Word → Word) {s : State} (h : s.Canonical) :
    NextCanonical (sOp2 d a b lat f s) := word_canonical h fun _ h => wrS_canonical h ..

theorem sDiv_canonical (d a b : SReg) (f : Word → Word → Word) {s : State} (h : s.Canonical) : NextCanonical (sDiv d a b f s) :=
  word_canonical h fun _ h => setReady_canonical (wrS_canonical h ..) ..

theorem sBranch_canonical (a b : SReg) (off : BitVec 11) (taken : Word → Word → Bool) {s : State} (h : s.Canonical) :
    NextCanonical (sBranch a b off taken s) := by
  refine word_canonical h fun t h => ?_
  split
  · exact jumpTo_canonical _ _ h
  · exact h

theorem finishLoad_canonical {s : State} (h : s.Canonical) (a : Word) {r : Loaded} (hr : r.st.Canonical) :
    Kept Halt.Canonical (fun r : Loaded => r.st.Canonical) (finishLoad s a r) := by
  grind [finishLoad, Kept, Halt.Canonical, updMe_canonical]

theorem sLoad_canonical (d : SReg) (n : Nat) (signed : Bool) (keys : List Nat) (addr : State → Word) {s : State} (h : s.Canonical) :
    NextCanonical (sLoad d n signed keys addr s) := by
  refine word_canonical h fun t h => ?_
  refine (laneLoad_canonical _ _ _ _ _ _ _ h).bind fun r hr => (finishLoad_canonical h _ hr).bind fun r hr => ?_
  grind [Kept, setReady_canonical]

theorem sStore_canonical (n : Nat) (data : SReg) (keys : List Nat) (addr : State → Word) {s : State} (h : s.Canonical) :
    NextCanonical (sStore n data keys addr s) :=
  word_canonical h fun _ h => (needStore_canonical _ _).bind fun _ _ => laneStore_canonical _ _ _ _ h

theorem execAdd_canonical (d a b : SReg) : Keeps (execAdd d a b) := fun h => sOp2_canonical _ _ _ _ _ h ..

theorem execSub_canonical (d a b : SReg) : Keeps (execSub d a b) := fun h => sOp2_canonical _ _ _ _ _ h ..

theorem execAnd_canonical (d a b : SReg) : Keeps (execAnd d a b) := fun h => sOp2_canonical _ _ _ _ _ h ..

theorem execOr_canonical (d a b : SReg) : Keeps (execOr d a b) := fun h => sOp2_canonical _ _ _ _ _ h ..

theorem execXor_canonical (d a b : SReg) : Keeps (execXor d a b) := fun h => sOp2_canonical _ _ _ _ _ h ..

theorem execAndn_canonical (d a b : SReg) : Keeps (execAndn d a b) := fun h => sOp2_canonical _ _ _ _ _ h ..

theorem execShl_canonical (d a b : SReg) : Keeps (execShl d a b) := fun h => sOp2_canonical _ _ _ _ _ h ..

theorem execShr_canonical (d a b : SReg) : Keeps (execShr d a b) := fun h => sOp2_canonical _ _ _ _ _ h ..

theorem execSra_canonical (d a b : SReg) : Keeps (execSra d a b) := fun h => sOp2_canonical _ _ _ _ _ h ..

theorem execSlt_canonical (d a b : SReg) : Keeps (execSlt d a b) := fun h => sOp2_canonical _ _ _ _ _ h ..

theorem execSltu_canonical (d a b : SReg) : Keeps (execSltu d a b) := fun h => sOp2_canonical _ _ _ _ _ h ..

theorem execMin_canonical (d a b : SReg) : Keeps (execMin d a b) := fun h => sOp2_canonical _ _ _ _ _ h ..

theorem execMax_canonical (d a b : SReg) : Keeps (execMax d a b) := fun h => sOp2_canonical _ _ _ _ _ h ..

theorem execMinu_canonical (d a b : SReg) : Keeps (execMinu d a b) := fun h => sOp2_canonical _ _ _ _ _ h ..

theorem execMaxu_canonical (d a b : SReg) : Keeps (execMaxu d a b) := fun h => sOp2_canonical _ _ _ _ _ h ..

theorem execMul_canonical (d a b : SReg) : Keeps (execMul d a b) := fun h => sOp2_canonical _ _ _ _ _ h ..

theorem execMulh_canonical (d a b : SReg) : Keeps (execMulh d a b) := fun h => sOp2_canonical _ _ _ _ _ h ..

theorem execMulhu_canonical (d a b : SReg) : Keeps (execMulhu d a b) := fun h => sOp2_canonical _ _ _ _ _ h ..

theorem execDiv_canonical (d a b : SReg) : Keeps (execDiv d a b) := fun h => sDiv_canonical _ _ _ _ h ..

theorem execDivu_canonical (d a b : SReg) : Keeps (execDivu d a b) := fun h => sDiv_canonical _ _ _ _ h ..

theorem execRem_canonical (d a b : SReg) : Keeps (execRem d a b) := fun h => sDiv_canonical _ _ _ _ h ..

theorem execRemu_canonical (d a b : SReg) : Keeps (execRemu d a b) := fun h => sDiv_canonical _ _ _ _ h ..

theorem execAddi_canonical (d a : SReg) (imm : BitVec 11) : Keeps (execAddi d a imm) := fun h => sOp1_canonical _ _ _ _ h ..

theorem execAndi_canonical (d a : SReg) (imm : BitVec 11) : Keeps (execAndi d a imm) := fun h => sOp1_canonical _ _ _ _ h ..

theorem execOri_canonical (d a : SReg) (imm : BitVec 11) : Keeps (execOri d a imm) := fun h => sOp1_canonical _ _ _ _ h ..

theorem execXori_canonical (d a : SReg) (imm : BitVec 11) : Keeps (execXori d a imm) := fun h => sOp1_canonical _ _ _ _ h ..

theorem execShli_canonical (d a : SReg) (imm : BitVec 6) : Keeps (execShli d a imm) := fun h => sOp1_canonical _ _ _ _ h ..

theorem execShri_canonical (d a : SReg) (imm : BitVec 6) : Keeps (execShri d a imm) := fun h => sOp1_canonical _ _ _ _ h ..

theorem execSrai_canonical (d a : SReg) (imm : BitVec 6) : Keeps (execSrai d a imm) := fun h => sOp1_canonical _ _ _ _ h ..

theorem execSlti_canonical (d a : SReg) (imm : BitVec 11) : Keeps (execSlti d a imm) := fun h => sOp1_canonical _ _ _ _ h ..

theorem execClz_canonical (d a : SReg) : Keeps (execClz d a) := fun h => sOp1_canonical _ _ _ _ h ..

theorem execCtz_canonical (d a : SReg) : Keeps (execCtz d a) := fun h => sOp1_canonical _ _ _ _ h ..

theorem execPopc_canonical (d a : SReg) : Keeps (execPopc d a) := fun h => sOp1_canonical _ _ _ _ h ..

theorem execSel_canonical (d a b : SReg) : Keeps (execSel d a b) := fun h => word_canonical h fun _ h => wrS_canonical h ..

theorem execLis_canonical (d : SReg) (k : BitVec 2) (imm : BitVec 16) : Keeps (execLis d k imm) :=
  fun h => word_canonical h fun _ h => wrS_canonical h ..

theorem execAptoPkg_canonical (d a : SReg) : Keeps (execAptoPkg d a) := fun h => word_canonical h fun _ h => wrS_canonical h ..

theorem execAptoOwn_canonical (d a : SReg) : Keeps (execAptoOwn d a) := fun h => word_canonical h fun _ h => wrS_canonical h ..

theorem execApis_canonical (w : Window) (d a : SReg) : Keeps (execApis w d a) :=
  fun h => word_canonical h fun _ h => wrS_canonical h ..

theorem execLdB_canonical (d a : SReg) (imm : BitVec 11) : Keeps (execLdB d a imm) := fun h => sLoad_canonical _ _ _ _ _ h ..

theorem execLdBu_canonical (d a : SReg) (imm : BitVec 11) : Keeps (execLdBu d a imm) := fun h => sLoad_canonical _ _ _ _ _ h ..

theorem execLdH_canonical (d a : SReg) (imm : BitVec 11) : Keeps (execLdH d a imm) := fun h => sLoad_canonical _ _ _ _ _ h ..

theorem execLdHu_canonical (d a : SReg) (imm : BitVec 11) : Keeps (execLdHu d a imm) := fun h => sLoad_canonical _ _ _ _ _ h ..

theorem execLdW_canonical (d a : SReg) (imm : BitVec 11) : Keeps (execLdW d a imm) := fun h => sLoad_canonical _ _ _ _ _ h ..

theorem execLdWu_canonical (d a : SReg) (imm : BitVec 11) : Keeps (execLdWu d a imm) := fun h => sLoad_canonical _ _ _ _ _ h ..

theorem execLdD_canonical (d a : SReg) (imm : BitVec 11) : Keeps (execLdD d a imm) := fun h => sLoad_canonical _ _ _ _ _ h ..

theorem execLdx_canonical (sz : LoadSize) (scale : BitVec 2) (d a b : SReg) : Keeps (execLdx sz scale d a b) :=
  fun h => sLoad_canonical _ _ _ _ _ h ..

theorem execStB_canonical (a b : SReg) (off : BitVec 11) : Keeps (execStB a b off) := fun h => sStore_canonical _ _ _ _ h ..

theorem execStH_canonical (a b : SReg) (off : BitVec 11) : Keeps (execStH a b off) := fun h => sStore_canonical _ _ _ _ h ..

theorem execStW_canonical (a b : SReg) (off : BitVec 11) : Keeps (execStW a b off) := fun h => sStore_canonical _ _ _ _ h ..

theorem execStD_canonical (a b : SReg) (off : BitVec 11) : Keeps (execStD a b off) := fun h => sStore_canonical _ _ _ _ h ..

theorem execStx_canonical (sz : StoreSize) (scale : BitVec 2) (d a b : SReg) : Keeps (execStx sz scale d a b) :=
  fun h => sStore_canonical _ _ _ _ h ..

theorem execPref_canonical (_hint : BitVec 2) (a : SReg) (_imm : BitVec 11) : Keeps (execPref _hint a _imm) :=
  fun h => word_canonical h fun _ h => h

theorem execBeq_canonical (a b : SReg) (off : BitVec 11) : Keeps (execBeq a b off) := fun h => sBranch_canonical _ _ _ _ h ..

theorem execBne_canonical (a b : SReg) (off : BitVec 11) : Keeps (execBne a b off) := fun h => sBranch_canonical _ _ _ _ h ..

theorem execBlt_canonical (a b : SReg) (off : BitVec 11) : Keeps (execBlt a b off) := fun h => sBranch_canonical _ _ _ _ h ..

theorem execBge_canonical (a b : SReg) (off : BitVec 11) : Keeps (execBge a b off) := fun h => sBranch_canonical _ _ _ _ h ..

theorem execBltu_canonical (a b : SReg) (off : BitVec 11) : Keeps (execBltu a b off) := fun h => sBranch_canonical _ _ _ _ h ..

theorem execBgeu_canonical (a b : SReg) (off : BitVec 11) : Keeps (execBgeu a b off) := fun h => sBranch_canonical _ _ _ _ h ..

theorem execLoop_canonical (a : SReg) (off : BitVec 11) : Keeps (execLoop a off) := fun h => word_canonical h fun s h => by
  dsimp only
  split
  · exact h
  · split
    · exact (jumpTo_canonical _ _ h).map fun _ h => wrS_canonical h ..
    · exact wrS_canonical h ..

theorem execJmp_canonical (off : BitVec 21) : Keeps (execJmp off) := fun h => word_canonical h fun _ h => jumpTo_canonical _ _ h ..

theorem execJal_canonical (d : SReg) (off : BitVec 16) : Keeps (execJal d off) :=
  fun h => word_canonical h fun _ h => (jumpTo_canonical _ _ h).map fun _ h => wrS_canonical h ..

theorem execJalr_canonical (d a : SReg) (imm : BitVec 11) : Keeps (execJalr d a imm) :=
  fun h => word_canonical h fun _ h => (jumpTo_canonical _ _ h).map fun _ h => wrS_canonical h ..

theorem execCall_canonical (off : BitVec 21) : Keeps (execCall off) :=
  fun h => word_canonical h fun _ h => (needStore_canonical _ _).bind fun _ _ => (check_canonical _ _ _).bind fun _ _ =>
  (foldlM_kept (fun _ _ h => laneStore_canonical _ _ _ _ h) _ h).bind fun _ h => jumpTo_canonical _ _ (updCtl_canonical h _)

theorem waitsIn_kept {α : Type} {P : α → Prop} {t : State} (h : t.Canonical) {x : Except Halt α} (hx : Kept Halt.Canonical P x) :
    Kept Halt.Canonical P (waitsIn t x) := by
  unfold waitsIn
  split
  · exact h
  · exact hx

theorem execRet_canonical : Keeps execRet :=
  fun h => word_canonical h fun _ h => waitsIn_kept (setProg_canonical h ..) <| (check_canonical _ _ _).bind fun _ _ =>
  (foldlM_kept (P := SndCanonical) (fun ⟨_, _⟩ _ h => (readNow_canonical _ _ _ _ h).bind fun ⟨_, _⟩ h => h) _ h).bind fun ⟨_, _⟩ h =>
  jumpTo_canonical _ _ <| delay_canonical (updCtl_canonical (foldl_canonical (fun _ _ h => wrS_canonical h ..) _ h) _) ..

theorem execIdle_canonical (n : BitVec 16) : Keeps (execIdle n) := fun h => word_canonical h fun _ h => delay_canonical h ..

theorem macroStep_canonical (d a b : SReg) (e : MacroEntry) (m : MacroRun) {s : State} (h : s.Canonical) :
    Kept Halt.Canonical SndCanonical (macroStep d a b e m s) := by
  -- The decoder stands behind a variable, so that the kernel does not run it.
  obtain ⟨dec, hd⟩ : ∃ dec, @decode = dec := ⟨_, rfl⟩
  generalize hf : @macroStep = f
  delta macroStep at hf
  rw [hd] at hf
  subst hf
  dsimp only
  split
  · exact True.intro
  · split
    · exact True.intro
    · split <;> exact h
    · split
      · exact h
      · refine (locate_canonical _ _ _ _ _ _ h).bind fun ⟨loc, s1⟩ h1 => (register_canonical _ _ _ _ _ _ h1).bind fun s1 h1 =>
          (reached_canonical loc _ _).bind fun _ _ => ?_
        dsimp only
        split
        · exact h
        · refine (finishLoad_canonical h _ ?_).bind fun _ hr => hr
          exact readAcc_canonical (loadLat_canonical h1 ..) ..

theorem execMcall_canonical (n : BitVec 6) (d a b : SReg) : Keeps (execMcall n d a b) :=
  fun h => word_canonical h fun _ h => waitsIn_kept h <| (check_canonical _ _ _).bind fun _ _ =>
  (foldlM_kept (P := SndCanonical) (fun _ _ h => macroStep_canonical _ _ _ _ _ h) _ h).bind fun ⟨_, _⟩ h =>
  delay_canonical (setReady_canonical (foldl_canonical (fun _ _ h => wrS_canonical h ..) _ h) ..) ..

/-! ### Machine/Sync -/

theorem waitAcquire_canonical {s : State} (h : s.Canonical) : s.waitAcquire.Canonical := by
  grind [State.waitAcquire, Halt.Canonical, setProg_canonical]

theorem acquireRead_canonical (a : Word) (n : Nat) {s : State} (h : s.Canonical) :
    Kept Halt.Canonical (fun r : AcqGot => r.st.Canonical) (acquireRead a n s) := by
  refine (locate_canonical _ _ _ _ _ _ h).bind fun ⟨loc, t⟩ ht => (reached_canonical loc _ _).bind fun _ _ => ?_
  grind [Kept, waitAcquire_canonical, loadLat_canonical, readHome_canonical, placeRead_canonical]

theorem sLoadAcq_canonical (d a : SReg) (imm : BitVec 11) (n : Nat) {s : State} (h : s.Canonical) :
    NextCanonical (sLoadAcq d a imm n s) := by
  refine word_canonical h fun t h => ?_
  exact (acquireRead_canonical _ _ h).bind fun g hg => (finishLoad_canonical h _ hg).bind fun r hr =>
    wrS_canonical (acquire_canonical _ hr) ..

theorem releaseWrite_canonical (loc : Loc) (bs : List Byte) {s : State} (h : s.Canonical) : (releaseWrite loc bs s).Canonical := by
  grind [releaseWrite, writeHome_canonical, placeWrite_canonical]

theorem sStoreRel_canonical (a b : SReg) (off : BitVec 11) (n : Nat) {s : State} (h : s.Canonical) :
    NextCanonical (sStoreRel a b off n s) := by
  refine word_canonical h fun t h => ?_
  extract_lets va write
  have hw : ∀ u, Kept Halt.Canonical State.Canonical (write u) := fun u =>
    (locate_canonical _ _ _ _ _ _ h).bind fun ⟨loc, s⟩ h => (reached_canonical loc _ _).bind fun _ _ =>
      (release_canonical _ _ _ h).bind fun s h => releaseWrite_canonical _ _ h
  split
  · exact (needStore_canonical _ _).bind fun _ _ => hw ()
  · exact hw ()

theorem execLdaW_canonical (d a : SReg) (imm : BitVec 11) : Keeps (execLdaW d a imm) := fun h => sLoadAcq_canonical _ _ _ _ h ..

theorem execLdaD_canonical (d a : SReg) (imm : BitVec 11) : Keeps (execLdaD d a imm) := fun h => sLoadAcq_canonical _ _ _ _ h ..

theorem execStlW_canonical (a b : SReg) (off : BitVec 11) : Keeps (execStlW a b off) := fun h => sStoreRel_canonical _ _ _ _ h ..

theorem execStlD_canonical (a b : SReg) (off : BitVec 11) : Keeps (execStlD a b off) := fun h => sStoreRel_canonical _ _ _ _ h ..

theorem aopRead_canonical (loc : Loc) (n : Nat) {s : State} (h : s.Canonical) : (aopRead loc n s).2.Canonical := by
  grind [aopRead, readHome_canonical, excl_canonical, fetch_canonical, placeRead_canonical]

theorem aopWrite_canonical (loc : Loc) (bs : List Byte) {s : State} (h : s.Canonical) : (aopWrite loc bs s).Canonical := by
  grind [aopWrite, writeHome_canonical, writeCached_canonical, poke_canonical, placeWrite_canonical]

theorem sAtomic_canonical (d a : SReg) (n : Nat) (keys : List Nat) (acqs : Bool) (relOn acqOn : State → Nat → Bool)
    (next : State → Nat → Option Nat) {s : State} (h : s.Canonical) :
    NextCanonical (sAtomic d a n keys acqs relOn acqOn next s) := by
  refine word_canonical h fun t h => ?_
  refine (locate_canonical _ _ _ _ _ _ h).bind fun ⟨loc, t1⟩ h1 => (reached_canonical loc _ _).bind fun _ _ => ?_
  dsimp -zeta only
  extract_lets hold
  split
  · grind [Kept, Halt.Canonical, setProg_canonical]
  · have h2 := loadLat_canonical h1 t1.focus loc
    rename_i first done _
    have hd : ∀ t2 : State, t2.Canonical → Kept Halt.Canonical State.Canonical (done t2) := fun t2 h2 => by
      refine (finishLoad_canonical h _ (aopRead_canonical _ _ h2)).bind fun r hr => ?_
      grind [Kept, aopWrite_canonical, acquire_canonical, wrS_canonical]
    split
    · exact (release_canonical _ _ _ h2).bind fun _ h => hd _ h
    · exact hd _ h2

theorem sAtom_canonical (op : AtomOp) (ord : MemOrder) (d a b : SReg) (n : Nat) {s : State} (h : s.Canonical) :
    NextCanonical (sAtom op ord d a b n s) := sAtomic_canonical _ _ _ _ _ _ _ _ h

theorem sCas_canonical (succ fail : MemOrder) (d a b : SReg) (n : Nat) {s : State} (h : s.Canonical) :
    NextCanonical (sCas succ fail d a b n s) := by
  unfold sCas
  exact sAtomic_canonical _ _ _ _ _ _ _ _ h

theorem execAtomW_canonical (op : AtomOp) (ord : MemOrder) (d a b : SReg) : Keeps (execAtomW op ord d a b) :=
  fun h => sAtom_canonical _ _ _ _ _ _ h ..

theorem execAtomD_canonical (op : AtomOp) (ord : MemOrder) (d a b : SReg) : Keeps (execAtomD op ord d a b) :=
  fun h => sAtom_canonical _ _ _ _ _ _ h ..

theorem execCasW_canonical (succ fail : MemOrder) (d a b : SReg) : Keeps (execCasW succ fail d a b) :=
  fun h => sCas_canonical _ _ _ _ _ _ h ..

theorem execCasD_canonical (succ fail : MemOrder) (d a b : SReg) : Keeps (execCasD succ fail d a b) :=
  fun h => sCas_canonical _ _ _ _ _ _ h ..

theorem farMove_canonical (r : FarReq) {s : State} (h : s.Canonical) :
    Kept Halt.Canonical (fun r : FarGot => r.st.Canonical) (farMove r s) := by
  grind [farMove, Kept, Halt.Canonical, recall_canonical, blockWrite_canonical, homeWrite_canonical, poke_canonical]

theorem farDone_canonical (r : FarReq) {s : State} (h : s.Canonical) : Kept Halt.Canonical SndCanonical (farDone r s) := by
  grind [farDone, bind_eq, Kept, farMove_canonical, finishLoad_canonical]

theorem sFatom_canonical (op : AtomOp) (d a b : SReg) (wide : Bool) {s : State} (h : s.Canonical) :
    NextCanonical (sFatom op d a b wide s) := by
  refine word_canonical h fun t h => ?_
  cases t.prog .s
  case result v => exact wrS_canonical h ..
  case far =>
    dsimp only
    split
    · split
      · exact (farDone_canonical _ h).bind fun ⟨_, _⟩ h => wrS_canonical (updMe_canonical h _) ..
      · exact h
    · exact h
  all_goals
    refine (check_canonical _ _ _).bind fun _ _ => (locate_canonical _ _ _ _ _ _ h).bind fun ⟨loc, t1⟩ h1 =>
      (reached_canonical loc _ _).bind fun _ _ => ?_
    dsimp only
    split
    · exact h1
    · split
      · exact (farDone_canonical _ h1).bind fun ⟨_, _⟩ h => wrS_canonical (openLat_canonical h) ..
      · exact h1

theorem execFatomW_canonical (op : AtomOp) (d a b : SReg) : Keeps (execFatomW op d a b) := fun h => sFatom_canonical _ _ _ _ _ h ..

theorem execFatomD_canonical (op : AtomOp) (d a b : SReg) : Keeps (execFatomD op d a b) := fun h => sFatom_canonical _ _ _ _ _ h ..

theorem execFence_canonical (kind : FenceKind) (scope : Scope) : Keeps (execFence kind scope) :=
  fun h => word_canonical h fun s h => by
  extract_lets finish
  have hf : ∀ s1 : State, s1.Canonical → Kept Halt.Canonical State.Canonical (finish s1) := fun s1 h1 => by
    have h2 := acquire_canonical scope h1
    cases kind <;> grind [Kept, delay_canonical, openLat_canonical]
  clear_value finish
  cases kind with
  | full => exact (release_canonical _ _ _ h).bind hf
  | rel => exact (release_canonical _ _ _ h).bind hf
  | acq =>
    have hw := waitAcquire_canonical h
    grind [Kept, Halt.Canonical, bind_eq]

theorem execVfence_canonical : Keeps execVfence := fun h => word_canonical h fun s h => by
  extract_lets p
  split
  · exact delay_canonical (newRegion_canonical h) ..
  · exact setProg_canonical h ..

theorem settleSig_canonical {s : State} (h : s.Canonical) (g : SgReg) : (s.settleSig g).Canonical := by
  unfold State.settleSig
  split <;> exact h

theorem execSigadd_canonical (g : SgReg) (a : SReg) : Keeps (execSigadd g a) := fun h => word_canonical h fun _ h => by
  grind [bind_eq, Kept, check_canonical, release_canonical, pendSig_canonical]

theorem execSigwait_canonical (g : SgReg) (a : SReg) : Keeps (execSigwait g a) := fun h => word_canonical h fun s h => by
  have hs := settleSig_canonical h g
  have hw := waitAcquire_canonical hs
  grind [Kept, acquire_canonical, updMe_canonical]

theorem execSigexpect_canonical (g : SgReg) (a : SReg) : Keeps (execSigexpect g a) :=
  fun h => word_canonical h fun _ h => settleSig_canonical h ..

theorem execSigread_canonical (d : SReg) (g : SgReg) : Keeps (execSigread d g) :=
  fun h => word_canonical h fun _ h => wrS_canonical h ..

theorem setRing_canonical {s : State} (h : s.Canonical) (c : CoreId) (r : BitVec 4) (x : Ring) : (s.setRing c r x).Canonical := h

theorem needRing_canonical (x : Ring) (r : BitVec 4) : Kept Halt.Canonical Free (needRing x r) := check_canonical _ _ _

theorem needSlot_canonical (x : Core) (off : Nat) (a : Word) : Kept Halt.Canonical Free (needSlot x off a) := check_canonical _ _ _

theorem execRingclaim_canonical (d : SReg) (r : BitVec 4) (a : SReg) : Keeps (execRingclaim d r a) :=
  fun h => word_canonical h fun _ h => by
  grind [bind_eq, Kept, needRing_canonical, needSlot_canonical, wrS_canonical, acquire_canonical, setRing_canonical,
    waitAcquire_canonical]

theorem execRingcommit_canonical (r : BitVec 4) (a : SReg) : Keeps (execRingcommit r a) := fun h => word_canonical h fun s h => by
  dsimp only
  split
  · exact True.intro
  · refine (needRing_canonical _ _).bind fun _ _ => ?_
    split
    · exact True.intro
    · split
      · exact True.intro
      · exact (needSlot_canonical _ _ _).bind fun _ _ => (release_canonical _ _ _ h).bind fun _ h =>
          updMe_canonical (setRing_canonical h ..) _

theorem execRingwaitf_canonical (r : BitVec 4) (a : SReg) : Keeps (execRingwaitf r a) :=
  fun h => word_canonical h fun s h => (needRing_canonical _ _).bind fun _ _ => (check_canonical _ _ _).bind fun _ _ => by
  split
  · exact h
  · exact setRing_canonical h ..

theorem execRingwaite_canonical (r : BitVec 4) (a : SReg) : Keeps (execRingwaite r a) :=
  fun h => word_canonical h fun s h => (needRing_canonical _ _).bind fun _ _ => (check_canonical _ _ _).bind fun _ _ => by
  split <;> exact h

theorem execRingtake_canonical (d : SReg) (r : BitVec 4) : Keeps (execRingtake d r) := fun h => word_canonical h fun _ h => by
  grind [bind_eq, Kept, needRing_canonical, waitAcquire_canonical, needSlot_canonical, updMe_canonical, setRing_canonical,
    wrS_canonical, acquire_canonical]

theorem execRingdone_canonical (r : BitVec 4) (a : SReg) : Keeps (execRingdone r a) :=
  fun h => word_canonical h fun s h => (needRing_canonical _ _).bind fun _ _ => by
  split
  · exact True.intro
  · split
    · exact True.intro
    · split
      · exact True.intro
      · exact (needSlot_canonical _ _ _).bind fun _ _ => (release_canonical _ _ _ h).bind fun _ h => setRing_canonical h ..

theorem execSync_canonical : Keeps execSync := fun h => word_canonical h fun _ h => updMe_canonical h ..

theorem execTickwait_canonical (a : SReg) : Keeps (execTickwait a) := fun h => word_canonical h fun s h => by
  dsimp only
  split
  · exact True.intro
  · split
    · exact True.intro
    · exact updMe_canonical h _

theorem passLamp_canonical {s : State} (h : s.Canonical) (c : CoreId) (id : Nat) (to_ : List CoreId) (lb : Bool) (ls : BitVec 32) :
    (s.passLamp c id to_ lb ls).Canonical := h

theorem sendLamp_canonical {s : State} (h : s.Canonical) (c : CoreId) : (s.sendLamp c).Canonical := by
  unfold State.sendLamp
  dsimp only
  split <;> exact h

theorem execLampsend_canonical : Keeps execLampsend := fun h => word_canonical h fun _ h => sendLamp_canonical h ..

theorem execLamptest_canonical (d : SReg) : Keeps (execLamptest d) := fun h => word_canonical h fun _ h => wrS_canonical h ..

end Sys2Proof.Machine
end

section
/-! SUPPORT. The canonical form of memory, transfers and feeds. -/

namespace Sys2Proof.Machine

open Sys2Proof

theorem rowAperture_canonical (s : State) (ps : List Piece) : Kept Halt.Canonical Free (rowAperture s ps) := by
  unfold rowAperture
  split <;> exact True.intro

theorem rowAcc_canonical (s : State) (x : List Piece) : Kept Halt.Canonical Free (rowAcc s x) := by
  induction x with
  | nil => exact True.intro
  | cons p t ih =>
    unfold rowAcc
    split
    · exact (check_canonical _ _ _).bind fun _ _ => (check_canonical _ _ _).bind fun _ _ => (check_canonical _ _ _).bind fun _ _ => ih
    · exact ih

theorem rowAlign_canonical (w : Nat) (rs : List (Word × Nat)) : Kept Halt.Canonical Free (rowAlign w rs) := by
  unfold rowAlign
  split <;> exact True.intro

theorem rowOwner_canonical (s : State) (ps : List Piece) : Kept Halt.Canonical Free (rowOwner s ps) := by
  unfold rowOwner
  split <;> exact True.intro

theorem needWalks_canonical (ds : List (Desc × BitVec 4)) : Kept Halt.Canonical Free (needWalks ds) := by
  unfold needWalks
  split
  · split <;> exact True.intro
  · split <;> exact True.intro

theorem needRuns_canonical (wr rd : List (Word × Nat)) {align : Except Halt Unit} (ha : Kept Halt.Canonical Free align) (s : State) :
    Kept Halt.Canonical Free (needRuns wr rd align s) :=
  (rowAperture_canonical _ _).bind fun _ _ => (rowAcc_canonical _ _).bind fun _ _ => ha.bind fun _ _ => rowOwner_canonical _ _

theorem xRecord_canonical {s : State} (h : s.Canonical) (src : Nat) (f : XFail) (resolvable : Bool) (off : Nat) :
    (s.xRecord src f resolvable off).2.Canonical := h

theorem updXfer_canonical {s : State} (h : s.Canonical) (id : Nat) (f : Transfer → Transfer) : (s.updXfer id f).Canonical := h

theorem dropXfer_canonical {s : State} (h : s.Canonical) (id : Nat) : (s.dropXfer id).Canonical := h

theorem loseXfer_canonical {s : State} (h : s.Canonical) (t : Transfer) (tok : Nat) : (s.loseXfer t tok).Canonical := by
  unfold State.loseXfer
  split <;> exact h

theorem failXfer_canonical {s : State} (h : s.Canonical) (t : Transfer) (f : XFail) (resolvable : Bool) :
    (s.failXfer t f resolvable).Canonical := by
  grind [State.failXfer, updPkg_canonical, xRecord_canonical, updXfer_canonical, loseXfer_canonical]

theorem via_kept {α : Type} {P : α → Prop} (d : Nat) {x : Except Halt α} (hx : Kept Halt.Canonical P x) : Kept Free P (via d x) := by
  unfold via
  split
  · exact hx
  all_goals exact True.intro

theorem reqRead_canonical (w : Who) (r : Req) (at_ : Nat) {s : State} (h : s.Canonical) :
    Kept Free (fun r : EngGot => r.st.Canonical) (reqRead w r at_ s) :=
  (via_kept _ (engineRead_canonical _ _ _ h)).bind fun _ hg => hg

theorem Part.read_canonical (p : Part) (w : Who) (r : Req) {s : State} (h : s.Canonical) :
    Kept Free SndCanonical (p.read w r s) := by
  grind [Part.read, bind_eq, Kept, reqRead_canonical]

theorem Transfer.make_canonical (t : Transfer) (u : Nat) (p : Part) {s : State} (h : s.Canonical) :
    Kept Free ThdCanonical (t.make u p s) := by
  unfold Transfer.make
  dsimp only
  split
  · exact h
  · exact h
  · exact h
  · exact h
  · exact h
  · exact h
  · split
    · exact True.intro
    · exact h
  · exact h
  · exact h
  · exact h
  · exact poke_canonical h ..
  · split <;> exact h
  · exact h

theorem Transfer.made_canonical (t : Transfer) (u : Nat) (p : Part) {s : State} (h : s.Canonical) :
    Kept Free SndCanonical (t.made u p s) := (Transfer.make_canonical _ _ _ h ..).bind fun ⟨_, _, _⟩ h1 => h1

theorem xMove_canonical (t : Transfer) (u : Nat) {s : State} (h : s.Canonical) : Kept Free SndCanonical (xMove t u s) := by
  unfold xMove
  dsimp only
  split
  · refine (kept_free _).bind fun rs _ => ?_
    split
    · exact Transfer.made_canonical _ _ _ h
    · refine (Part.read_canonical _ _ _ h).bind fun ⟨p, s⟩ h => (kept_free _).bind fun rs _ => ?_
      dsimp only
      split
      · exact Transfer.made_canonical _ _ _ h
      · exact h
  · split
    · exact h
    · exact (via_kept _ (engineWrite_canonical _ _ _ h)).bind fun _ h => h

theorem skipMember_canonical {s : State} (h : s.Canonical) (t : Transfer) (m : Nat) (f : XFail) :
    (s.skipMember t m f).Canonical := by
  unfold State.skipMember
  split <;> exact h

theorem doUnit_canonical {s : State} (h : s.Canonical) (t : Transfer) (u : Nat) : (s.doUnit t u).Canonical := by
  grind [State.doUnit, Kept, xMove_canonical, updXfer_canonical, pendDone_canonical, skipMember_canonical, failXfer_canonical]

theorem endXfer_canonical {s : State} (h : s.Canonical) (t : Transfer) : (s.endXfer t).Canonical := by
  have h1 := dropXfer_canonical h t.id
  unfold State.endXfer
  extract_lets s1 own
  have ho : ∀ {s : State}, s.Canonical → (own s).Canonical := by grind [pendDone_canonical]
  split
  · grind [pendSig_canonical]
  · grind [pendDone_canonical]
  · split
    · exact updMe_canonical h1 _
    · extract_lets s2
      have h2 : s2.Canonical := by
        dsimp only [s2]
        split
        · exact foldl_canonical (fun s a h => pendDone_canonical h ..) _ h1
        · exact h1
      grind [pendDone_canonical]
  · grind [updCtl_canonical, raiseM_canonical]
  · grind [raiseM_canonical]
  · exact ho h1

theorem itemMove_canonical {s : State} (h : s.Canonical) (t : Transfer) : (s.itemMove t).Canonical := by
  unfold State.itemMove
  split
  · split
    · exact endXfer_canonical h ..
    · exact h
  · exact doUnit_canonical h ..

theorem runItem_canonical (x y : Nat) {s : State} (h : s.Canonical) : (runItem x y s).Canonical := by
  induction x generalizing s with
  | zero => exact h
  | succ n ih =>
    unfold runItem
    grind [itemMove_canonical]

theorem xferSettle_canonical {s : State} (h : s.Canonical) : s.xferSettle.Canonical := by
  refine foldl_canonical (fun s id h => ?_) _ h
  grind [runItem_canonical]

theorem feedLat_canonical {s : State} (h : s.Canonical) (d : Desc) : (feedLat s d).2.Canonical := by
  unfold feedLat
  split
  · exact h
  · exact h
  · exact h
  · exact openLat_canonical h ..

theorem feedShape_canonical (b : Bool) (x : XdReg) (d : Desc) : Kept Halt.Canonical Free (feedShape b x d) := by
  unfold feedShape
  split <;> exact check_canonical _ _ _

theorem feedCheck_canonical (b : Bool) (x : XdReg) (d : Desc) (f : FeedFmt) (n : Nat) (s : State) :
    Kept Halt.Canonical Free (feedCheck b x d f n s) := by
  unfold feedCheck
  refine (feedShape_canonical _ _ _).bind fun _ _ => ?_
  split
  · exact (check_canonical _ _ _).bind fun _ _ => (check_canonical _ _ _).bind fun _ _ => needRuns_canonical _ _ (rowAlign_canonical _ _) _
  · refine (check_canonical _ _ _).bind fun _ _ => (check_canonical _ _ _).bind fun _ _ => needRuns_canonical _ _ ?_ _
    split
    · exact True.intro
    · exact rowAlign_canonical _ _

theorem moveCur_canonical {s : State} (h : s.Canonical) (f : Feed) (was now_ : BitVec 32) : (s.moveCur f was now_).Canonical := h

theorem endFeed_canonical {s : State} (h : s.Canonical) (f : Feed) (tok : Nat) : (s.endFeed f tok).Canonical := by
  unfold State.endFeed
  split <;> exact h

theorem refuseFeed_canonical {s : State} (h : s.Canonical) (f : Feed) (e : XFail) : (s.refuseFeed f e).Canonical :=
  endFeed_canonical (xRecord_canonical h ..) ..

theorem settleFeed_canonical {s : State} (h : s.Canonical) (n id : Nat) : (s.settleFeed n id).Canonical := by
  grind [State.settleFeed, refuseFeed_canonical, feedCheck_canonical, updMe_canonical, moveCur_canonical]

theorem settleFormats_canonical {s : State} (h : s.Canonical) : s.settleFormats.Canonical := by
  have hp := pending_canonical h
  unfold State.settleFormats
  extract_lets held
  split
  · exact h
  · split
    rename_i p t ht
    rw [ht] at hp
    split
    · exact hp
    · exact hp
    · split
      · exact hp
      · refine foldl_canonical (fun s id h => ?_) _ hp
        grind [refuseFeed_canonical]
    · exact foldl_canonical (fun s id h => settleFeed_canonical h _ _) _ hp

theorem Feed.move_canonical (f : Feed) (t : FeedFmt) {s : State} (h : s.Canonical) : Kept Free SndCanonical (f.move t s) := by
  unfold Feed.move
  split
  · exact h
  · refine (Part.read_canonical _ _ _ h ..).bind fun ⟨_, _⟩ h1 => ?_
    exact h1

theorem Feed.readAll_canonical (t : FeedFmt) (x : Nat) (y : Feed) {s : State} (h : s.Canonical) :
    Kept Free SndCanonical (Feed.readAll t x y s) := by
  induction x generalizing y s with
  | zero => exact h
  | succ n ih => exact (Feed.move_canonical _ _ h).bind fun ⟨_, _⟩ h => ih _ h

theorem failFeed_canonical {s : State} (h : s.Canonical) (f : Feed) (t : FeedFmt) (e : XFail) : (s.failFeed f t e).Canonical := h

theorem pushEntry_canonical {s : State} (h : s.Canonical) (b : Bool) : (s.pushEntry b).Canonical := by
  grind [State.pushEntry, Kept, Feed.readAll_canonical, failFeed_canonical, updMe_canonical]

theorem pushAll_canonical (b : Bool) (x : Nat) {s : State} (h : s.Canonical) : (pushAll b x s).Canonical := by
  induction x generalizing s with
  | zero => exact h
  | succ n ih =>
    unfold pushAll
    grind [pushEntry_canonical]

theorem feedSettle_canonical {s : State} (h : s.Canonical) : s.feedSettle.Canonical := by
  grind [State.feedSettle, pushAll_canonical, settleFormats_canonical]

theorem needRoom_canonical (s : State) : Kept Halt.Canonical Free (needRoom s) := needThat_canonical _ _

theorem accept_canonical {s : State} (h : s.Canonical) (t : Transfer) (lat : Option Nat) : (s.accept t lat).Canonical := by
  grind [State.accept, take_canonical, openLat_canonical, updMe_canonical, endXfer_canonical]

theorem execXcopy_canonical (a b : XdReg) (sg : SgReg) (se : Bool) : Keeps (execXcopy a b sg se) :=
  fun h => word_canonical h fun _ h => (needRoom_canonical _).bind fun _ _ => (needWalks_canonical _).bind fun _ _ =>
  (check_canonical _ _ _).bind fun _ _ => (needRuns_canonical _ _ (kept_ok True.intro) _).bind fun _ _ => accept_canonical h ..

theorem haloTarget_canonical (d : Desc) (ps : List Piece) (s : State) : Kept Halt.Canonical Free (haloTarget d ps s) := by
  grind [haloTarget, bind_eq, Kept, Halt.Canonical, check_canonical]

theorem execXhalo_canonical (a b : XdReg) (sg : SgReg) (se : Bool) : Keeps (execXhalo a b sg se) :=
  fun h => word_canonical h fun _ h => (needRoom_canonical _).bind fun _ _ => (needWalks_canonical _).bind fun _ _ =>
  (check_canonical _ _ _).bind fun _ _ => (rowAperture_canonical _ _).bind fun _ _ => (haloTarget_canonical _ _ _).bind fun ⟨_, _⟩ _ =>
  (rowAcc_canonical _ _).bind fun _ _ => (rowOwner_canonical _ _).bind fun _ _ => accept_canonical h ..

theorem execXmcast_canonical (mc : McReg) (b : XdReg) (sg : SgReg) (se : Bool) : Keeps (execXmcast mc b sg se) :=
  fun h => word_canonical h fun _ h => (needRoom_canonical _).bind fun _ _ => (needWalks_canonical _).bind fun _ _ => by
  dsimp only
  split
  · exact True.intro
  · exact (needRuns_canonical _ _ (kept_ok True.intro) _).bind fun _ _ => accept_canonical h ..

theorem execXgather_canonical (a b c : XdReg) (sg : SgReg) (se : Bool) : Keeps (execXgather a b c sg se) :=
  fun h => word_canonical h fun _ h => (needRoom_canonical _).bind fun _ _ => (needWalks_canonical _).bind fun _ _ =>
  (check_canonical _ _ _).bind fun _ _ => (check_canonical _ _ _).bind fun _ _ =>
  (needRuns_canonical _ _ (rowAlign_canonical _ _) _).bind fun _ _ => accept_canonical h ..

theorem xZero_canonical (enc : Bool) (w : ZcWidth) (a b : XdReg) (sg : SgReg) (se : Bool) {s : State} (h : s.Canonical) :
    NextCanonical (xZero enc w a b sg se s) :=
  word_canonical h fun _ h => (needRoom_canonical _).bind fun _ _ => (needWalks_canonical _).bind fun _ _ =>
    (check_canonical _ _ _).bind fun _ _ =>
  (check_canonical _ _ _).bind fun _ _ => (needRuns_canonical _ _ (rowAlign_canonical _ _) _).bind fun _ _ => accept_canonical h ..

theorem execXzce_canonical (w : ZcWidth) (a b : XdReg) (sg : SgReg) (se : Bool) : Keeps (execXzce w a b sg se) :=
  fun h => xZero_canonical _ _ _ _ _ _ h ..

theorem execXzcd_canonical (w : ZcWidth) (a b : XdReg) (sg : SgReg) (se : Bool) : Keeps (execXzcd w a b sg se) :=
  fun h => xZero_canonical _ _ _ _ _ _ h ..

theorem execXdelta_canonical (ty : EType) (a b : XdReg) (sg : SgReg) (se : Bool) : Keeps (execXdelta ty a b sg se) :=
  fun h => word_canonical h fun _ h => (needRoom_canonical _).bind fun _ _ => (needWalks_canonical _).bind fun _ _ =>
  (check_canonical _ _ _).bind fun _ _ =>
  (needRuns_canonical _ _ ((rowAlign_canonical _ _).bind fun _ _ => rowAlign_canonical _ _) _).bind fun _ _ => accept_canonical h ..

theorem xFeed_canonical (b : Bool) (x : XdReg) (n1 : BitVec 8) {s : State} (h : s.Canonical) : NextCanonical (xFeed b x n1 s) := by
  refine word_canonical h fun s h => (needThat_canonical _ _).bind fun _ _ => ?_
  dsimp -zeta only
  extract_lets f add
  have hadd : ∀ {s : State} f, s.Canonical → (add s f).Canonical := fun _ h => updMe_canonical h _
  have hp := pending_canonical (take_canonical (feedLat_canonical h (s.rdXd x)))
  refine (feedShape_canonical _ _ _).bind fun _ _ => ?_
  split
  next k s2 hk =>
    rw [hk] at hp
    dsimp only
    split
    · exact refuseFeed_canonical (hadd _ hp) ..
    · exact (feedCheck_canonical _ _ _ _ _ _).bind fun _ _ => hadd _ (advance_canonical hp ..)
  next s2 _ hk =>
    rw [hk] at hp
    exact hadd _ hp

theorem execXfeeda_canonical (a : XdReg) (n1 : BitVec 8) : Keeps (execXfeeda a n1) := fun h => xFeed_canonical _ _ _ h ..

theorem execXfeedb_canonical (a : XdReg) (n1 : BitVec 8) : Keeps (execXfeedb a n1) := fun h => xFeed_canonical _ _ _ h ..

theorem execXsig_canonical (sg : SgReg) (n : BitVec 8) : Keeps (execXsig sg n) :=
  fun h => word_canonical h fun _ h => accept_canonical h ..

theorem execXloop_canonical (n : BitVec 10) (off : BitVec 13) : Keeps (execXloop n off) := fun h => word_canonical h fun s h => by
  extract_lets a back
  have hb : ∀ r, Kept Halt.Canonical State.Canonical (back r) := fun _ => (jumpTo_canonical _ _ h).map fun _ h => updMe_canonical h _
  clear_value back
  grind [Kept, updMe_canonical]

theorem execXnop_canonical : Keeps execXnop := fun h => word_canonical h fun _ h => h

theorem execXwait_canonical : Keeps execXwait := fun h => word_canonical h fun s h => by
  split
  · exact h
  · exact reportLost_canonical h

theorem execMdrain_canonical (ab : AbReg) (count : BitVec 6) (x : XdReg) (sg : SgReg) (se : Bool) : Keeps (execMdrain ab count x sg se) :=
  fun h => word_canonical h fun s h => (needEngine_canonical h).bind fun _ _ => (needBanks_canonical _ _ _).bind fun _ _ => by
  split
  · exact True.intro
  · refine (check_canonical _ _ _).bind fun _ _ => (check_canonical _ _ _).bind fun _ _ => (needAlloc_canonical _ _ _).bind fun _ _ => ?_
    split
    · exact True.intro
    · exact (needWalks_canonical _).bind fun _ _ => (check_canonical _ _ _).bind fun _ _ =>
        (needRuns_canonical _ _ (rowAlign_canonical _ _) _).bind fun _ _ => accept_canonical (engineBusy_canonical h _) ..

theorem execMload_canonical (ab : AbReg) (count : BitVec 6) (x : XdReg) : Keeps (execMload ab count x) :=
  fun h => word_canonical h fun s h => (needEngine_canonical h).bind fun _ _ => (needBanks_canonical _ _ _).bind fun _ _ =>
  (check_canonical _ _ _).bind fun _ _ => (needAlloc_canonical _ _ _).bind fun _ _ => (needWalks_canonical _).bind fun _ _ =>
  (check_canonical _ _ _).bind fun _ _ => by
  dsimp only
  split
  · exact True.intro
  · exact (needRuns_canonical _ _ (kept_ok True.intro) _).bind fun _ _ => accept_canonical h ..

theorem execMfmt_canonical (mf : MfReg) (x : XdReg) : Keeps (execMfmt mf x) :=
  fun h => word_canonical h fun _ h => (needEngine_canonical h).bind fun _ _ => (needWalks_canonical _).bind fun _ _ =>
  (check_canonical _ _ _).bind fun _ _ => (needRuns_canonical _ _ (kept_ok True.intro) _).bind fun _ _ => accept_canonical h ..

theorem engFeed_canonical {s : State} (h : s.Canonical) (id : Nat) : (s.engFeed id).Canonical := by
  grind [State.engFeed, Kept, Feed.move_canonical, updMe_canonical, failFeed_canonical]

theorem execEvEng_canonical : Keeps execEvEng := fun h => event_canonical h fun s h => by
  split
  · split
    · exact doUnit_canonical h ..
    · exact h
  · exact engFeed_canonical h ..

theorem endPosted_canonical {s : State} (h : s.Canonical) : s.endPosted.Canonical := by
  refine foldl_canonical (fun s f h => ?_) _ (foldl_canonical (fun s t h => ?_) _ h)
  · grind [endFeed_canonical]
  · grind [loseXfer_canonical]

theorem execEvDone_canonical : Keeps execEvDone := fun h => event_canonical h fun s h => by
  split
  · split
    · exact endXfer_canonical h ..
    · exact h
  · exact h

theorem execFeedEntryPush_canonical : Keeps execFeedEntryPush := fun h => event_canonical h fun _ h => pushEntry_canonical h ..

theorem execManifestResolve_canonical : Keeps execManifestResolve :=
  fun h => event_canonical h fun _ h => settleFormats_canonical h ..

theorem execRetry_canonical : Keeps execRetry := fun h => event_canonical h fun s h => by
  split <;> exact h

theorem execAbandon_canonical : Keeps execAbandon := fun h => event_canonical h fun _ h => by
  grind [canonical_mk, wf_mem, updMe_canonical, dropXfer_canonical, endFeed_canonical]

end Sys2Proof.Machine
end

section
/-! SUPPORT. The canonical form of memory, vector words. -/

namespace Sys2Proof.Machine

open Sys2Proof

/-! ### Machine/Vector -/

theorem execVsetshape_canonical (ty : EType) (vl : BitVec 9) : Keeps (execVsetshape ty vl) := fun h => word_canonical h fun _ h => h

theorem execVadd_canonical (d a b : VReg) (p : PReg) : Keeps (execVadd d a b p) := fun h => vBin_canonical _ _ _ _ _ _ _ h ..

theorem execVsub_canonical (d a b : VReg) (p : PReg) : Keeps (execVsub d a b p) := fun h => vBin_canonical _ _ _ _ _ _ _ h ..

theorem execVmul_canonical (d a b : VReg) (p : PReg) : Keeps (execVmul d a b p) := fun h => vBin_canonical _ _ _ _ _ _ _ h ..

theorem execVdiv_canonical (d a b : VReg) (p : PReg) : Keeps (execVdiv d a b p) := fun h => vBin_canonical _ _ _ _ _ _ _ h ..

theorem execVmin_canonical (d a b : VReg) (p : PReg) : Keeps (execVmin d a b p) := fun h => vBin_canonical _ _ _ _ _ _ _ h ..

theorem execVmax_canonical (d a b : VReg) (p : PReg) : Keeps (execVmax d a b p) := fun h => vBin_canonical _ _ _ _ _ _ _ h ..

theorem execVfma_canonical (d a b : VReg) (p : PReg) : Keeps (execVfma d a b p) := fun h => vTri_canonical _ _ _ _ _ _ _ h ..

theorem execVfms_canonical (d a b : VReg) (p : PReg) : Keeps (execVfms d a b p) := fun h => vTri_canonical _ _ _ _ _ _ _ h ..

theorem execVfnma_canonical (d a b : VReg) (p : PReg) : Keeps (execVfnma d a b p) := fun h => vTri_canonical _ _ _ _ _ _ _ h ..

theorem execVcmul_canonical (d a b : VReg) (p : PReg) : Keeps (execVcmul d a b p) := fun h => vBin_canonical _ _ _ _ _ _ _ h ..

theorem execVabs_canonical (d a : VReg) (p : PReg) : Keeps (execVabs d a p) := fun h => vUn_canonical _ _ _ _ _ _ h ..

theorem execVneg_canonical (d a : VReg) (p : PReg) : Keeps (execVneg d a p) := fun h => vUn_canonical _ _ _ _ _ _ h ..

theorem vTrans_canonical (d a : VReg) (p : PReg) (f : Nat → Nat × FpFlags) {s : State} (h : s.Canonical) :
    NextCanonical (vTrans d a p f s) := vUn_canonical _ _ _ _ _ _ h

theorem execVrcp_canonical (d a : VReg) (p : PReg) : Keeps (execVrcp d a p) := fun h => vTrans_canonical _ _ _ _ h ..

theorem execVrsqrt_canonical (d a : VReg) (p : PReg) : Keeps (execVrsqrt d a p) := fun h => vTrans_canonical _ _ _ _ h ..

theorem execVsqrt_canonical (d a : VReg) (p : PReg) : Keeps (execVsqrt d a p) := fun h => vTrans_canonical _ _ _ _ h ..

theorem execVexp2_canonical (d a : VReg) (p : PReg) : Keeps (execVexp2 d a p) := fun h => vTrans_canonical _ _ _ _ h ..

theorem execVlog2_canonical (d a : VReg) (p : PReg) : Keeps (execVlog2 d a p) := fun h => vTrans_canonical _ _ _ _ h ..

theorem execVsinpi_canonical (d a : VReg) (p : PReg) : Keeps (execVsinpi d a p) := fun h => vTrans_canonical _ _ _ _ h ..

theorem execVcospi_canonical (d a : VReg) (p : PReg) : Keeps (execVcospi d a p) := fun h => vTrans_canonical _ _ _ _ h ..

theorem execVsig_canonical (d a : VReg) (p : PReg) : Keeps (execVsig d a p) := fun h => vTrans_canonical _ _ _ _ h ..

theorem execViadd_canonical (d a b : VReg) (p : PReg) : Keeps (execViadd d a b p) := fun h => vBin_canonical _ _ _ _ _ _ _ h ..

theorem execVisub_canonical (d a b : VReg) (p : PReg) : Keeps (execVisub d a b p) := fun h => vBin_canonical _ _ _ _ _ _ _ h ..

theorem execVimul_canonical (d a b : VReg) (p : PReg) : Keeps (execVimul d a b p) := fun h => vBin_canonical _ _ _ _ _ _ _ h ..

theorem execVand_canonical (d a b : VReg) (p : PReg) : Keeps (execVand d a b p) := fun h => vBin_canonical _ _ _ _ _ _ _ h ..

theorem execVor_canonical (d a b : VReg) (p : PReg) : Keeps (execVor d a b p) := fun h => vBin_canonical _ _ _ _ _ _ _ h ..

theorem execVxor_canonical (d a b : VReg) (p : PReg) : Keeps (execVxor d a b p) := fun h => vBin_canonical _ _ _ _ _ _ _ h ..

theorem execVshl_canonical (d a b : VReg) (p : PReg) : Keeps (execVshl d a b p) := fun h => vBin_canonical _ _ _ _ _ _ _ h ..

theorem execVshr_canonical (d a b : VReg) (p : PReg) : Keeps (execVshr d a b p) := fun h => vBin_canonical _ _ _ _ _ _ _ h ..

theorem execVsra_canonical (d a b : VReg) (p : PReg) : Keeps (execVsra d a b p) := fun h => vBin_canonical _ _ _ _ _ _ _ h ..

theorem vCompare_canonical (d : PReg) (a b : VReg) (p : PReg) (ok : EType → Bool) (f : EType → Nat → Nat → Bool × FpFlags) {s : State}
    (h : s.Canonical) :
    NextCanonical (vCompare d a b p ok f s) :=
  vGuarded_canonical h _ _ _ _ fun _ _ _ h => (needSane_canonical _ _ _).bind fun _ _ => (raiseFlags_canonical _ h).bind fun _ h =>
  wrP_canonical h ..

theorem execVcmp_canonical (c : Cmp) (d : PReg) (a b : VReg) (p : PReg) : Keeps (execVcmp c d a b p) :=
  fun h => vCompare_canonical _ _ _ _ _ _ h ..

theorem execVcmpU_canonical (c : CmpU) (d : PReg) (a b : VReg) (p : PReg) : Keeps (execVcmpU c d a b p) :=
  fun h => vCompare_canonical _ _ _ _ _ _ h ..

theorem pLogic_canonical (d a b : PReg) (f : Bool → Bool → Bool) {s : State} (h : s.Canonical) : NextCanonical (pLogic d a b f s) :=
  wordK_canonical h fun _ h => wrP_canonical h ..

theorem execPand_canonical (d a b : PReg) : Keeps (execPand d a b) := fun h => pLogic_canonical _ _ _ _ h ..

theorem execPor_canonical (d a b : PReg) : Keeps (execPor d a b) := fun h => pLogic_canonical _ _ _ _ h ..

theorem execPxor_canonical (d a b : PReg) : Keeps (execPxor d a b) := fun h => pLogic_canonical _ _ _ _ h ..

theorem execPcount_canonical (d : SReg) (a : PReg) : Keeps (execPcount d a) :=
  fun h => wordK_canonical h fun _ h => wrSv_canonical h ..

theorem vConvert_canonical (i : Instr) (d a : VReg) (ty : EType) (rm : Rm) (sat : Bool) (p : PReg) {s : State} (h : s.Canonical) :
    NextCanonical (vConvert i d a ty rm sat p s) :=
  vGuarded_canonical h _ _ _ _ fun _ _ _ h => (check_canonical _ _ _).bind fun _ _ => (needShape_canonical _ _).bind fun _ _ =>
  vWrite_canonical _ _ _ _ _ h

theorem execVcvt_canonical (d a : VReg) (ty : EType) (rm : Rm) (p : PReg) : Keeps (execVcvt d a ty rm p) :=
  fun h => vConvert_canonical _ _ _ _ _ _ _ h ..

theorem execVcvtS_canonical (d a : VReg) (ty : EType) (rm : Rm) (p : PReg) : Keeps (execVcvtS d a ty rm p) :=
  fun h => vConvert_canonical _ _ _ _ _ _ _ h ..

theorem execVql4dec_canonical (d a : VReg) (blk : BitVec 2) (p : PReg) : Keeps (execVql4dec d a blk p) :=
  fun h => vGuarded_canonical h _ _ _ _ fun _ _ _ h => vWrite_canonical _ _ _ _ _ h

theorem execVql4enc_canonical (d a : VReg) (p : PReg) : Keeps (execVql4enc d a p) :=
  fun h => vGuarded_canonical h _ _ _ _ fun _ _ _ h => (needSane_canonical _ _ _).bind fun _ _ =>
    (raiseFlags_canonical _ h).bind fun _ h => wrV_canonical h ..

theorem vReduce_canonical (op : RedOp) (d a : VReg) (p : PReg) {s : State} (h : s.Canonical) : NextCanonical (vReduce op d a p s) :=
  vGuarded_canonical h _ _ _ _ fun _ _ _ h => vWrite_canonical _ _ _ _ _ h

theorem execVredsum_canonical (d a : VReg) (p : PReg) : Keeps (execVredsum d a p) := fun h => vReduce_canonical _ _ _ _ h ..

theorem execVredmax_canonical (d a : VReg) (p : PReg) : Keeps (execVredmax d a p) := fun h => vReduce_canonical _ _ _ _ h ..

theorem execVredmin_canonical (d a : VReg) (p : PReg) : Keeps (execVredmin d a p) := fun h => vReduce_canonical _ _ _ _ h ..

theorem execVscan_canonical (d a : VReg) (p : PReg) : Keeps (execVscan d a p) :=
  fun h => vGuarded_canonical h _ _ _ _ fun _ _ _ h => vWrite_canonical _ _ _ _ _ h

theorem execVperm_canonical (d a b : VReg) (p : PReg) : Keeps (execVperm d a b p) :=
  fun h => vGuarded_canonical h _ _ _ _ fun _ _ _ h => vWrite_canonical _ _ _ _ _ h

theorem execVslide_canonical (d a : VReg) (n : BitVec 6) (p : PReg) : Keeps (execVslide d a n p) :=
  fun h => vGuarded_canonical h _ _ _ _ fun _ _ _ h => vWrite_canonical _ _ _ _ _ h

theorem execVbcast_canonical (d : VReg) (a : SReg) (p : PReg) : Keeps (execVbcast d a p) :=
  fun h => vGuarded_canonical h _ _ _ _ fun _ _ _ h => vWrite_canonical _ _ _ _ _ h

theorem execVcompress_canonical (d a : VReg) (p : PReg) : Keeps (execVcompress d a p) :=
  fun h => vGuarded_canonical h _ _ _ _ fun _ _ _ h => vWrite_canonical _ _ _ _ _ h

theorem countExpert_canonical {s : State} (h : s.Canonical) (e n : Nat) : (s.countExpert e n).Canonical := h

theorem execVbucket_canonical (d a b : VReg) (p : PReg) : Keeps (execVbucket d a b p) :=
  fun h => vGuarded_canonical h _ _ _ _ fun _ _ _ h => (vWrite_canonical _ _ _ _ _ h).bind fun _ h =>
  foldl_canonical (fun _ _ h => countExpert_canonical h ..) _ h

theorem execVmovs_canonical (d : SReg) (a : VReg) (n : BitVec 6) (p : PReg) : Keeps (execVmovs d a n p) :=
  fun h => vGuarded_canonical h _ _ _ _ fun _ _ s h => by
  dsimp only
  split
  · exact wrSv_canonical h ..
  · split
    · exact h
    · exact (needSane_canonical _ _ _).bind fun _ _ => wrSv_canonical h ..

theorem execVguide_canonical (d a b : VReg) (p : PReg) : Keeps (execVguide d a b p) := fun h => by
  grind [execVguide, vBin_canonical]

theorem execVstep_canonical (d a b : VReg) (p : PReg) : Keeps (execVstep d a b p) := fun h => by
  grind [execVstep, vBin_canonical]

theorem execVtemb_canonical (d a : VReg) (p : PReg) : Keeps (execVtemb d a p) :=
  fun h => vGuarded_canonical h _ _ _ _ fun _ _ _ h => vWrite_canonical _ _ _ _ _ h

theorem execVloop_canonical (off : BitVec 12) (n : BitVec 10) : Keeps (execVloop off n) := fun h => word_canonical h fun s h => by
  extract_lets pc t st put
  have hp : ∀ {s : State} l, s.Canonical → (put l s).Canonical := fun _ h => updMe_canonical h _
  have hj : ∀ l, Kept Halt.Canonical State.Canonical ((jumpTo .v t s).map (put l)) := fun l => (jumpTo_canonical _ _ h).map fun _ h =>
    hp l h
  split
  · extract_lets below rem
    split
    · exact hp _ h
    · exact hj _
  · split
    · exact hp _ h
    · split
      · exact True.intro
      · exact hj _

theorem execVbr_canonical (c : BrCond) (off : BitVec 12) (p : PReg) : Keeps (execVbr c off p) :=
  fun h => wordK_canonical h fun s h => by
  have hj := jumpTo_canonical .v ((s.lane .v).pc + off.signExtend 32) h
  extract_lets n take
  cases take
  · exact h
  · exact hj

theorem execVnop_canonical : Keeps execVnop := fun h => word_canonical h fun _ h => h

end Sys2Proof.Machine
end

section
/-! SUPPORT. The canonical form of memory, fabric and system words. -/

namespace Sys2Proof.Machine

open Sys2Proof

/-! ### Machine/Fabric -/

theorem countFab_canonical {s : State} (h : s.Canonical) (i : Nat) : (s.countFab i).Canonical := h

theorem collRead_canonical {s : State} (h : s.Canonical) (vf : Nat) (a : Word) (n : Nat) :
    ∀ r, collRead s vf a n = some r → r.2.Canonical := by
  grind [collRead, Kept, boxRead_canonical]

theorem collWrite_canonical {s : State} (h : s.Canonical) (vf : Nat) (a : Word) (bs : List Byte) :
    ∀ t, collWrite s vf a bs = some t → t.Canonical := by
  grind [collWrite, Kept, boxWrite_canonical]

theorem setFlags_canonical {s : State} (h : s.Canonical) (k : Nat) (f : BitVec 8) : (s.setFlags k f).Canonical :=
  BoxPlace.write_canonical _ _ (BoxPlace.read_canonical _ _ h ..) ..

theorem collRecord_canonical {s : State} (h : s.Canonical) (die core vf : Nat) (c : Cause) (a : Word) :
    (s.collRecord die core vf c a).Canonical := h

theorem slotDone_canonical {s : State} (h : s.Canonical) (c : CollSlot) : (s.slotDone c).Canonical := by
  unfold State.slotDone
  split
  · exact pendDone_canonical (updPkg_canonical (setFlags_canonical h ..) ..) ..
  · exact setFlags_canonical h ..

theorem updSlot_canonical {s : State} (h : s.Canonical) (c : CollSlot) (f : CollSlot → CollSlot) : (s.updSlot c f).Canonical := h

theorem chunkStep_canonical {s : State} (h : s.Canonical) (c : CollSlot) : (s.chunkStep c).Canonical := by
  unfold State.chunkStep
  split
  · exact h
  · dsimp only
    split
    · exact h
    next hr =>
      have hr := collRead_canonical h _ _ _ _ hr
      split
      · exact hr
      next hw =>
        have hw := collWrite_canonical hr _ _ _ _ hw
        grind [updSlot_canonical, slotDone_canonical]

theorem chunksLeft_canonical (x y : Nat) (z : Word) {s : State} (h : s.Canonical) : (chunksLeft x y z s).Canonical := by
  induction x generalizing s with
  | zero => exact h
  | succ n ih =>
    unfold chunksLeft
    grind [chunkStep_canonical]

theorem applyArrival_canonical {s : State} (h : s.Canonical) (c : CollSlot) (a : Parked) : (s.applyArrival c a).Canonical := by
  unfold State.applyArrival
  dsimp only
  split
  · exact chunksLeft_canonical _ _ _ h ..
  · exact h

theorem tellStaging_canonical {s : State} (h : s.Canonical) (a : Parked) : (s.tellStaging a).2.Canonical := by
  unfold State.tellStaging
  split
  · exact h
  · split <;> exact h

theorem discardArrival_canonical {s : State} (h : s.Canonical) (a : Parked) : (s.discardArrival a).Canonical := h

theorem unpark_canonical {s : State} (h : s.Canonical) (i : Nat) : (s.unpark i).Canonical := by
  unfold State.unpark
  split
  · exact h
  · split
    · exact applyArrival_canonical (updPkg_canonical h ..) ..
    · exact h
    · exact tellStaging_canonical h ..

theorem unparkAll_canonical (x : Nat) {s : State} (h : s.Canonical) : (unparkAll x s).Canonical := by
  induction x generalizing s with
  | zero => exact h
  | succ n ih =>
    unfold unparkAll
    grind [unpark_canonical]

theorem parkSettle_canonical {s : State} (h : s.Canonical) : s.parkSettle.Canonical := by
  unfold State.parkSettle
  split
  · exact unparkAll_canonical _ h ..
  · exact h

theorem arrive_canonical {s : State} (h : s.Canonical) (a : Parked) : (s.arrive a).Canonical := by
  unfold State.arrive
  dsimp only
  split
  · exact parkSettle_canonical (applyArrival_canonical h ..) ..
  · exact h
  · split <;> exact tellStaging_canonical h ..

theorem execCollArrival_canonical : Keeps execCollArrival := fun h => event_canonical h fun _ h => arrive_canonical h ..

theorem execParkedArrivalApply_canonical : Keeps execParkedArrivalApply := fun h => event_canonical h fun s h => by
  split
  · split
    · exact chunkStep_canonical h ..
    · exact h
  · exact unpark_canonical h ..

theorem sendDone_canonical {s : State} (h : s.Canonical) (i : Nat) : (s.sendDone i).Canonical := by
  have hr := fun vf a n => collRead_canonical h vf a n
  grind [State.sendDone, updPkg_canonical, setFlags_canonical]

theorem execCollSendDone_canonical : Keeps execCollSendDone := fun h => event_canonical h fun _ h => sendDone_canonical h ..

theorem fire_canonical {s : State} (h : s.Canonical) (vf core flags : Nat) (table entry : Word) (hd : List Byte) (e : TileEntry) :
    (s.fire vf core flags table entry hd e).Canonical := by
  grind [State.fire, collRecord_canonical, setFlags_canonical, countFab_canonical, updPkg_canonical, sendDone_canonical,
    slotDone_canonical, parkSettle_canonical]

theorem readWords_canonical (a : Word) (n : Nat) {s : State} (h : s.Canonical) :
    Kept Halt.Canonical ThdCanonical (readWords a n s) :=
  foldlM_kept (fun ⟨_, _, _⟩ _ h => (check_canonical _ _ _).bind fun _ _ => (locate_canonical _ _ _ _ _ _ h).bind fun ⟨_, _⟩ h =>
  (readNow_canonical _ _ _ _ h).bind fun ⟨_, _⟩ h => h) _ h

theorem homeWords_canonical {s : State} (h : s.Canonical) (ks : List Nat) : (s.homeWords ks).2.Canonical := by
  refine foldl_snd (fun r k h => ?_) _ h
  exact BoxPlace.read_canonical _ _ h

theorem execCollrdy_canonical (a b : SReg) : Keeps (execCollrdy a b) :=
  fun h => word_canonical h fun s h => (check_canonical _ _ _).bind fun _ _ => (release_canonical _ _ _ h).bind fun _ h =>
  (readWords_canonical _ _ h).bind fun ⟨_, _, _⟩ h => (check_canonical _ _ _).bind fun _ _ =>
  (readWords_canonical _ _ h).bind fun ⟨_, ks, _⟩ h => by
  have h4 := delay_canonical (openLat_canonical (homeWords_canonical h ks))
  dsimp only
  split
  · exact h4 ..
  · exact fire_canonical (setFlags_canonical (h4 ..) ..) ..

theorem farWrite_canonical {s : State} (h : s.Canonical) (pa : Nat) (bs : List Byte) : (s.farWrite pa bs).Canonical := by
  unfold State.farWrite
  split
  · exact homePut_canonical h ..
  · exact h

theorem farHalo_canonical {s : State} (h : s.Canonical) (c : CoreId) (sg n : Nat) : (s.farHalo c sg n).Canonical := by
  unfold State.farHalo
  split
  · exact pendDone_canonical h ..
  · exact h

theorem engineTimeout_canonical {s : State} (h : s.Canonical) (c : CoreId) (id : Nat) : (s.engineTimeout c id).Canonical := by
  have h0 : { s with focus := c }.Canonical := h
  unfold State.engineTimeout
  extract_lets old s0
  split
  · exact h
  · split
    · exact h
    · extract_lets p req
      cases req with
      | none => exact h
      | some r =>
        dsimp only
        split
        · split
          · exact failXfer_canonical (countFab_canonical h0 _) _ _ _
          · exact h
        · exact h

theorem updPort_canonical {s : State} (h : s.Canonical) (i : Nat) (f : Port → Port) : (s.updPort i f).Canonical := h

theorem execFlitReplay_canonical : Keeps execFlitReplay := fun h => event_canonical h fun _ h => updPort_canonical h ..

theorem execPortRetrain_canonical : Keeps execPortRetrain := fun h => event_canonical h fun _ h => updPort_canonical h ..

theorem execPortClear_canonical : Keeps execPortClear := fun h => event_canonical h fun _ h => updPort_canonical h ..

theorem execFabricCountersClear_canonical : Keeps execFabricCountersClear :=
  fun h => event_canonical h fun _ h => clearFabric_canonical h ..

theorem loseWriteBack_canonical {s : State} (h : s.Canonical) (c : CoreId) (n : Nat) : (s.loseWriteBack c n).Canonical := h

theorem remoteLost_canonical {s : State} (h : s.Canonical) (c : CoreId) (n why : Nat) (writeBack : Bool) :
    (s.remoteLost c n why writeBack).Canonical := by
  grind [State.remoteLost, countFab_canonical, loseWriteBack_canonical, updCore_canonical]

theorem execRemoteTimeout_canonical : Keeps execRemoteTimeout := fun h => event_canonical h fun _ h => remoteLost_canonical h ..

theorem authFail_canonical {s : State} (h : s.Canonical) (c : CoreId) (n : Nat) (writeBack : Bool) :
    (s.authFail c n writeBack).Canonical := by
  unfold State.authFail
  split
  · exact remoteLost_canonical h ..
  · exact h

theorem execPtpMessage_canonical : Keeps execPtpMessage := fun h => event_canonical h fun _ h => updPkg_canonical h ..

/-! ### Machine/System -/

theorem needSystem_canonical (s : State) (i : Instr) : Kept Halt.Canonical Free (needSystem s i) := check_canonical _ _ _

theorem updMyDie_canonical {s : State} (h : s.Canonical) (f : Die → Die) : (s.updMyDie f).Canonical := h

theorem execRprobe_canonical (d a b : SReg) : Keeps (execRprobe d a b) := fun h => word_canonical h fun s h => by
  extract_lets tag r pin
  have hp : ∀ i {s : State}, s.Canonical → (pin i s).Canonical := fun _ _ h => acquire_canonical _ (updMe_canonical h _)
  clear_value pin r
  refine wrS_canonical (openLat_canonical ?_) ..
  cases r with
  | compute n => exact updMyDie_canonical h _
  | candidate i => exact hp _ h
  | skip i => exact hp _ (updMyDie_canonical h _)

theorem rputWay_canonical {s : State} (h : s.Canonical) (tag : BitVec 44) : Kept Halt.Canonical SndCanonical (s.rputWay tag) := by
  grind [State.rputWay, bind_eq, Kept, Halt.Canonical, setProg_canonical, updMe_canonical, release_canonical]

theorem execRput_canonical (a b : SReg) : Keeps (execRput a b) :=
  fun h => word_canonical h fun _ h => (rputWay_canonical h _).bind fun ⟨_, _⟩ h => (engineReadRun_canonical _ _ _ h).bind fun ⟨_, _⟩ h =>
  (engineCheckRun_canonical _ _ _ _ h).bind fun _ h => (engineWriteRun_canonical _ _ _ h).bind fun _ h =>
  delay_canonical (updMyDie_canonical (openLat_canonical h) _) ..

theorem execRdrop_canonical (a : SReg) : Keeps (execRdrop a) := fun h => word_canonical h fun s h => by
  have h1 := fun f => updMe_canonical h f
  grind [Kept, updMyDie_canonical]

theorem execLvread_canonical (d : SReg) (n : BitVec 4) : Keeps (execLvread d n) :=
  fun h => word_canonical h fun _ h => wrS_canonical h ..

theorem execLvwrite_canonical (n : BitVec 4) (a : SReg) : Keeps (execLvwrite n a) :=
  fun h => word_canonical h fun _ h => (needSystem_canonical _ _).bind fun _ _ => h

theorem execMfsel_canonical (src : MfSrc) (base : BitVec 4) : Keeps (execMfsel src base) :=
  fun h => word_canonical h fun _ h => updR_canonical h ..

theorem execAcqp_canonical (n : BitVec 16) : Keeps (execAcqp n) := fun h => word_canonical h fun s h => by
  dsimp only
  split
  · exact h
  · cases s.prog .s
    case granted n => exact h
    case acqp => exact h
    all_goals
      dsimp only
      split
      · exact True.intro
      · exact setProg_canonical (updMyCluster_canonical h _) ..

theorem execRelp_canonical (n : BitVec 16) : Keeps (execRelp n) := fun h => word_canonical h fun _ h => updCtl_canonical h ..

theorem execSetdiv_canonical (e : Engine) (dv : BitVec 7) : Keeps (execSetdiv e dv) :=
  fun h => word_canonical h fun s h => (check_canonical _ _ _).bind fun _ _ => by
  cases s.prog .s
  case ramped => exact h
  case setdiv b => exact h
  all_goals
    dsimp only
    split
    · exact setProg_canonical (updMyCluster_canonical h _) ..
    · exact setProg_canonical (updMyCluster_canonical (openLat_canonical h) _) ..

theorem execWake_canonical : Keeps execWake := fun h => word_canonical h fun _ h => wakeEngine_canonical h ..

theorem execTrap_canonical (n : BitVec 16) : Keeps (execTrap n) := fun h => word_canonical h fun _ h => updLane_canonical h ..

theorem execEret_canonical : Keeps execEret := fun h => by
  grind [execEret, bind_eq, Kept, answer_canonical, mayIssue_canonical, needSystem_canonical, updMe_canonical]

theorem execSysr_canonical (d : SReg) (n : BitVec 11) : Keeps (execSysr d n) := fun h => word_canonical h fun s h => by
  split
  · exact True.intro
  · exact wrS_canonical h ..

theorem execSysw_canonical (n : BitVec 11) (a : SReg) : Keeps (execSysw n a) := fun h => word_canonical h fun s h => by
  have hw := sysWrite_canonical h n.toNat (s.rdS a)
  dsimp only
  split
  · exact True.intro
  · split
    · exact True.intro
    · split
      next t ht =>
        rw [ht] at hw
        exact hw
      · exact True.intro
      · exact True.intro

theorem execL2conv_canonical (back : Bool) (ways : BitVec 5) : Keeps (execL2conv back ways) :=
  fun h => word_canonical h fun _ h => by
  grind [bind_eq, Kept, needSystem_canonical, check_canonical, updCluster_canonical, cleanL2_canonical, zero_canonical,
    openLat_canonical, delay_canonical]

theorem eventRecord_canonical (va : Word) {s : State} (h : s.Canonical) : Kept Halt.Canonical SndCanonical (eventRecord va s) :=
  (check_canonical _ _ _).bind fun _ _ => (check_canonical _ _ _).bind fun _ _ => (release_canonical _ _ _ h).bind fun _ h =>
  (foldlM_kept (P := SndCanonical) (fun ⟨_, _⟩ _ h => (readNow_canonical _ _ _ _ h).bind fun ⟨_, _⟩ h => h) _ h).bind fun ⟨_, _⟩ h => h

theorem execEvent_canonical (a : SReg) : Keeps (execEvent a) := fun h => word_canonical h fun s h => by
  have hq : ∀ r {s : State}, s.Canonical → Kept Halt.Canonical State.Canonical
      (let q := s.myDie.lq.get s.me.ctl.vfid
      if q.length < 64 then .ok (s.updMyDie fun d => { d with lq := d.lq.set s.me.ctl.vfid (q ++ [r]) })
      else .error (.wait (s.setProg .s (.posting r)))) := fun r s h => by
    dsimp only
    split
    · exact updMyDie_canonical h _
    · exact setProg_canonical h ..
  cases s.prog .s
  case posting r => exact hq r h
  all_goals exact (eventRecord_canonical _ h).bind fun ⟨r, _⟩ h => hq r h

theorem setXd_canonical {s : State} (h : s.Canonical) (x : XdReg) (d : Desc) : (s.setXd x d).Canonical := h

theorem execXdset_canonical (x : XdReg) (a : SReg) (n : BitVec 11) : Keeps (execXdset x a n) :=
  fun h => word_canonical h fun _ h => setXd_canonical h ..

theorem execXdsetD1_canonical (x : XdReg) (a b : SReg) : Keeps (execXdsetD1 x a b) :=
  fun h => word_canonical h fun _ h => setXd_canonical h ..

theorem execXdsetD2_canonical (x : XdReg) (a b : SReg) : Keeps (execXdsetD2 x a b) :=
  fun h => word_canonical h fun _ h => setXd_canonical h ..

theorem execXdsetWin_canonical (x : XdReg) (a _b : SReg) : Keeps (execXdsetWin x a _b) :=
  fun h => word_canonical h fun _ h => setXd_canonical h ..

theorem execXdsetLen_canonical (x : XdReg) (a _b : SReg) : Keeps (execXdsetLen x a _b) :=
  fun h => word_canonical h fun _ h => setXd_canonical h ..

end Sys2Proof.Machine
end

section
/-! SUPPORT. The canonical form of memory, moves, tasks, bring-up and hand-off. -/

namespace Sys2Proof.Machine

open Sys2Proof

/-! ### Machine/Moves -/

theorem execEvRead_canonical : Keeps execEvRead := fun h => event_canonical h fun _ h => readMove_canonical h ..

theorem execEvWrite_canonical : Keeps execEvWrite := fun h => event_canonical h fun _ h => writeMove_canonical h ..

theorem execEvFetch_canonical : Keeps execEvFetch := fun h => event_canonical h fun s h => by
  split
  · exact fetch_canonical h ..
  · exact h

theorem execEvEvict_canonical : Keeps execEvEvict := fun h => event_canonical h fun _ h => by
  grind [evict_canonical]

theorem execEvDrain_canonical : Keeps execEvDrain := fun h => event_canonical h fun _ h => by
  grind [drainLine_canonical]

theorem execEvWb_canonical : Keeps execEvWb := fun h => event_canonical h fun _ h => writeBack_canonical h ..

theorem execEvMark_canonical : Keeps execEvMark := fun h => event_canonical h fun s h => by
  split
  · split <;> exact h
  · exact h

theorem execEvExcl_canonical : Keeps execEvExcl := fun h => event_canonical h fun s h => by
  split
  · split
    · exact excl_canonical h ..
    · exact h
  · exact h

theorem execEvFar_canonical : Keeps execEvFar := fun h => event_canonical h fun s h => by
  split
  · exact h
  next r _ =>
    have hf := farDone_canonical r h
    grind [Kept, Halt.Canonical, setProg_canonical, updMe_canonical, takeTrap_canonical]

theorem execEvVert_canonical : Keeps execEvVert := fun h => event_canonical h fun s h => by
  split
  · exact h
  · exact poke_canonical h ..

theorem execEvHorz_canonical : Keeps execEvHorz := fun h => event_canonical h fun s h => by
  dsimp only
  split
  · exact h
  · exact poke_canonical h ..

theorem execEvSig_canonical : Keeps execEvSig := fun h => event_canonical h fun _ h => updMe_canonical h ..

theorem dropTlb_canonical {s : State} (h : s.Canonical) (vf lo hi : Nat) : (s.dropTlb vf lo hi).Canonical := h

theorem invalidateNext_canonical {s : State} (h : s.Canonical) : s.invalidateNext.Canonical := by
  unfold State.invalidateNext
  split
  · exact h
  · split <;> exact h

theorem execTlbInvalidate_canonical : Keeps execTlbInvalidate := fun h => event_canonical h fun s h => by
  dsimp only
  split
  · exact invalidateNext_canonical h ..
  · exact h

theorem execInvalidationComplete_canonical : Keeps execInvalidationComplete :=
  fun h => event_canonical h fun _ h => invalidateNext_canonical h ..

theorem execL2WayGate_canonical : Keeps execL2WayGate := fun h => event_canonical h fun s h => by
  dsimp only
  split
  · exact h
  · exact cleanL2_canonical h ..

theorem execL2WayUngate_canonical : Keeps execL2WayUngate := fun h => event_canonical h fun _ h => updCluster_canonical h ..

theorem updHealth_canonical {s : State} (h : s.Canonical) (i : Nat) (f : Health → Health) : (s.updHealth i f).Canonical := h

theorem corrected_canonical {s : State} (h : s.Canonical) (key : Nat) : (s.corrected key).Canonical := by
  unfold State.corrected
  split <;> exact h

theorem execVaultScrub_canonical : Keeps execVaultScrub := fun h => event_canonical h fun s h => by
  split
  · exact corrected_canonical h ..
  · exact h

theorem spoil_canonical {s : State} (h : s.Canonical) (key n : Nat) : (s.spoil key n).Canonical := h

theorem spoilRead_canonical {s : State} (h : s.Canonical) (key n : Nat) : (s.spoilRead key n).Canonical := h

theorem execLinkCrc_canonical : Keeps execLinkCrc := fun h => event_canonical h fun _ h => by
  grind [updHealth_canonical, spoil_canonical, spoilRead_canonical]

theorem execRefreshWindow_canonical : Keeps execRefreshWindow := fun h => event_canonical h fun _ h => h

theorem execHbmRetrain_canonical : Keeps execHbmRetrain := fun h => event_canonical h fun _ h => updHealth_canonical h ..

theorem execRetrain_canonical : Keeps execRetrain := fun h => event_canonical h fun _ h => updHealth_canonical h ..

theorem execHealthClear_canonical : Keeps execHealthClear := fun h => event_canonical h fun _ h => updHealth_canonical h ..

theorem execUncorrectableError_canonical : Keeps execUncorrectableError := fun h => event_canonical h fun s h => by
  split
  · exact dropTask_canonical h ..
  · exact dropCounter_canonical h ..
  · exact h
  · split <;> exact h
  · split <;> exact h
  · exact h

/-! ### Machine/Tasks -/

theorem atCore_canonical {s : State} (h : s.Canonical) (c : CoreId) {f : State → State} (hf : ∀ t : State, t.Canonical → (f t).Canonical) :
    (State.at_ s c f).Canonical :=
  hf { s with focus := c } h

theorem pathApply_canonical {s : State} (h : s.Canonical) (c : CoreId) (w : PathWrite) : (s.pathApply c w).Canonical := by
  unfold State.pathApply
  split
  · exact updCore_canonical h ..
  · exact updCore_canonical h ..
  · refine atCore_canonical h _ fun t h => ?_
    have hw := fun n v => sysWrite_canonical h n v
    grind [Kept]

theorem pathWrite_canonical {s : State} (h : s.Canonical) (c : CoreId) (w : PathWrite) : (s.pathWrite c w).Canonical := by
  unfold State.pathWrite
  split
  · exact pathApply_canonical h ..
  · exact pathApply_canonical h ..
  · exact h

theorem execMacroStoreWrite_canonical : Keeps execMacroStoreWrite := fun h => event_canonical h fun _ h => pathWrite_canonical h ..

theorem execRingConfigWrite_canonical : Keeps execRingConfigWrite := fun h => event_canonical h fun _ h => by
  grind [pathWrite_canonical, updMe_canonical]

theorem execRingLink_canonical : Keeps execRingLink := fun h => event_canonical h fun _ h => updMe_canonical h ..

theorem takeLamp_canonical {s : State} (h : s.Canonical) (c : CoreId) (m : LampMsg) : (s.takeLamp c m).Canonical := by
  grind [State.takeLamp, updCore_canonical, passLamp_canonical]

theorem lampHere_canonical {s : State} (h : s.Canonical) (c : CoreId) : (s.lampHere c).Canonical :=
  foldl_canonical (fun _ _ h => takeLamp_canonical h ..) _ (updCore_canonical h ..)

theorem execLampArrive_canonical : Keeps execLampArrive := fun h => event_canonical h fun _ h => lampHere_canonical h ..

theorem returnUnits_canonical {s : State} (h : s.Canonical) (c : CoreId) : (s.returnUnits c).Canonical := h

theorem performAll_canonical {s : State} (h : s.Canonical) (c : CoreId) : (s.performAll c).Canonical := by
  grind [State.performAll, runPaths_canonical, atCore_canonical, letLeave_canonical]

theorem withdrawAll_canonical {s : State} (h : s.Canonical) (c : CoreId) : (s.withdrawAll c).Canonical := h

theorem haltCore_canonical {s : State} (h : s.Canonical) (c : CoreId) : (s.haltCore c).Canonical := by
  grind [State.haltCore, withdrawAll_canonical, returnUnits_canonical, closeRegs_canonical, drainAll_canonical,
    performAll_canonical, updCore_canonical]

theorem endTask_canonical {s : State} (h : s.Canonical) (c : CoreId) (fault : Option Nat) : (s.endTask c fault).Canonical := by
  grind [State.endTask, leaveTask_canonical, updCore_canonical, sendLamp_canonical, haltCore_canonical]

theorem execHalt_canonical : Keeps execHalt := fun {s} h => answer_canonical h _ <| (mayIssue_canonical _ _ h).bind fun _ _ => by
  have hn := notePoint_canonical h .s
  dsimp only
  split
  · exact (release_canonical _ _ _ hn).map fun _ h => endTask_canonical h ..
  · exact hn

theorem readEntry_canonical (d i shape : Nat) (first : CoreId) (lamp : List CoreId) (no : Nat) (g : Graph) {s : State} (h : s.Canonical) :
    Kept Free SndCanonical (readEntry d i shape first lamp no g s) := by
  refine (readOpb_canonical _ _ _ h).bind fun ⟨o, s⟩ h => (readTable_canonical _ _ _ _ h).bind fun ⟨sc, s⟩ h =>
    (readTable_canonical _ _ _ _ h).bind fun ⟨pa, s⟩ h => ?_
  dsimp -zeta only
  by_cases hm : o.mfmask = 0
  · rw [if_pos hm]
    exact h
  · rw [if_neg hm]
    exact (readTable_canonical _ _ _ _ h).bind (Q := SndCanonical) fun ⟨_, _⟩ h => h

theorem flushL1_canonical {s : State} (h : s.Canonical) (c : CoreId) : (s.flushL1 c).Canonical := by
  refine updCore_canonical (foldl_canonical (fun s r h => ?_) _ h) ..
  grind [evict_canonical, recall_canonical]

theorem clearPool_canonical {s : State} (h : s.Canonical) (c : CoreId) (vf l1 : Nat) : (s.clearPool c vf l1).Canonical := by
  unfold State.clearPool
  dsimp only
  split
  · exact zero_canonical h ..
  · exact zero_canonical (zero_canonical h ..) ..

theorem enterCore_canonical {s : State} (h : s.Canonical) (c : CoreId) (e : Entry) (owners slot : Nat) (data : List Byte) :
    (s.enterCore c e owners slot data).Canonical := by
  unfold State.enterCore
  extract_lets x s1 s2 s3 s4 s5 eager
  have h2 : s2.Canonical := foldl_canonical (fun s w h => pathApply_canonical h ..) _ (setCore_canonical h ..)
  have h4 : s4.Canonical := clearPool_canonical (flushL1_canonical (runPaths_canonical h2 _) _) ..
  have h5 : s5.Canonical := foldl_canonical (fun s b h => zero_canonical h ..) _ h4
  refine atCore_canonical h5 _ fun s h => foldl_canonical (fun s l h => loadBuffer_canonical h l) _ ?_
  grind [updMe_canonical, poke_canonical]

theorem bindHasShape_canonical {s : State} (h : s.Canonical) (d : Nat) (r : BitVec 128) :
    Kept State.Canonical Free (s.bindHasShape d r) := by
  unfold State.bindHasShape
  dsimp only
  split
  · exact True.intro
  · split
    · exact True.intro
    · exact failGraph_canonical h ..

theorem bindBad_canonical {s : State} (h : s.Canonical) (d i : Nat) : (s.bindBad d i).Canonical := by
  unfold State.bindBad
  dsimp only
  split
  · exact taskFault_canonical h ..
  · exact taskFault_canonical h ..
  · exact foldl_canonical (fun s r h => endTask_canonical h ..) _ h
  · exact h

theorem execBindRecordWrite_canonical : Keeps execBindRecordWrite := fun h => event_canonical h fun _ h => by
  grind [Kept, bindBad_canonical, bindHasShape_canonical, updDie_canonical]

/-! ### Machine/Bringup -/

theorem lanesOf_canonical {s : State} (h : s.Canonical) (ci : Nat) (p : Core → Bool) (g : LaneSt → LaneSt) :
    (s.lanesOf ci p g).Canonical := h

theorem heldTraps_canonical {s : State} (h : s.Canonical) (ci : Nat) : (s.heldTraps ci).Canonical := by
  refine foldl_canonical (fun s r h => ?_) _ h
  dsimp only
  split
  · split
    · exact atCore_canonical h _ fun s h => takeTrap_canonical h ..
    · exact h
  · exact h

theorem endRamp_canonical {s : State} (h : s.Canonical) (ci : Nat) : (s.endRamp ci).Canonical := by
  grind [State.endRamp, lanesOf_canonical, openLat_canonical, updCore_canonical, updCluster_canonical, heldTraps_canonical]

theorem execSetdivRampEnd_canonical : Keeps execSetdivRampEnd := fun h => event_canonical h fun _ h => endRamp_canonical h ..

theorem grant_canonical {s : State} (h : s.Canonical) (c : CoreId) (n : Nat) : (s.grant c n).Canonical := h

theorem grantVisit_canonical (ci : Nat) (x : List (Nat × Nat)) {s : State} (h : s.Canonical) : (grantVisit ci x s).Canonical := by
  induction x generalizing s with
  | nil => exact updCluster_canonical h ..
  | cons p t ih =>
    unfold grantVisit
    grind [grant_canonical, updCluster_canonical]

theorem grantAll_canonical {s : State} (h : s.Canonical) : s.grantAll.Canonical := by
  unfold State.grantAll
  dsimp only
  split
  · exact h
  · split
    · exact updPkg_canonical h _
    · exact foldl_canonical (fun s i h => grantVisit_canonical _ _ h) _ (updPkg_canonical h _)

theorem execPowerGrant_canonical : Keeps execPowerGrant := fun h => event_canonical h fun _ h => grantAll_canonical h ..

theorem windowEnd_canonical {s : State} (h : s.Canonical) : s.windowEnd.Canonical := by
  unfold State.windowEnd
  dsimp only
  split <;> exact h

theorem execDrawWindowEnd_canonical : Keeps execDrawWindowEnd := fun h => event_canonical h fun _ h => windowEnd_canonical h ..

theorem setThrottle_canonical {s : State} (h : s.Canonical) (k : Nat) : (s.setThrottle k).Canonical := by
  unfold State.setThrottle
  dsimp only
  split <;> exact h

theorem execThrottleInterval_canonical : Keeps execThrottleInterval := fun h => event_canonical h fun s h => by
  dsimp only
  split
  · exact h
  · exact setThrottle_canonical (updPkg_canonical h ..) ..

theorem throttleSettle_canonical {s : State} (h : s.Canonical) : s.throttleSettle.Canonical := by
  unfold State.throttleSettle
  dsimp only
  split
  · exact h
  · exact setThrottle_canonical (updPkg_canonical h ..) ..

theorem execPwrcfgWrite_canonical : Keeps execPwrcfgWrite := fun h => event_canonical h fun _ h => writePwrcfg_canonical h ..

theorem execReuseCountersClear_canonical : Keeps execReuseCountersClear :=
  fun h => event_canonical h fun _ h => clearReuse_canonical h ..

theorem execEventCoalesceTimeout_canonical : Keeps execEventCoalesceTimeout := fun h => event_canonical h fun _ h => h

theorem execEvheadWrite_canonical : Keeps execEvheadWrite := fun h => event_canonical h fun _ h => writeEvhead_canonical h ..

theorem execLqpost_canonical : Keeps execLqpost := fun h => event_canonical h fun _ h => lqPost_canonical h ..

theorem execFunctionLevelReset_canonical : Keeps execFunctionLevelReset := fun h => event_canonical h fun s h => by
  extract_lets v s1 run s2 s3
  have h1 : s1.Canonical := foldl_canonical (fun _ _ h => updDie_canonical (updDie_canonical h ..) ..) _ h
  have h2 : s2.Canonical := foldl_canonical (fun _ _ h => endTask_canonical h ..) _ h1
  have h3 : s3.Canonical := foldl_canonical (fun _ _ h => updDie_canonical h ..) _ h2
  exact h3

theorem execFreeze_canonical : Keeps execFreeze := fun h => event_canonical h fun _ h => updPkg_canonical h ..

theorem execFrzN_canonical : Keeps execFrzN := fun h => event_canonical h fun _ h => updPkg_canonical h ..

theorem reset_canonical : State.reset.Canonical := rfl

theorem cold_canonical (s : State) (img : Option ConfigImage) : (s.cold img).Canonical := reset_canonical

theorem applyImage_canonical {s : State} (h : s.Canonical) (i : ConfigImage) (last : Nat) : (s.applyImage i last).Canonical :=
  foldl_canonical (fun _ _ h => updCluster_canonical h ..) _ (updPkg_canonical h _)

theorem execPackageReset_canonical : Keeps execPackageReset := fun h => event_canonical h fun _ h => by
  grind [cold_canonical, updPkg_canonical, applyImage_canonical]

theorem execConfigurationImage_canonical : Keeps execConfigurationImage := fun h => event_canonical h fun s h => by
  split
  · exact h
  · split <;> exact h

theorem spdm_canonical {s : State} (h : s.Canonical) (ok : Bool) (r : SpdmReply) (f : Package → Package) :
    (s.spdm ok r f).Canonical := by
  unfold State.spdm
  split <;> exact h

theorem execGetVersion_canonical : Keeps execGetVersion := fun h => event_canonical h fun _ h => spdm_canonical h ..

theorem execGetCapabilities_canonical : Keeps execGetCapabilities := fun h => event_canonical h fun _ h => spdm_canonical h ..

theorem execNegotiateAlgorithms_canonical : Keeps execNegotiateAlgorithms :=
  fun h => event_canonical h fun _ h => spdm_canonical h ..

theorem execGetDigests_canonical : Keeps execGetDigests := fun h => event_canonical h fun _ h => spdm_canonical h ..

theorem execGetCertificate_canonical : Keeps execGetCertificate := fun h => event_canonical h fun _ h => spdm_canonical h ..

theorem execChallenge_canonical : Keeps execChallenge := fun h => event_canonical h fun _ h => spdm_canonical h ..

theorem execGetMeasurements_canonical : Keeps execGetMeasurements := fun h => event_canonical h fun _ h => spdm_canonical h ..

theorem execRegisterWrite_canonical : Keeps execRegisterWrite := fun h => event_canonical h fun s h => by
  dsimp only
  split
  · split
    · exact h
    · split
      · exact pathWrite_canonical h ..
      · exact blockWrite_canonical h ..
  · split
    · exact h
    · split
      · exact pathWrite_canonical h ..
      · exact blockWrite_canonical h ..

/-! ### Machine/Handoff -/

theorem needSlots_canonical (first n : Nat) (s : State) : Kept Halt.Canonical Free (needSlots first n s) := check_canonical _ _ _

theorem execOwn_canonical (first : BitVec 8) (count1 : BitVec 5) (o : Owner) : Keeps (execOwn first count1 o) :=
  fun h => word_canonical h fun s h => (needSlots_canonical _ _ _).bind fun _ _ => by
  split
  · exact newRegion_canonical (updMe_canonical h _)
  · exact h

theorem execOwnwait_canonical (first : BitVec 8) (count1 : BitVec 5) (o : Owner) : Keeps (execOwnwait first count1 o) :=
  fun h => word_canonical h fun s h => (needSlots_canonical _ _ _).bind fun _ _ => by
  split
  · exact True.intro
  · split <;> exact h

end Sys2Proof.Machine
end

section
/-! SUPPORT. The canonical form of memory, vector memory words, tiles and expansions. -/

namespace Sys2Proof.Machine

open Sys2Proof

/-! ### Machine/VectorMem -/

theorem brokenElement_canonical (a : Word) (wr : Bool) (s : State) : (brokenElement a wr s).Canonical := by
  unfold brokenElement
  split <;> exact True.intro

theorem vCheck_canonical (wr : Bool) (n : Nat) (es : List ElAddr) {s : State} (h : s.Canonical) :
    Kept Halt.Canonical State.Canonical (vCheck wr n es s) := by
  refine foldlM_kept (fun s e h => ?_) _ h
  split
  · exact brokenElement_canonical _ _ _
  · exact (locate_canonical _ _ _ _ _ _ h).bind fun ⟨_, _⟩ h => register_canonical _ _ _ _ _ _ h

theorem descElems_canonical (x : XdReg) (w total : Nat) (act : List Nat) (s : State) :
    Kept Halt.Canonical Free (descElems x w total act s) := by
  grind [descElems, bind_eq, Kept, needWalk_canonical, check_canonical]

theorem vLoads_canonical (n more : Nat) (repl : List Byte) (dest : ElAddr → Dest) (es : List ElAddr) {s : State} (h : s.Canonical) :
    Kept Halt.Canonical (fun r : VLoads => r.st.Canonical) (vLoads n more repl dest es s) := by
  refine foldlM_kept (P := fun r : VLoads => r.st.Canonical) (fun r e hr => ?_) _ h
  exact (laneLoad_canonical _ _ _ _ _ _ _ hr).bind fun _ h => h

theorem VLoads.settle_canonical (r : VLoads) (k n : Nat) (part : Bool) {s : State} (h : s.Canonical) :
    (r.settle k n part s).Canonical := h

theorem finishLoads_canonical {s : State} (h : s.Canonical) {r : VLoads} (hr : r.st.Canonical) :
    Kept Halt.Canonical State.Canonical (finishLoads s r) := by
  grind [finishLoads, Kept, Halt.Canonical, updMe_canonical]

theorem vLoad_canonical {s : State} (h : s.Canonical) (d : VReg) (srcs : List VReg) (more : State → List Nat) (p : PReg)
    {addrs : List (BitVec 2048) → List Nat → State → Except Halt (List ElAddr)}
    (ha : ∀ vs act (t : State), t.Canonical → Kept Halt.Canonical Free (addrs vs act t)) {after : State → State}
    (hf : ∀ t : State, t.Canonical → (after t).Canonical) : NextCanonical (vLoad d srcs more p addrs after s) :=
  vGuarded_canonical h _ _ _ _ fun _ _ _ h => (ha _ _ _ h).bind fun _ _ => (vCheck_canonical _ _ _ (scrubV_canonical h _)).bind fun _ h1 =>
    (vLoads_canonical _ _ _ _ _ h1).bind fun _ hr => (finishLoads_canonical h hr).bind fun _ h => hf _ (VLoads.settle_canonical _ _ _ _ h)

theorem vStore_canonical {s : State} (h : s.Canonical) (srcs : List VReg) (more : State → List Nat) (p : PReg)
    {addrs : List (BitVec 2048) → List Nat → State → Except Halt (List ElAddr)}
    (ha : ∀ vs act (t : State), t.Canonical → Kept Halt.Canonical Free (addrs vs act t)) {after : State → State}
    (hf : ∀ t : State, t.Canonical → (after t).Canonical) : NextCanonical (vStore srcs more p addrs after s) :=
  vGuarded_canonical h _ _ _ _ fun _ _ _ h => (ha _ _ _ h).bind fun _ _ => (vCheck_canonical _ _ _ h).bind fun _ h1 =>
    (needSane_canonical _ _ _).bind fun _ _ => (foldlM_kept (fun _ _ h => laneStore_canonical _ _ _ _ h) _ h1).bind fun _ h => hf _ h

theorem execVld_canonical (d : VReg) (x : XdReg) (p : PReg) : Keeps (execVld d x p) := fun h => by
  unfold execVld
  exact vLoad_canonical h _ _ _ _ (fun _ _ _ _ => descElems_canonical _ _ _ _ _) (fun _ h => advance_canonical h ..)

theorem execVst_canonical (d : VReg) (x : XdReg) (p : PReg) : Keeps (execVst d x p) :=
  fun h => vStore_canonical h _ _ _ (fun _ _ _ _ => descElems_canonical _ _ _ _ _) (fun _ h => advance_canonical h ..)

theorem execVlds_canonical (d : VReg) (a b : SReg) (p : PReg) : Keeps (execVlds d a b p) :=
  fun h => vLoad_canonical h _ _ _ _ (fun _ _ _ _ => kept_ok True.intro) (fun _ h => h)

theorem execVsts_canonical (d : VReg) (a b : SReg) (p : PReg) : Keeps (execVsts d a b p) :=
  fun h => vStore_canonical h _ _ _ (fun _ _ _ _ => kept_ok True.intro) (fun _ h => h)

theorem execVgather_canonical (d : VReg) (a : SReg) (b : VReg) (p : PReg) : Keeps (execVgather d a b p) :=
  fun h => vLoad_canonical h _ _ _ _ (fun _ _ _ _ => kept_ok True.intro) (fun _ h => h)

theorem execVscatter_canonical (d : VReg) (a : SReg) (b : VReg) (p : PReg) : Keeps (execVscatter d a b p) :=
  fun h => vStore_canonical h _ _ _ (fun _ _ _ _ => kept_ok True.intro) (fun _ h => h)

theorem Halt_at_canonical (a : Word) {x : Halt} (hx : x.Canonical) : (Halt.at_ a x).Canonical := by
  unfold Halt.at_
  split
  · exact True.intro
  · exact hx

theorem atElement_kept {α : Type} {P : α → Prop} (a : Word) {x : Except Halt α} (hx : Kept Halt.Canonical P x) :
    Kept Halt.Canonical P (atElement a x) := by
  cases x with
  | ok x => exact hx
  | error e => exact Halt_at_canonical a hx

def FoundCanonical (r : List (Word × Loc) × State × Option Halt) : Prop := r.2.1.Canonical ∧ ∀ e, r.2.2 = some e → e.Canonical

theorem locateAll_canonical (w : Nat) (wr : Bool) (ps : List ElAddr) {s : State} (h : s.Canonical) :
    Kept Halt.Canonical SndCanonical (locateAll w wr ps s) := by
  unfold locateAll
  extract_lets r
  have hr : FoundCanonical r := by
    refine List.foldlRecOn (motive := FoundCanonical) ps _ ⟨h, by simp⟩ fun r hr e _ => ?_
    have hl := locate_canonical r.2.1.lanes e.a w wr true false hr.1
    grind [FoundCanonical, Kept]
  grind [FoundCanonical, Kept]

theorem oneElement_canonical (x : XdReg) (n w : Nat) (wr : Bool) {s : State} (h : s.Canonical) :
    Kept Halt.Canonical SndCanonical (oneElement x n w wr s) := by
  refine (needWalk_canonical _ _).bind fun _ _ => (check_canonical _ _ _).bind fun _ _ => ?_
  dsimp only
  split
  · exact brokenElement_canonical _ _ _
  · exact (check_canonical _ _ _).bind fun _ _ => (atElement_kept _ (locateAll_canonical _ _ _ h)).bind fun ⟨_, _⟩ h1 =>
      (atElement_kept _ (foldlM_kept (fun _ _ h => register_canonical _ _ _ _ _ _ h) _ h1)).bind fun _ h => h

theorem execQld_canonical (q : BitVec 2) (x : XdReg) : Keeps (execQld q x) :=
  fun h => word_canonical h fun s h => (needThat_canonical _ _).bind fun _ _ => (oneElement_canonical _ _ _ _ h).bind fun ⟨_, _⟩ h1 =>
  (vLoads_canonical _ _ _ _ _ (updMe_canonical (take_canonical h1) _)).bind fun _ hr => by
  dsimp only
  split
  · exact updMe_canonical h _
  · exact advance_canonical (updMe_canonical hr _) ..

theorem execQldFill_canonical : Keeps execQldFill := fun h => event_canonical h fun _ h => updMe_canonical h ..

/-! ### Machine/Tile -/

theorem setTile_canonical {s : State} (h : s.Canonical) (t : Nat) (x : Tile) : (s.setTile t x).Canonical := h

theorem restoreTile_canonical (t : Nat) {s : State} (h : s.Canonical) : Kept Halt.Canonical State.Canonical (restoreTile t s) := by
  grind [restoreTile, bind_eq, Kept, Halt.Canonical, engineReadRaw_canonical, setTile_canonical]

theorem touchTiles_canonical (ts : List TReg) {s : State} (h : s.Canonical) :
    Kept Halt.Canonical State.Canonical (touchTiles ts s) := by
  unfold touchTiles
  split
  · exact True.intro
  · refine foldlM_kept (fun s t h => ?_) _ h
    have hr := restoreTile_canonical t.toNat h
    grind [Kept, Halt.Canonical]

theorem tileWord_canonical {s : State} (h : s.Canonical) (reads : List TReg) (shape : Bool) (ts : List TReg) {eff : Eff}
    (he : ∀ t : State, t.Canonical → Kept Halt.Canonical State.Canonical (eff t)) : NextCanonical (tileWord reads shape ts eff s) :=
  word_canonical h fun _ h => (needShape_canonical _ _).bind fun _ _ => (touchTiles_canonical _ h).bind he

theorem wrTile_canonical {s : State} (h : s.Canonical) (t : TReg) (x : Tile) (lat : Nat) : (s.wrTile t x lat).Canonical := h

theorem execTcfg_canonical (t : TReg) (rows1 cols1 : BitVec 4) : Keeps (execTcfg t rows1 cols1) :=
  fun h => tileWord_canonical h _ _ _ fun _ h => wrTile_canonical h ..

theorem execTzero_canonical (t : TReg) : Keeps (execTzero t) := fun h => tileWord_canonical h _ _ _ fun _ h => wrTile_canonical h ..

theorem execTldrow_canonical (t : TReg) (x : XdReg) (row : BitVec 4) : Keeps (execTldrow t x row) :=
  fun h => tileWord_canonical h _ _ _ fun _ h => (check_canonical _ _ _).bind fun _ _ =>
    (oneElement_canonical _ _ _ _ h).bind fun ⟨_, _⟩ h1 =>
  (vLoads_canonical _ _ _ _ _ h1).bind fun _ hr => (atElement_kept _ (finishLoads_canonical h hr)).bind fun _ h =>
  advance_canonical (VLoads.settle_canonical _ _ _ _ (updMe_canonical h _)) ..

theorem execTstrow_canonical (t : TReg) (x : XdReg) (row : BitVec 4) : Keeps (execTstrow t x row) :=
  fun h => tileWord_canonical h _ _ _ fun _ h => (check_canonical _ _ _).bind fun _ _ =>
    (oneElement_canonical _ _ _ _ h).bind fun ⟨_, _⟩ h1 =>
  (needSane_canonical _ _ _).bind fun _ _ => (foldlM_kept (fun _ _ h => laneStore_canonical _ _ _ _ h) _ h1).bind fun _ h =>
  advance_canonical h ..

theorem tileToVec_canonical (d : VReg) (t : TReg) (at_ : Nat → Nat × Nat) {s : State} (h : s.Canonical) :
    Kept Halt.Canonical State.Canonical (tileToVec d t at_ s) := (needSane_canonical _ _ _).bind fun _ _ => wrV_canonical h ..

theorem execTmovr_canonical (d : VReg) (t : TReg) (row : BitVec 4) : Keeps (execTmovr d t row) :=
  fun h => tileWord_canonical h _ _ _ fun _ h => (check_canonical _ _ _).bind fun _ _ => tileToVec_canonical _ _ _ h

theorem execTmovc_canonical (d : VReg) (t : TReg) (col : BitVec 4) : Keeps (execTmovc d t col) :=
  fun h => tileWord_canonical h _ _ _ fun _ h => (check_canonical _ _ _).bind fun _ _ => tileToVec_canonical _ _ _ h

theorem execTfma_canonical (d a b : TReg) : Keeps (execTfma d a b) :=
  fun h => tileWord_canonical h _ _ _ fun _ h => (needSane_canonical _ _ _).bind fun _ _ => (raiseFlags_canonical _ h).bind fun _ h =>
  setReady_canonical (wrTile_canonical h ..) ..

theorem execTileRestore_canonical : Keeps execTileRestore := fun h => event_canonical h fun s h => by
  have hr := fun t => restoreTile_canonical t h
  grind [Kept, Halt.Canonical]

/-! ### Machine/Expansion -/

theorem wrExp_canonical {s : State} (h : s.Canonical) (e : EReg) (x : Expn) (n : Nat) : (s.wrExp e x n).Canonical := h

theorem finishExp_canonical (e : EReg) (n : Nat) (r : Fx Expn) {s : State} (h : s.Canonical) :
    Kept Halt.Canonical State.Canonical (finishExp e n r s) := (raiseFlags_canonical _ h ..).bind fun _ h1 => h1

theorem needKind_canonical (ok : Bool) (i : Instr) (s : State) : Kept Halt.Canonical Free (needKind ok i s) := check_canonical _ _ _

theorem expPair_canonical {s : State} (h : s.Canonical) (d a : EReg) {eff : Expn → Expn → Eff}
    (he : ∀ x y (t : State), t.Canonical → Kept Halt.Canonical State.Canonical (eff x y t)) : NextCanonical (expPair d a eff s) :=
  word_canonical h fun _ h => he _ _ _ h

theorem execEclr_canonical (d : EReg) : Keeps (execEclr d) := fun h => word_canonical h fun _ h => wrExp_canonical h ..

theorem execEshift_canonical (d a : EReg) : Keeps (execEshift d a) :=
  fun h => expPair_canonical h _ _ fun _ _ _ h => (needKind_canonical _ _ _).bind fun _ _ => (needSane_canonical _ _ _).bind fun _ _ =>
  finishExp_canonical _ _ _ h

theorem execEconv_canonical (d a : EReg) : Keeps (execEconv d a) :=
  fun h => expPair_canonical h _ _ fun _ _ _ h => (needKind_canonical _ _ _).bind fun _ _ => (needSane_canonical _ _ _).bind fun _ _ =>
  finishExp_canonical _ _ _ h

theorem execElshift_canonical (d a : EReg) : Keeps (execElshift d a) :=
  fun h => expPair_canonical h _ _ fun _ _ _ h => (needKind_canonical _ _ _).bind fun _ _ => (needSane_canonical _ _ _).bind fun _ _ =>
  finishExp_canonical _ _ _ h

theorem execEadd_canonical (d a : EReg) : Keeps (execEadd d a) :=
  fun h => expPair_canonical h _ _ fun _ _ _ h => (needKind_canonical _ _ _).bind fun _ _ => (check_canonical _ _ _).bind fun _ _ =>
  (needSane_canonical _ _ _).bind fun _ _ => finishExp_canonical _ _ _ h

theorem execEord_canonical (n : BitVec 5) : Keeps (execEord n) := fun h => word_canonical h fun _ h => h

theorem execEform_canonical (d : EReg) (a b : VReg) (p : PReg) : Keeps (execEform d a b p) :=
  fun h => vGuarded_canonical h _ _ _ _ fun _ _ _ h => (needKind_canonical _ _ _).bind fun _ _ => (needSane_canonical _ _ _).bind fun _ _ =>
  (needSane_canonical _ _ _).bind fun _ _ => finishExp_canonical _ _ _ h

theorem expToVec_canonical (d : VReg) (n : Nat) (used : List (Nat × Nat)) (res : List (Nat × Fx Cx)) {s : State} (h : s.Canonical) :
    Kept Halt.Canonical State.Canonical (expToVec d n used res s) := (vWrite_canonical _ _ _ _ _ h ..).bind fun _ h1 => h1

theorem execEeval_canonical (d a : VReg) (b : EReg) (p : PReg) : Keeps (execEeval d a b p) :=
  fun h => vGuarded_canonical h _ _ _ _ fun _ _ _ h => (needSane_canonical _ _ _).bind fun _ _ => expToVec_canonical _ _ _ _ h

theorem execEp2p_canonical (d a b : VReg) (p : PReg) : Keeps (execEp2p d a b p) :=
  fun h => vGuarded_canonical h _ _ _ _ fun _ _ _ h => expToVec_canonical _ _ _ _ h

theorem execEadmit_canonical (d : PReg) (a b : EReg) : Keeps (execEadmit d a b) :=
  fun h => word_canonical h fun _ h => (needSane_canonical _ _ _).bind fun _ _ => wrP_canonical h ..

theorem execEld_canonical (d : EReg) (x : XdReg) : Keeps (execEld d x) :=
  fun h => word_canonical h fun _ h => (oneElement_canonical _ _ _ _ h).bind fun ⟨_, _⟩ h1 =>
  (vLoads_canonical _ _ _ _ _ (updMe_canonical h1 _)).bind fun _ hr => (atElement_kept _ (finishLoads_canonical h hr)).bind fun _ h =>
  advance_canonical (setReady_canonical (VLoads.settle_canonical _ _ _ _ h) ..) ..

theorem execEst_canonical (d : EReg) (x : XdReg) : Keeps (execEst d x) :=
  fun h => word_canonical h fun s h => (oneElement_canonical _ _ _ _ h).bind fun ⟨a, s1⟩ h1 => (needSane_canonical _ _ _).bind fun _ _ =>
  (foldlM_kept (fun _ _ h => laneStore_canonical _ _ _ _ h) _ h1).bind fun s2 h2 => by
  have hl := locate_canonical s1.lanes a 8 true true false h2
  refine advance_canonical (setReady_canonical ?_ ..) ..
  split
  next l t ht =>
    rw [ht] at hl
    exact loadLat_canonical hl ..
  · exact h2

end Sys2Proof.Machine
end

section
/-! SUPPORT. The canonical form of memory, the Turntable. -/

namespace Sys2Proof.Machine

open Sys2Proof

theorem Bench.put_canonical (w : Bench) {s : State} (h : s.Canonical) (q x : Nat) : (w.put s q x).Canonical := poke_canonical h ..

theorem Bench.count_canonical (w : Bench) (qs : List Nat) {s : State} (h : s.Canonical) : (w.count qs s).Canonical := by
  unfold Bench.count
  split <;> exact h

theorem Bench.swapData_canonical (w : Bench) (m : TurnMap) (pu pv : Nat) {s : State} (h : s.Canonical) :
    (w.swapData m pu pv s).Canonical := by
  unfold Bench.swapData
  split
  · exact h
  · exact foldl_canonical (fun _ _ h => Bench.put_canonical _ (Bench.put_canonical _ h ..) ..) _ (Bench.count_canonical _ _ h)

theorem Bench.runSwaps_canonical (w : Bench) (x : List (Nat × Nat)) (y : TurnMap) {s : State} (h : s.Canonical) :
    (w.runSwaps x y s).Canonical := by
  induction x generalizing y s with
  | nil => exact h
  | cons p t ih => exact ih _ (Bench.swapData_canonical _ _ _ _ h)

theorem Bench.applyGate_canonical (w : Bench) (m : TurnMap) (g : Gate) (ts : List Nat) (cm : Nat) {s : State} (h : s.Canonical) :
    (w.applyGate m g ts cm s).Canonical :=
  foldl_canonical (fun _ _ h => foldl_canonical (fun _ _ h => Bench.put_canonical _ h ..) _ h) _ (Bench.count_canonical _ _ h)

theorem Bench.applyDiag_canonical (w : Bench) (m : TurnMap) (g : Gate) (ts : List Nat) {s : State} (h : s.Canonical) :
    (w.applyDiag m g ts s).Canonical := foldl_canonical (fun _ _ h => Bench.put_canonical _ h ..) _ (Bench.count_canonical _ _ h)

theorem updTurn_canonical {s : State} (h : s.Canonical) (cl : Nat) (f : Turntable → Turntable) : (s.updTurn cl f).Canonical := h

theorem Bench.perform_canonical (w : Bench) (c : TurnCmd) (m : TurnMap) {s : State} (h : s.Canonical) :
    (w.perform c m s).2.Canonical := by
  unfold Bench.perform
  split
  · exact Bench.applyGate_canonical _ _ _ _ _ (Bench.runSwaps_canonical _ _ _ h ..) ..
  · exact Bench.applyDiag_canonical _ _ _ _ h ..
  · exact Bench.swapData_canonical _ _ _ _ h ..
  · exact h

theorem Bench.reduce_canonical (w : Bench) (c : TurnCmd) (m : TurnMap) {s : State} (h : s.Canonical) :
    ∀ r, w.reduce c m s = some r → r.2.Canonical := by
  grind [Bench.reduce, Bench.count_canonical]

theorem Bench.lay_canonical (w : Bench) (ps : List (Nat × TurnPeer)) {s : State} (h : s.Canonical) : (w.lay ps s).Canonical :=
  foldl_canonical (fun _ _ h => foldl_canonical (fun _ _ h => Bench.put_canonical _ h ..) _ h) _ h

theorem unlay_canonical {s : State} (h : s.Canonical) (far : Bool) : (s.unlay far).Canonical := by
  unfold State.unlay
  split
  · exact zero_canonical h ..
  · exact h

theorem turnDo_canonical {s : State} (h : s.Canonical) (cl : Nat) (c : TurnCmd) (b : Binding) (cls : List Nat) (far : Bool) :
    (s.turnDo cl c b cls far).Canonical := by
  unfold State.turnDo
  extract_lets w m r
  have hr : r.2.Canonical := by
    refine Bench.perform_canonical _ _ _ ?_
    split
    · exact Bench.lay_canonical _ _ h
    · exact h
  have hx := Bench.reduce_canonical w c m hr
  dsimp only
  refine foldl_canonical (fun s k h => updTurn_canonical h ..) _ (unlay_canonical ?_ far)
  split
  next x hw => exact hx x hw
  · exact hr

theorem turnMismatch_canonical {s : State} (h : s.Canonical) (c : TurnCmd) (b : Binding) (cls : List Nat) :
    (s.turnMismatch c b cls).Canonical := foldl_canonical (fun _ _ h => updTurn_canonical h ..) _ h

theorem turnJoin_canonical {s : State} (h : s.Canonical) (cl : Nat) (c : TurnCmd) (b : Binding) :
    (s.turnJoin cl c b).Canonical := by
  grind [State.turnJoin, turnMismatch_canonical, turnDo_canonical]

theorem turnPeer_canonical {s : State} (h : s.Canonical) (cl : Nat) (p : TurnPeer) : (s.turnPeer cl p).Canonical := by
  unfold State.turnPeer
  dsimp only
  split
  · split <;> exact h
  · exact h

theorem turnStep_canonical {s : State} (h : s.Canonical) (cl : Nat) : (s.turnStep cl).Canonical := by
  unfold State.turnStep
  split
  · exact h
  · split
    · exact h
    · dsimp only
      split
      · exact updTurn_canonical h ..
      · exact updTurn_canonical h ..
      · split
        · exact updTurn_canonical h ..
        · exact updTurn_canonical h ..
        · split
          · exact updTurn_canonical h ..
          · split
            · exact updTurn_canonical h ..
            · exact turnJoin_canonical h ..

theorem turnSettle_canonical (x y : Nat) {s : State} (h : s.Canonical) : (turnSettle x y s).Canonical := by
  induction x generalizing s with
  | zero => exact h
  | succ n ih =>
    unfold turnSettle
    grind [turnStep_canonical]

theorem execTurntableCommand_canonical : Keeps execTurntableCommand := fun h => event_canonical h fun _ h => turnStep_canonical h ..

theorem turnRead_canonical (a : Word) (n : Nat) {s : State} (h : s.Canonical) :
    Kept Halt.Canonical SndCanonical (turnRead a n s) := by
  refine (check_canonical _ _ _).bind fun _ _ => (check_canonical _ _ _).bind fun _ _ => ?_
  refine (foldlM_kept (P := SndCanonical) (fun r p hr => ?_) _ h).bind fun ⟨ls, s1⟩ h1 => ?_
  · exact (locate_canonical _ _ _ _ _ _ hr).bind fun ⟨_, _⟩ h => h
  refine (foldlM_kept (fun _ _ h => register_canonical _ _ _ _ _ _ h) _ h1).bind fun s1 h1 => ?_
  refine (foldlM_kept (P := Free) (fun _ _ _ => reached_canonical _ _ _) _ True.intro).bind fun _ _ => ?_
  dsimp only
  split
  · exact h
  · refine foldlM_kept (P := SndCanonical) (fun r l hr => ?_) _ h1
    have hq := fun q p k n repl => updMe_canonical (readAcc_canonical hr r.2.focus q p k n repl)
    split
    · exact updMe_canonical h1 _
    · exact hq ..

theorem execTgld_canonical (real : Bool) (a : SReg) (g : GReg) : Keeps (execTgld real a g) :=
  fun h => word_canonical h fun _ h => (turnRead_canonical _ _ h).bind fun ⟨_, _⟩ h => (check_canonical _ _ _).bind fun _ _ =>
  (turnRead_canonical _ _ h).bind fun ⟨_, _⟩ h => delay_canonical (updMe_canonical (openLat_canonical h) _) ..

theorem turnPush_canonical {s : State} (h : s.Canonical) (op : TurnOp) (sa sd : Word) : (s.turnPush op sa sd).2.Canonical := by
  unfold State.turnPush
  extract_lets t isOpen
  cases isOpen
  · exact updTurn_canonical h ..
  · exact updTurn_canonical (openLat_canonical h) ..

theorem turnReady_canonical {s : State} (h : s.Canonical) : Kept Halt.Canonical Free (turnReady s) := by
  grind [turnReady, Kept, Halt.Canonical, setProg_canonical, notReady_canonical]

theorem turnQueue_canonical (keys : List Nat) (op : State → TurnOp) (sa sd : State → Word) {s : State} (h : s.Canonical) :
    NextCanonical (turnQueue keys op sa sd s) :=
  word_canonical h fun _ h => (turnReady_canonical h).bind fun _ _ => turnPush_canonical h ..

theorem execTbind_canonical (a : SReg) : Keeps (execTbind a) :=
  fun h => word_canonical h fun _ h => (turnReady_canonical h).bind fun _ _ => (turnRead_canonical _ _ h).bind fun ⟨_, _⟩ h =>
  (check_canonical _ _ _).bind fun _ _ => turnPush_canonical h ..

theorem execTmap_canonical (n : BitVec 2) (a : SReg) : Keeps (execTmap n a) := fun h => turnQueue_canonical _ _ _ _ h ..

theorem execTgate_canonical (m : TurnMode) (a : SReg) (g : GReg) : Keeps (execTgate m a g) :=
  fun h => turnQueue_canonical _ _ _ _ h ..

theorem execTcgate_canonical (m : TurnMode) (d a : SReg) (g : GReg) : Keeps (execTcgate m d a g) :=
  fun h => turnQueue_canonical _ _ _ _ h ..

theorem execTdiag_canonical (m : TurnMode) (a : SReg) (g : GReg) : Keeps (execTdiag m a g) :=
  fun h => turnQueue_canonical _ _ _ _ h ..

theorem execTswap_canonical (a : SReg) : Keeps (execTswap a) := fun h => turnQueue_canonical _ _ _ _ h ..

theorem turnBlame_canonical {s : State} (h : s.Canonical) : Kept Halt.Canonical Free (turnBlame s) := by
  unfold turnBlame
  split
  · exact True.intro
  · exact h

theorem turnReduce_canonical (keys : List Nat) (op : TurnOp) (d : SReg) (sa : State → Word) {s : State} (h : s.Canonical) :
    NextCanonical (turnReduce keys op d sa s) := by
  refine word_canonical h fun s h => ?_
  cases s.prog .s
  case turn n =>
    dsimp only
    split
    · have h1 := updTurn_canonical h (clusterOf s.focus) (fun t => { t with results := t.results.filter fun x => x.1 != n })
      exact (turnBlame_canonical h1).bind fun _ _ => wrS_canonical h1 ..
    · split
      · exact h
      · exact (turnBlame_canonical h).bind fun _ _ => h
  all_goals
    exact (turnReady_canonical h).bind fun _ _ => setProg_canonical (turnPush_canonical h ..) ..

theorem execTprob_canonical (d a : SReg) : Keeps (execTprob d a) := fun h => turnReduce_canonical _ _ _ _ h ..

theorem execTnorm_canonical (m : TurnMode) (d : SReg) : Keeps (execTnorm m d) := fun h => turnReduce_canonical _ _ _ _ h ..

theorem execTwait_canonical : Keeps execTwait := fun h => word_canonical h fun s h => by
  cases s.prog .s
  case turn n =>
    dsimp only
    split
    · exact h
    · exact (turnBlame_canonical h).bind fun _ _ => h
  all_goals
    refine (turnReady_canonical h).bind fun _ _ => ?_
    dsimp only
    split
    · exact (turnBlame_canonical h).bind fun _ _ => h
    · exact setProg_canonical (turnPush_canonical h ..) ..

end Sys2Proof.Machine
end

section
/-! SUPPORT. The canonical form of memory, preemption. -/

namespace Sys2Proof.Machine

open Sys2Proof

theorem execPhint_canonical (a : SReg) : Keeps (execPhint a) := fun h => word_canonical h fun s h => by
  dsimp only
  split
  · exact h
  · split
    · exact h
    · split
      · refine (check_canonical _ _ _).bind fun _ _ => (check_canonical _ _ _).bind fun _ _ => ?_
        split
        · exact updMe_canonical h _
        · exact updLane_canonical (updMe_canonical (updMe_canonical h _) _) ..
      · exact True.intro

theorem heldCurs_canonical {s : State} (h : s.Canonical) : s.heldCurs.Canonical := by
  refine foldl_canonical (fun s f h => ?_) _ h
  grind [moveCur_canonical]

theorem saveBytes_canonical {s : State} (h : s.Canonical) (key n : Nat) : (saveBytes s key n).2.Canonical := h

theorem image_canonical {s : State} (h : s.Canonical) : Kept Halt.Canonical SndCanonical s.image := by
  unfold State.image
  dsimp only
  refine (foldlM_kept (P := SndCanonical) (fun r n hr => ?_) _ ?_).bind fun ⟨_, _⟩ h => h
  · split
    · exact hr
    · exact (engineReadRun_canonical _ _ _ hr).bind fun ⟨_, _⟩ h => h
  · refine foldl_snd (fun r p h => ?_) _ (foldl_snd (fun r b h => ?_) _ h)
    · exact saveBytes_canonical h ..
    · exact saveBytes_canonical h ..

theorem saveNow_canonical {s : State} (h : s.Canonical) : (State.saveNow s).Canonical := by
  unfold State.saveNow
  extract_lets me s1 s2 a
  have h2 : s2.Canonical := closeRegs_canonical (drainAll_canonical (heldCurs_canonical (updMe_canonical h _)) ..) ..
  clear_value s2 a
  split
  · exact endTask_canonical h2 ..
  next bs t ht =>
    have ht : SndCanonical (bs, t) := Kept.of_eq_ok ht <| (image_canonical h2).bind fun ⟨_, _⟩ h =>
      (engineWriteRun_canonical _ _ _ h).bind fun _ h => h
    exact leaveTask_canonical (haltCore_canonical (updDie_canonical (updMe_canonical ht _) ..) _) ..

theorem execContextSave_canonical : Keeps execContextSave := fun h => event_canonical h fun _ h => by
  grind [saveNow_canonical]

theorem execPreemptRequest_canonical : Keeps execPreemptRequest := fun h => event_canonical h fun s h => by
  dsimp only
  split <;> exact h

theorem execPreemptWithdraw_canonical : Keeps execPreemptWithdraw := fun h => event_canonical h fun _ h => updMe_canonical h ..

theorem debugNow_canonical {s : State} (h : s.Canonical) : s.debugNow.Canonical := by
  unfold State.debugNow
  split
  · exact takeTrap_canonical (updMe_canonical h _) ..
  · exact h

theorem execDebug_canonical : Keeps execDebug := fun h => event_canonical h fun s h => by
  split
  · exact h
  · exact debugNow_canonical h ..

theorem execResume_canonical : Keeps execResume := fun h => event_canonical h fun s h => by
  split <;> exact h

theorem execEnd_canonical : Keeps execEnd := fun h => event_canonical h fun _ h => by
  grind [endTask_canonical]

theorem execSave_canonical : Keeps execSave := fun h => event_canonical h fun s h => by
  dsimp only
  split <;> exact h

theorem imageBytes_canonical (a : Word) (n : Nat) {s : State} (h : s.Canonical) :
    ∀ r, imageBytes a n s = some r → r.2.Canonical := by
  grind [imageBytes, Kept, engineReadRun_canonical]

theorem readImage.read_canonical (a : Word) {s : State} (h : s.Canonical) : ∀ r, readImage.read a s = some r → r.2.Canonical := by
  intro r hr
  simp only [readImage.read, Option.bind_eq_bind, Option.bind_eq_some_iff] at hr
  obtain ⟨⟨hd, s1⟩, h1, ⟨mid, s2⟩, h2, hr⟩ := hr
  have h2 := imageBytes_canonical _ _ (imageBytes_canonical _ _ h _ h1) _ h2
  split at hr
  · grind
  · simp only [Option.bind_eq_some_iff] at hr
    obtain ⟨⟨cn, s3⟩, h3, ⟨rest, s4⟩, h4, hr⟩ := hr
    have h4 := imageBytes_canonical _ _ (imageBytes_canonical _ _ h2 _ h3) _ h4
    grind

theorem readImage_canonical (a : Word) {s : State} (h : s.Canonical) :
    ∀ r, readImage a s = some r → r.2.Canonical := by
  have hr := readImage.read_canonical a h
  unfold readImage
  split
  · split
    · rintro r ⟨⟩
      exact h
    · exact hr
  · exact hr

theorem requeue_canonical {s : State} (h : s.Canonical) (i : Image) : (s.requeue i).Canonical := by
  unfold State.requeue
  split
  · exact h
  · refine foldl_canonical (fun s n h => ?_) _ (updMe_canonical h _)
    exact moveCur_canonical (updMe_canonical (take_canonical (feedLat_canonical h _)) _) ..

theorem askUnits_canonical {s : State} (h : s.Canonical) (n : Nat) : Kept Free State.Canonical (s.askUnits n) := by
  unfold State.askUnits
  split
  · exact h
  · split
    · exact True.intro
    · exact h

theorem imageHeader_canonical (ctx : Word) (sh pos : Nat) {s : State} (h : s.Canonical) :
    ∀ r, imageHeader ctx sh pos s = some r → r.2.Canonical := by
  have hb := imageBytes_canonical ctx 8 h
  unfold imageHeader
  grind

theorem restoreCore_canonical {s : State} (h : s.Canonical) (e : Entry) (ctx : Word) :
    Kept Free State.Canonical (s.restoreCore e ctx) := by
  unfold State.restoreCore
  extract_lets bad me x slots
  split
  · exact True.intro
  next hd s1 hs =>
    have h1 := imageHeader_canonical _ _ _ h _ hs
    extract_lets same p
    split
    · exact True.intro
    next i s2 hi =>
      have h2 := readImage_canonical _ h1 _ hi
      extract_lets pt
      split
      · exact True.intro
      · rename_i now s3 s4 s5 s6 _
        have h4 : s4.Canonical := foldl_canonical (fun _ _ h => poke_canonical h ..) _ (updMe_canonical h2 _)
        have h5 : s5.Canonical := foldl_snd (fun _ _ h => poke_canonical h ..) _ h4
        refine askUnits_canonical ?_ _
        dsimp only [s6]
        split
        · exact foldl_canonical (fun s l h => loadBuffer_canonical h l) _ (requeue_canonical h5 i)
        · exact h5

theorem dropBuffers_canonical {s : State} (h : s.Canonical) (ctx : Word) : (s.dropBuffers ctx).Canonical := h

theorem enterTask_canonical {s : State} (h : s.Canonical) (d : Nat) (r : BitVec 128) (lamp : List CoreId) (no owners slot : Nat)
    (data : List Byte) :
    (s.enterTask d r lamp no owners slot data).Canonical := by
  unfold State.enterTask
  extract_lets i e0 vf no'
  split
  · exact h
  next g hg =>
    have he := readEntry_canonical d i (bindShape r) (bindFirst r) lamp no' g h
    split
    · exact failGraph_canonical h ..
    next e s1 hs =>
      rw [hs] at he
      extract_lets s2 s3
      have h3 : s3.Canonical :=
        foldl_canonical (fun _ _ h => updCore_canonical (enterCore_canonical h ..) ..) _ (updDie_canonical he ..)
      have hr := foldlM_kept (E := Free) (P := State.Canonical) (g := fun (s : State) c =>
        ({ s with focus := c }).restoreCore e (bindCtx r))
        (fun s c h => restoreCore_canonical (s := { s with focus := c }) h _ _) (bindCores r) h3
      split
      · exact h3
      · split
        next t ht =>
          rw [ht] at hr
          exact dropBuffers_canonical (s := { t with focus := s3.focus }) hr _
        · exact foldl_canonical (fun _ _ h => endTask_canonical h ..) _ h3

theorem execDispatch_canonical : Keeps execDispatch := fun h => event_canonical h fun s h => by
  dsimp only
  split
  · exact h
  · exact foldl_canonical (fun _ _ h => enterTask_canonical h ..) _ (take_canonical (updDie_canonical h ..))

end Sys2Proof.Machine
end

section
/-! SUPPORT. The canonical form of memory, cycles and turns. -/

namespace Sys2Proof.Machine

open Sys2Proof

theorem fetchHeld_canonical {s : State} (h : s.Canonical) (l : Lane) : (State.fetchHeld s l).2.Canonical := by
  have hf := foldlM_kept (P := State.Canonical) (g := fun s i => ensureCode l i s) (fun _ _ h => ensureCode_canonical _ _ h)
    (s.me.heldIdx l) h
  unfold State.fetchHeld
  split
  · split
    next t ht =>
      rw [ht] at hf
      exact hf
    · exact h
    · exact h
  · exact h

theorem fetchDue_canonical {s : State} (h : s.Canonical) : s.fetchDue.2.Canonical := by
  refine foldl_snd (fun r l h => ?_) _ h
  have hf := fetchHeld_canonical h l
  grind

theorem issue_canonical {run : Run} (hrun : RunCanonical run) (l : Lane) (x : Held) {s : State} (h : s.Canonical) :
    NextCanonical (issue run l x s) := by
  unfold issue
  split
  · exact raise_canonical h ..
  · split
    · exact raise_canonical h ..
    · exact holdLane_canonical h _
  · split
    · exact hrun _ (updLane_canonical h ..)
    · exact raise_canonical h ..

theorem afterLane_canonical {s : State} (h : s.Canonical) (l : Lane) (pc : Nat) (f : Framing) (was : State) :
    (s.afterLane l pc f was).Canonical := by
  unfold State.afterLane
  split <;> exact h

theorem issueAll_canonical {run : Run} (hrun : RunCanonical run) (x : List (Lane × Held)) {s : State} (h : s.Canonical) :
    NextCanonical (issueAll run x s) := by
  induction x generalizing s with
  | nil => exact h
  | cons p t ih =>
    obtain ⟨l, x⟩ := p
    have hi := issue_canonical hrun l x h
    unfold issueAll
    split
    next r hr =>
      rw [hr] at hi
      exact ih (afterLane_canonical hi ..)
    · exact hi

theorem openCycle_canonical {s : State} (h : s.Canonical) : s.openCycle.Canonical := h

theorem closeCycle_canonical {s : State} (h : s.Canonical) : s.closeCycle.Canonical := by
  grind [State.closeCycle, updMe_canonical, takeTrap_canonical]

theorem drainCycle_canonical {s : State} (h : s.Canonical) : s.drainCycle.Canonical :=
  flushPaths_canonical (flushQueues_canonical h ..) ..

theorem drained_canonical {x : Out} (hx : NextCanonical x) : NextCanonical (drained x) := by
  cases x with
  | next t => exact drainCycle_canonical hx
  | fault f => exact hx
  | refused r => exact hx

theorem moveRegion_canonical {s : State} (h : s.Canonical) : s.moveRegion.Canonical := by
  unfold State.moveRegion
  split <;> exact h

theorem holdGroup_canonical {s : State} (h : s.Canonical) (t : State) (g : List Lane) : (s.holdGroup t g).Canonical := by
  unfold State.holdGroup
  extract_lets late tick s1 s2
  have h1 : s1.Canonical := by
    dsimp only [s1]
    split
    · exact wakeEngine_canonical h _
    · exact h
  refine foldl_canonical (fun s l h => updLane_canonical h ..) _ ?_
  dsimp only [s2]
  split
  · exact setProg_canonical h1 ..
  · exact h1

theorem groupCycle_canonical {run : Run} (hrun : RunCanonical run) (hs : List (Lane × Held)) {s : State} (h : s.Canonical) :
    NextCanonical (groupCycle run hs s) := by
  have hg := hrun .syncGroup h
  unfold groupCycle
  split
  · exact takeTrap_canonical h ..
  · split
    next s1 h1 =>
      rw [h1] at hg
      have hi := issueAll_canonical hrun hs (openCycle_canonical hg)
      split
      next t ht =>
        rw [ht] at hi
        dsimp only
        split
        · exact holdGroup_canonical hg ..
        · split
          · exact takeTrap_canonical hg ..
          · exact closeCycle_canonical (moveRegion_canonical hi)
      · exact hi
    · exact hg

theorem cycle_canonical {run : Run} (hrun : RunCanonical run) {s : State} (h : s.Canonical) : NextCanonical (cycle run s) := by
  have ht := fetchDue_canonical h
  unfold cycle
  dsimp only
  refine drained_canonical ?_
  split
  · exact groupCycle_canonical hrun _ ht
  · split
    · exact ht
    · exact issueAll_canonical hrun _ ht
    next hs _ _ =>
      have hi := issueAll_canonical hrun s.fetchDue.1 (openCycle_canonical ht)
      split
      next u hu =>
        rw [hu] at hi
        exact closeCycle_canonical hi
      · exact hi

theorem execSyncGroup_canonical : Keeps execSyncGroup := fun h => event_canonical h fun s h => by
  split
  · split <;> exact h
  · exact h

theorem settleCore_canonical {s : State} (h : s.Canonical) (c : CoreId) : (s.settleCore c).Canonical := by
  grind [State.settleCore, atCore_canonical, flushPaths_canonical, flushQueues_canonical, feedSettle_canonical,
    matSettle_canonical, xferSettle_canonical, updMe_canonical, lampHere_canonical, debugNow_canonical, saveNow_canonical]

theorem settle_canonical {s : State} (h : s.Canonical) : s.settle.Canonical := by
  unfold State.settle
  extract_lets s1 s2 s3 s4 s5 s6 t
  have h2 : s2.Canonical := throttleSettle_canonical <| windowEnd_canonical <| grantAll_canonical <|
    foldl_canonical (fun _ _ h => endRamp_canonical h _) _ h
  have h3 : s3.Canonical := by
    dsimp only [s3]
    split
    · exact foldl_canonical (fun _ _ h => turnSettle_canonical _ _ h) _ h2
    · exact h2
  have h4 : s4.Canonical := foldl_canonical (fun _ _ h => settleCore_canonical h _) _ h3
  have h5 : s5.Canonical := by
    dsimp only [s5]
    split
    · exact parkSettle_canonical (invalidateNext_canonical h4)
    · exact h4
  exact stepSettle_canonical h5

theorem passTo_canonical {s : State} (h : s.Canonical) (t : Nat) : (s.passTo t).Canonical := settle_canonical h ..

theorem refocus_canonical (c : CoreId) {x : Out} (hx : NextCanonical x) : NextCanonical (refocus c x) := by
  cases x with
  | next t => exact hx
  | fault f => exact hx
  | refused r => exact hx

theorem coreTurn_canonical {run : Run} (hrun : RunCanonical run) (c : CoreId) {s : State} (h : s.Canonical) :
    NextCanonical (coreTurn run c s) := by
  have ht := passTo_canonical h s.nextTick
  unfold coreTurn
  generalize s.passTo s.nextTick = t at ht ⊢
  dsimp only
  split
  next d _ => exact refocus_canonical c (cycle_canonical hrun (s := { t with focus := d }) ht)
  · exact ht

theorem boxTurn_canonical {run : Run} (hrun : RunCanonical run) (n : Nat) {s : State} (h : s.Canonical) :
    NextCanonical (boxTurn run n s) := by
  unfold boxTurn
  split
  · exact h
  next k _ =>
    have hb := boxFetch_canonical h k
    split
    next i t ht =>
      rw [ht] at hb
      exact hrun i (s := { t with boxFocus := k }) hb
    · exact boxEnd_canonical h k True.intro

theorem input_canonical {s : State} (h : s.Canonical) (x : Input) : (s.input x).Canonical := by
  cases x
  case recordsRead d n =>
    refine foldl_canonical (fun s r h => ?_) _ (recordsRead_canonical h ..)
    dsimp only
    split
    · exact atCore_canonical h _ fun _ h => endPosted_canonical h
    · exact h
  case turnPeer cl p => exact turnPeer_canonical h ..
  case farWrite pa bs => exact farWrite_canonical h ..
  case farHalo c g n => exact farHalo_canonical h ..
  case authFail c n wb => exact authFail_canonical h ..
  case badFlow => exact countFab_canonical h _
  case engineTimeout c id => exact engineTimeout_canonical h ..
  case capDevice p n => exact capDevice_canonical h ..
  case corrected k => exact corrected_canonical h _

theorem eventTurn_canonical {run : Run} (hrun : RunCanonical run) (i : Instr) (a : EventArg) {s : State} (h : s.Canonical) :
    NextCanonical (eventTurn run i a s) := by
  have hr := hrun i (s := { s with arg := a, focus := a.core }) h
  unfold eventTurn
  split
  · exact True.intro
  · split
    next t ht =>
      rw [ht] at hr
      split
      · exact cycle_canonical hrun hr
      · exact hr
    · exact hr

theorem frozenTurn_canonical {run : Run} (hrun : RunCanonical run) (t : Turn) {s : State} (h : s.Canonical) :
    NextCanonical (frozenTurn run t s) := by
  unfold frozenTurn
  split
  next a => exact hrun _ (s := { s with arg := a, focus := a.core }) h
  · exact h

theorem runTurn_canonical {run : Run} (hrun : RunCanonical run) (t : Turn) {s : State} (h : s.Canonical) :
    NextCanonical (runTurn run t s) := by
  unfold runTurn
  split
  · exact frozenTurn_canonical hrun t h
  · cases t with
    | core c => exact coreTurn_canonical hrun c h
    | box n => exact boxTurn_canonical hrun n h
    | event i a => exact eventTurn_canonical hrun i a h
    | input x => exact input_canonical h x
    | tick n => exact passTo_canonical h _
    | eager b =>
      cases b
      · exact h
      · exact settle_canonical (s := { s with eager := true }) h
    | latencies l => exact h

theorem newTurn_canonical {s : State} (h : s.Canonical) : s.newTurn.Canonical := by
  unfold State.newTurn
  split <;> exact h

theorem stepWith_canonical {run : Run} (hrun : RunCanonical run) {s : State} (h : s.Canonical) : NextCanonical (stepWith run s) := by
  have hn := newTurn_canonical h
  unfold stepWith
  dsimp only
  split
  · split
    · exact hn
    · exact coreTurn_canonical hrun _ hn
  next t r _ => exact runTurn_canonical hrun t (s := { s.newTurn with agenda := r }) hn

end Sys2Proof.Machine
end

section
/-! SUPPORT. The canonical form of memory: `exec` and the step (O58). -/

namespace Sys2Proof.Machine

open Sys2Proof

theorem exec_canonical (i : Instr) : Keeps (exec i) :=
  match i with
  | .add d a b => execAdd_canonical d a b
  | .sub d a b => execSub_canonical d a b
  | .and_ d a b => execAnd_canonical d a b
  | .or_ d a b => execOr_canonical d a b
  | .xor_ d a b => execXor_canonical d a b
  | .andn d a b => execAndn_canonical d a b
  | .shl d a b => execShl_canonical d a b
  | .shr d a b => execShr_canonical d a b
  | .sra d a b => execSra_canonical d a b
  | .slt d a b => execSlt_canonical d a b
  | .sltu d a b => execSltu_canonical d a b
  | .min_ d a b => execMin_canonical d a b
  | .max_ d a b => execMax_canonical d a b
  | .minu d a b => execMinu_canonical d a b
  | .maxu d a b => execMaxu_canonical d a b
  | .sel d a b => execSel_canonical d a b
  | .mul d a b => execMul_canonical d a b
  | .mulh d a b => execMulh_canonical d a b
  | .mulhu d a b => execMulhu_canonical d a b
  | .div d a b => execDiv_canonical d a b
  | .divu d a b => execDivu_canonical d a b
  | .rem d a b => execRem_canonical d a b
  | .remu d a b => execRemu_canonical d a b
  | .clz d a => execClz_canonical d a
  | .ctz d a => execCtz_canonical d a
  | .popc d a => execPopc_canonical d a
  | .addi d a imm => execAddi_canonical d a imm
  | .andi d a imm => execAndi_canonical d a imm
  | .ori d a imm => execOri_canonical d a imm
  | .xori d a imm => execXori_canonical d a imm
  | .shli d a sh => execShli_canonical d a sh
  | .shri d a sh => execShri_canonical d a sh
  | .srai d a sh => execSrai_canonical d a sh
  | .slti d a imm => execSlti_canonical d a imm
  | .lis d k imm => execLis_canonical d k imm
  | .beq a b off => execBeq_canonical a b off
  | .bne a b off => execBne_canonical a b off
  | .blt a b off => execBlt_canonical a b off
  | .bge a b off => execBge_canonical a b off
  | .bltu a b off => execBltu_canonical a b off
  | .bgeu a b off => execBgeu_canonical a b off
  | .loop a off => execLoop_canonical a off
  | .jmp off => execJmp_canonical off
  | .call off => execCall_canonical off
  | .jal d off => execJal_canonical d off
  | .jalr d a imm => execJalr_canonical d a imm
  | .mcall n d a b => execMcall_canonical n d a b
  | .idle n => execIdle_canonical n
  | .ldB d a imm => execLdB_canonical d a imm
  | .ldBu d a imm => execLdBu_canonical d a imm
  | .ldH d a imm => execLdH_canonical d a imm
  | .ldHu d a imm => execLdHu_canonical d a imm
  | .ldW d a imm => execLdW_canonical d a imm
  | .ldWu d a imm => execLdWu_canonical d a imm
  | .ldD d a imm => execLdD_canonical d a imm
  | .stB a b off => execStB_canonical a b off
  | .stH a b off => execStH_canonical a b off
  | .stW a b off => execStW_canonical a b off
  | .stD a b off => execStD_canonical a b off
  | .ldx sz scale d a b => execLdx_canonical sz scale d a b
  | .stx sz scale d a b => execStx_canonical sz scale d a b
  | .pref hint a imm => execPref_canonical hint a imm
  | .aptoPkg d a => execAptoPkg_canonical d a
  | .aptoOwn d a => execAptoOwn_canonical d a
  | .apis w d a => execApis_canonical w d a
  | .ldaW d a imm => execLdaW_canonical d a imm
  | .ldaD d a imm => execLdaD_canonical d a imm
  | .stlW a b off => execStlW_canonical a b off
  | .stlD a b off => execStlD_canonical a b off
  | .atomW op ord d a b => execAtomW_canonical op ord d a b
  | .atomD op ord d a b => execAtomD_canonical op ord d a b
  | .casW succ fail d a b => execCasW_canonical succ fail d a b
  | .casD succ fail d a b => execCasD_canonical succ fail d a b
  | .fatomW op d a b => execFatomW_canonical op d a b
  | .fatomD op d a b => execFatomD_canonical op d a b
  | .fence kind scope => execFence_canonical kind scope
  | .sigadd g a => execSigadd_canonical g a
  | .sigwait g a => execSigwait_canonical g a
  | .sigexpect g a => execSigexpect_canonical g a
  | .sigread d g => execSigread_canonical d g
  | .ringclaim d r a => execRingclaim_canonical d r a
  | .ringcommit r a => execRingcommit_canonical r a
  | .ringwaitf r a => execRingwaitf_canonical r a
  | .ringwaite r a => execRingwaite_canonical r a
  | .ringtake d r => execRingtake_canonical d r
  | .ringdone r a => execRingdone_canonical r a
  | .own first count1 o => execOwn_canonical first count1 o
  | .ownwait first count1 o => execOwnwait_canonical first count1 o
  | .tickwait a => execTickwait_canonical a
  | .lamptest d => execLamptest_canonical d
  | .collrdy a b => execCollrdy_canonical a b
  | .rprobe d a b => execRprobe_canonical d a b
  | .rput a b => execRput_canonical a b
  | .rdrop a => execRdrop_canonical a
  | .lvread d n => execLvread_canonical d n
  | .lvwrite n a => execLvwrite_canonical n a
  | .mfsel src base => execMfsel_canonical src base
  | .acqp n => execAcqp_canonical n
  | .relp n => execRelp_canonical n
  | .setdiv eng dv => execSetdiv_canonical eng dv
  | .phint a => execPhint_canonical a
  | .trap n => execTrap_canonical n
  | .sysr d n => execSysr_canonical d n
  | .sysw n a => execSysw_canonical n a
  | .l2conv back ways => execL2conv_canonical back ways
  | .event a => execEvent_canonical a
  | .xdset x a n => execXdset_canonical x a n
  | .xdsetD1 x a b => execXdsetD1_canonical x a b
  | .xdsetD2 x a b => execXdsetD2_canonical x a b
  | .xdsetWin x a b => execXdsetWin_canonical x a b
  | .xdsetLen x a b => execXdsetLen_canonical x a b
  | .tbind a => execTbind_canonical a
  | .tmap n a => execTmap_canonical n a
  | .tgld real a g => execTgld_canonical real a g
  | .tgate m a g => execTgate_canonical m a g
  | .tcgate m d a g => execTcgate_canonical m d a g
  | .tdiag m a g => execTdiag_canonical m a g
  | .tswap a => execTswap_canonical a
  | .tprob d a => execTprob_canonical d a
  | .tnorm m d => execTnorm_canonical m d
  | .vsetshape ty vl => execVsetshape_canonical ty vl
  | .vadd d a b p => execVadd_canonical d a b p
  | .vsub d a b p => execVsub_canonical d a b p
  | .vmul d a b p => execVmul_canonical d a b p
  | .vdiv d a b p => execVdiv_canonical d a b p
  | .vmin d a b p => execVmin_canonical d a b p
  | .vmax d a b p => execVmax_canonical d a b p
  | .vfma d a b p => execVfma_canonical d a b p
  | .vfms d a b p => execVfms_canonical d a b p
  | .vfnma d a b p => execVfnma_canonical d a b p
  | .vcmul d a b p => execVcmul_canonical d a b p
  | .vabs d a p => execVabs_canonical d a p
  | .vneg d a p => execVneg_canonical d a p
  | .vrcp d a p => execVrcp_canonical d a p
  | .vrsqrt d a p => execVrsqrt_canonical d a p
  | .vsqrt d a p => execVsqrt_canonical d a p
  | .vexp2 d a p => execVexp2_canonical d a p
  | .vlog2 d a p => execVlog2_canonical d a p
  | .vsinpi d a p => execVsinpi_canonical d a p
  | .vcospi d a p => execVcospi_canonical d a p
  | .vsig d a p => execVsig_canonical d a p
  | .viadd d a b p => execViadd_canonical d a b p
  | .visub d a b p => execVisub_canonical d a b p
  | .vimul d a b p => execVimul_canonical d a b p
  | .vand d a b p => execVand_canonical d a b p
  | .vor d a b p => execVor_canonical d a b p
  | .vxor d a b p => execVxor_canonical d a b p
  | .vshl d a b p => execVshl_canonical d a b p
  | .vshr d a b p => execVshr_canonical d a b p
  | .vsra d a b p => execVsra_canonical d a b p
  | .vcmp c d a b p => execVcmp_canonical c d a b p
  | .vcmpU c d a b p => execVcmpU_canonical c d a b p
  | .pand d a b => execPand_canonical d a b
  | .por d a b => execPor_canonical d a b
  | .pxor d a b => execPxor_canonical d a b
  | .eform d a b p => execEform_canonical d a b p
  | .pcount d a => execPcount_canonical d a
  | .vql4dec d a blk p => execVql4dec_canonical d a blk p
  | .vql4enc d a p => execVql4enc_canonical d a p
  | .vredsum d a p => execVredsum_canonical d a p
  | .vredmax d a p => execVredmax_canonical d a p
  | .vredmin d a p => execVredmin_canonical d a p
  | .vscan d a p => execVscan_canonical d a p
  | .vcvt d a ty rm p => execVcvt_canonical d a ty rm p
  | .vcvtS d a ty rm p => execVcvtS_canonical d a ty rm p
  | .eclr d => execEclr_canonical d
  | .eshift d a => execEshift_canonical d a
  | .econv d a => execEconv_canonical d a
  | .elshift d a => execElshift_canonical d a
  | .eadd d a => execEadd_canonical d a
  | .eord n => execEord_canonical n
  | .vperm d a b p => execVperm_canonical d a b p
  | .vslide d a n p => execVslide_canonical d a n p
  | .vbcast d a p => execVbcast_canonical d a p
  | .vcompress d a p => execVcompress_canonical d a p
  | .vbucket d a b p => execVbucket_canonical d a b p
  | .vld d x p => execVld_canonical d x p
  | .vst d x p => execVst_canonical d x p
  | .vlds d a b p => execVlds_canonical d a b p
  | .vsts d a b p => execVsts_canonical d a b p
  | .vgather d a b p => execVgather_canonical d a b p
  | .vscatter d a b p => execVscatter_canonical d a b p
  | .qld q x => execQld_canonical q x
  | .vmovs d a n p => execVmovs_canonical d a n p
  | .vguide d a b p => execVguide_canonical d a b p
  | .vstep d a b p => execVstep_canonical d a b p
  | .vtemb d a p => execVtemb_canonical d a p
  | .vloop off n => execVloop_canonical off n
  | .vbr c off p => execVbr_canonical c off p
  | .tcfg t rows1 cols1 => execTcfg_canonical t rows1 cols1
  | .tldrow t x row => execTldrow_canonical t x row
  | .tstrow t x row => execTstrow_canonical t x row
  | .tmovr d t row => execTmovr_canonical d t row
  | .tmovc d t col => execTmovc_canonical d t col
  | .tzero t => execTzero_canonical t
  | .tfma d a b => execTfma_canonical d a b
  | .eeval d a b p => execEeval_canonical d a b p
  | .ep2p d a b p => execEp2p_canonical d a b p
  | .eadmit d a b => execEadmit_canonical d a b
  | .eld d x => execEld_canonical d x
  | .est d x => execEst_canonical d x
  | .mma ab k1 mf rh ncol1 => execMma_canonical ab k1 mf rh ncol1
  | .mmasp ab k1 mf rh ncol1 => execMmasp_canonical ab k1 mf rh ncol1
  | .mmv ab k1 mf nv1 => execMmv_canonical ab k1 mf nv1
  | .mzero ab count => execMzero_canonical ab count
  | .malloc ab count => execMalloc_canonical ab count
  | .mfree ab count => execMfree_canonical ab count
  | .mhand ab count core => execMhand_canonical ab count core
  | .mdrain ab count x sg se => execMdrain_canonical ab count x sg se
  | .mload ab count x => execMload_canonical ab count x
  | .mfmt mf x => execMfmt_canonical mf x
  | .mloop n off => execMloop_canonical n off
  | .xcopy a b sg se => execXcopy_canonical a b sg se
  | .xfeeda a n1 => execXfeeda_canonical a n1
  | .xfeedb a n1 => execXfeedb_canonical a n1
  | .xmcast mc b sg se => execXmcast_canonical mc b sg se
  | .xgather a b c sg se => execXgather_canonical a b c sg se
  | .xzce w a b sg se => execXzce_canonical w a b sg se
  | .xzcd w a b sg se => execXzcd_canonical w a b sg se
  | .xdelta ty a b sg se => execXdelta_canonical ty a b sg se
  | .xhalo a b sg se => execXhalo_canonical a b sg se
  | .xsig sg n => execXsig_canonical sg n
  | .xloop n off => execXloop_canonical n off
  | .sburst mc units src => execSburst_canonical mc units src
  | .swrite addr v => execSwrite_canonical addr v
  | .sloop n off => execSloop_canonical n off
  | .swait core sg t => execSwait_canonical core sg t
  | .ssig core sg n => execSsig_canonical core sg n
  | .sexpert e mc => execSexpert_canonical e mc
  | .sfetch e peer pkg => execSfetch_canonical e peer pkg
  | .scount first n table => execScount_canonical first n table
  | .sjump off => execSjump_canonical off
  | .ret => execRet_canonical
  | .halt => execHalt_canonical
  | .vfence => execVfence_canonical
  | .sync => execSync_canonical
  | .lampsend => execLampsend_canonical
  | .wake => execWake_canonical
  | .eret => execEret_canonical
  | .twait => execTwait_canonical
  | .vnop => execVnop_canonical
  | .mwait => execMwait_canonical
  | .mstop => execMstop_canonical
  | .xnop => execXnop_canonical
  | .xwait => execXwait_canonical
  | .shalt => execShalt_canonical
  | .spark => execSpark_canonical
  | .syncGroup => execSyncGroup_canonical
  | .codeFetch => execCodeFetch_canonical
  | .evRead => execEvRead_canonical
  | .evWrite => execEvWrite_canonical
  | .evFetch => execEvFetch_canonical
  | .evEvict => execEvEvict_canonical
  | .evDrain => execEvDrain_canonical
  | .evWb => execEvWb_canonical
  | .evMark => execEvMark_canonical
  | .evExcl => execEvExcl_canonical
  | .evFar => execEvFar_canonical
  | .evVert => execEvVert_canonical
  | .evHorz => execEvHorz_canonical
  | .evEng => execEvEng_canonical
  | .evDone => execEvDone_canonical
  | .evSig => execEvSig_canonical
  | .qldFill => execQldFill_canonical
  | .feedEntryPush => execFeedEntryPush_canonical
  | .manifestResolve => execManifestResolve_canonical
  | .mCommandCommit => execMCommandCommit_canonical
  | .tileRestore => execTileRestore_canonical
  | .turntableCommand => execTurntableCommand_canonical
  | .setdivRampEnd => execSetdivRampEnd_canonical
  | .ringLink => execRingLink_canonical
  | .lampArrive => execLampArrive_canonical
  | .contextSave => execContextSave_canonical
  | .preemptRequest => execPreemptRequest_canonical
  | .preemptWithdraw => execPreemptWithdraw_canonical
  | .debug => execDebug_canonical
  | .resume => execResume_canonical
  | .end_ => execEnd_canonical
  | .save => execSave_canonical
  | .retry => execRetry_canonical
  | .abandon => execAbandon_canonical
  | .macroStoreWrite => execMacroStoreWrite_canonical
  | .ringConfigWrite => execRingConfigWrite_canonical
  | .bindRecordWrite => execBindRecordWrite_canonical
  | .dispatch => execDispatch_canonical
  | .launch => execLaunch_canonical
  | .stepStart => execStepStart_canonical
  | .walkerExpand => execWalkerExpand_canonical
  | .eventCoalesceTimeout => execEventCoalesceTimeout_canonical
  | .evheadWrite => execEvheadWrite_canonical
  | .lqpost => execLqpost_canonical
  | .functionLevelReset => execFunctionLevelReset_canonical
  | .sbStart => execSbStart_canonical
  | .sbStop => execSbStop_canonical
  | .sbctlResume => execSbctlResume_canonical
  | .burstMemberDone => execBurstMemberDone_canonical
  | .fetchEnd => execFetchEnd_canonical
  | .expertEntryWrite => execExpertEntryWrite_canonical
  | .pageOutPacked => execPageOutPacked_canonical
  | .pageOutRaw => execPageOutRaw_canonical
  | .pagesIn => execPagesIn_canonical
  | .badcmd => execBadcmd_canonical
  | .migrationComplete => execMigrationComplete_canonical
  | .tlbInvalidate => execTlbInvalidate_canonical
  | .invalidationComplete => execInvalidationComplete_canonical
  | .l2WayGate => execL2WayGate_canonical
  | .l2WayUngate => execL2WayUngate_canonical
  | .vaultScrub => execVaultScrub_canonical
  | .linkCrc => execLinkCrc_canonical
  | .refreshWindow => execRefreshWindow_canonical
  | .hbmRetrain => execHbmRetrain_canonical
  | .retrain => execRetrain_canonical
  | .healthClear => execHealthClear_canonical
  | .flitReplay => execFlitReplay_canonical
  | .portRetrain => execPortRetrain_canonical
  | .portClear => execPortClear_canonical
  | .fabricCountersClear => execFabricCountersClear_canonical
  | .remoteTimeout => execRemoteTimeout_canonical
  | .ptpMessage => execPtpMessage_canonical
  | .collSendDone => execCollSendDone_canonical
  | .collArrival => execCollArrival_canonical
  | .parkedArrivalApply => execParkedArrivalApply_canonical
  | .powerGrant => execPowerGrant_canonical
  | .drawWindowEnd => execDrawWindowEnd_canonical
  | .throttleInterval => execThrottleInterval_canonical
  | .matrixGate => execMatrixGate_canonical
  | .matrixWakeDone => execMatrixWakeDone_canonical
  | .pwrcfgWrite => execPwrcfgWrite_canonical
  | .reuseCountersClear => execReuseCountersClear_canonical
  | .freeze => execFreeze_canonical
  | .frzN => execFrzN_canonical
  | .packageReset => execPackageReset_canonical
  | .configurationImage => execConfigurationImage_canonical
  | .getVersion => execGetVersion_canonical
  | .getCapabilities => execGetCapabilities_canonical
  | .negotiateAlgorithms => execNegotiateAlgorithms_canonical
  | .getDigests => execGetDigests_canonical
  | .getCertificate => execGetCertificate_canonical
  | .challenge => execChallenge_canonical
  | .getMeasurements => execGetMeasurements_canonical
  | .registerWrite => execRegisterWrite_canonical
  | .uncorrectableError => execUncorrectableError_canonical

/-- Settles O58: the ways to change memory keep the canonical form, every function of the model is put together from
functions that keep it, and so is a step. -/
theorem stepKeepsMemoryCanonical : Obligations.StepKeepsMemoryCanonical := by
  intro s t h hs
  have hk : NextCanonical (step s) := stepWith_canonical exec_canonical h
  rw [hs] at hk
  exact hk

end Sys2Proof.Machine
end

section
/-! SUPPORT. What a step runs: the turn, the lane that issues, the words that it holds (O56). -/

namespace Sys2Proof.Machine

open Sys2Proof

/-! ### Turns -/

@[simp] theorem newTurn_agenda (s : State) : s.newTurn.agenda = s.agenda := by
  unfold State.newTurn
  split <;> rfl

@[simp] theorem newTurn_pkg (s : State) : s.newTurn.pkg = s.pkg := by
  unfold State.newTurn
  split <;> rfl

@[simp] theorem newTurn_focus (s : State) : s.newTurn.focus = s.focus := by
  unfold State.newTurn
  split <;> rfl

/-- With an empty agenda the core in focus takes its turn. -/
theorem step_of_agenda_nil {s : State} (ha : s.agenda = []) (hf : s.pkg.frozen = false) :
    step s = coreTurn exec s.focus s.newTurn := by
  simp [step, stepWith, ha, hf]

/-- Otherwise the head of the agenda is the turn. -/
theorem step_of_agenda_cons {s : State} {t : Turn} {rest : List Turn} (ha : s.agenda = t :: rest) :
    step s = runTurn exec t { s.newTurn with agenda := rest } := by
  simp [step, stepWith, ha]

theorem step_of_box {s : State} {n : Nat} {rest : List Turn} (ha : s.agenda = .box n :: rest) (hf : s.pkg.frozen = false) :
    step s = boxTurn exec n { s.newTurn with agenda := rest } := by
  simp [step_of_agenda_cons ha, runTurn, hf]

theorem step_of_event {s : State} {i : Instr} {a : EventArg} {rest : List Turn} (ha : s.agenda = .event i a :: rest)
    (hf : s.pkg.frozen = false) : step s = eventTurn exec i a { s.newTurn with agenda := rest } := by
  simp [step_of_agenda_cons ha, runTurn, hf]

/-! ### Turns of the Signal Box and of events -/

/-- A context in WAIT goes on with its own word, whichever contexts could start one. -/
theorem boxTurn_of_wait {run : Run} {n : Nat} {s t : State} {i : Instr} (hw : (s.box n).st = .wait)
    (hi : boxFetch s n = .ok (i, t)) : boxTurn run n s = run i { t with boxFocus := n } := by
  simp [boxTurn, hw, hi]

theorem boxTurn_of_starts {run : Run} {n k : Nat} {s t : State} {i : Instr} (hw : (s.box n).st ≠ .wait)
    (hk : (List.range 96).find? s.boxStarts = some k) (hi : boxFetch s k = .ok (i, t)) :
    boxTurn run n s = run i { t with boxFocus := k } := by
  simp [boxTurn, hw, hk, hi]

/-- `SYNC_GROUP` alone lets more than its own meaning happen. -/
theorem eventTurn_of_not_syncGroup {run : Run} {i : Instr} {a : EventArg} {s : State} (hs : i.source = none)
    (hi : i ≠ .syncGroup) : eventTurn run i a s = run i { s with arg := a, focus := a.core } := by
  have hev : ¬ i.source.isSome = true := by simp [hs]
  unfold eventTurn
  rw [if_neg hev]
  split
  · exact absurd rfl hi
  · rfl

/-! ### The words that a lane holds -/

/-- The section of lane `l` holds the words of one instruction at the pc, and the front end has them all: `ws`. -/
structure State.WordsPresent (s : State) (l : Lane) (ws : List Code) : Prop where
  even : l = .m → (s.lane l).pc.toNat % 2 = 0
  length : ws.length = (laneStep l).toNat
  inside : (s.lane l).pc.toNat + ws.length ≤ s.me.clen l
  present : ∀ k (h : k < ws.length), (s.lane l).buf.get ((s.lane l).pc.toNat + k) = some ws[k]

theorem wordIdx_eq_range' (l : Lane) (pc : Nat) : wordIdx l pc = List.range' pc (laneStep l).toNat := by
  cases l <;> rfl

/-- Reading consecutive places that hold the elements of a list gives the list. -/
theorem filterMap_range'_eq {α : Type} {g : Nat → Option α} (ws : List α) (pc : Nat)
    (h : ∀ k (hk : k < ws.length), g (pc + k) = some ws[k]) : (List.range' pc ws.length).filterMap g = ws := by
  induction ws generalizing pc with
  | nil => rfl
  | cons w ws ih =>
    have hhead : g pc = some w := h 0 (Nat.succ_pos _)
    have htail : (List.range' (pc + 1) ws.length).filterMap g = ws := ih (pc + 1) fun k hk => by
      rw [Nat.add_right_comm]
      exact h (k + 1) (Nat.succ_lt_succ hk)
    rw [List.length_cons, List.range'_succ, List.filterMap_cons_some hhead, htail]

section
variable {s : State} {l : Lane} {ws : List Code}

theorem State.WordsPresent.heldIdx (h : s.WordsPresent l ws) : s.me.heldIdx l = List.range' (s.lane l).pc.toNat ws.length := by
  have hin : ∀ i ∈ List.range' (s.lane l).pc.toNat ws.length, decide (i < s.me.clen l) = true := by
    intro i hi
    have := h.inside
    have := List.mem_range'_1.mp hi
    exact decide_eq_true (by omega)
  rw [← List.filter_eq_self.mpr hin, h.length, ← wordIdx_eq_range']
  rfl

theorem State.WordsPresent.isSome (h : s.WordsPresent l ws) {i : Nat} (hi : i ∈ s.me.heldIdx l) :
    ((s.lane l).buf.get i).isSome := by
  rw [h.heldIdx, List.mem_range'_1] at hi
  obtain ⟨k, rfl⟩ := Nat.exists_eq_add_of_le hi.1
  simp [h.present k (by omega)]

theorem State.WordsPresent.read (h : s.WordsPresent l ws) :
    ((s.me.heldIdx l).filterMap fun i => (s.lane l).buf.get i) = ws := by
  rw [h.heldIdx]
  exact filterMap_range'_eq ws _ h.present

/-- Words that are there and decode to an instruction of the level are what the lane holds. -/
theorem State.WordsPresent.held (h : s.WordsPresent l ws) {i : Instr} (hd : decode (.lane l) ws = .ok i)
    (hc : stateCause s i = none) : s.held l = .word i (framing (.lane l) ws) := by
  have hall : ((s.me.heldIdx l).find? fun i => ((s.lane l).buf.get i).isNone) = none := by
    simpa [← Option.isSome_iff_ne_none] using fun i hi => h.isSome hi
  have hpair : ¬(l = .m ∧ ((s.lane l).pc.toNat % 2 = 1 ∨ ws.length < 2)) := by
    rintro ⟨rfl, hbad⟩
    have heven := h.even rfl
    have htwo : ws.length = 2 := h.length
    omega
  simp only [State.held, hall, h.read, if_neg hpair, hd, hc]

theorem ensureCode_of_isSome {i : Nat} (h : ((s.lane l).buf.get i).isSome) : ensureCode l i s = .ok s := by
  obtain ⟨w, hw⟩ := Option.isSome_iff_exists.mp h
  simp [ensureCode, hw]

theorem foldlM_ensureCode_of_isSome (is : List Nat) (h : ∀ i ∈ is, ((s.lane l).buf.get i).isSome) :
    is.foldlM (fun s i => ensureCode l i s) s = .ok s := by
  induction is with
  | nil => rfl
  | cons i is ih =>
    rw [List.foldlM_cons, ensureCode_of_isSome (h i List.mem_cons_self)]
    exact ih fun j hj => h j (List.mem_cons_of_mem i hj)

/-- Nothing is fetched for a lane whose words are there. -/
theorem State.WordsPresent.fetchHeld (h : s.WordsPresent l ws) : s.fetchHeld l = (none, s) := by
  simp [State.fetchHeld, foldlM_ensureCode_of_isSome _ fun _ => h.isSome]

/-! ### A cycle of one lane -/

theorem fetchDue_of_single (hl : s.dueLanes = [l]) (hf : s.fetchHeld l = (none, s)) : s.fetchDue = ([(l, s.held l)], s) := by
  simp [State.fetchDue, hl, hf]

/-- A lane that is alone, and whose word forms no sync group, issues without a latch. -/
theorem cycle_of_single {run : Run} {x : Held} (hl : s.dueLanes = [l]) (hf : s.fetchHeld l = (none, s)) (hx : s.held l = x)
    (hg : x.syn = false ∨ (s.lane l).waiting = true) : cycle run s = drained (issueAll run [(l, x)] s) := by
  have hno : (x.syn && !(s.lane l).waiting) = false := by
    rcases hg with h | h <;> simp [h]
  simp [cycle, fetchDue_of_single hl hf, hx, hno]

/-- A word on its stamp is run, with its framing. -/
theorem issue_word {run : Run} {i : Instr} {f : Framing} (hs : s.onStamp l f = true) :
    issue run l (.word i f) s = run i (s.updLane l fun x => { x with frame := f }) :=
  if_pos hs

/-- The core asked for issues where one of its lanes is due. -/
theorem coreTurn_of_due {run : Run} {c : CoreId} (hd : { s.passTo s.nextTick with focus := c }.dueLanes ≠ []) :
    coreTurn run c s = refocus c (cycle run { s.passTo s.nextTick with focus := c }) := by
  have hc : (s.passTo s.nextTick).coreDue c = true := by simpa [State.coreDue] using hd
  simp [coreTurn, State.whoIssues, hc]

end

/-- A core's turn runs the word of its one lane that is due. -/
theorem coreTurn_runs_word {run : Run} {c : CoreId} {s t : State} {l : Lane} {ws : List Code} {i : Instr}
    (ht : t = { s.passTo s.nextTick with focus := c }) (hl : t.dueLanes = [l]) (hw : t.WordsPresent l ws)
    (hd : decode (.lane l) ws = .ok i) (hc : stateCause t i = none)
    (hg : (framing (.lane l) ws).syn = false ∨ (t.lane l).waiting = true) (hs : t.onStamp l (framing (.lane l) ws) = true) :
    coreTurn run c s = (match run i (t.updLane l fun x => { x with frame := framing (.lane l) ws }) with
      | .next r => .next { (r.afterLane l (t.lane l).pc.toNat (framing (.lane l) ws) t).drainCycle with focus := c }
      | o => o) := by
  have hdue : { s.passTo s.nextTick with focus := c }.dueLanes ≠ [] := by simp [← ht, hl]
  rw [coreTurn_of_due hdue, ← ht, cycle_of_single hl hw.fetchHeld (hw.held hd hc) hg, issueAll, issue_word hs]
  cases run i (t.updLane l fun x => { x with frame := framing (.lane l) ws }) with
  | next r => rfl
  | fault e => rfl
  | refused e => rfl

/-- Settles O56: the turn is the agenda's, and where it is a core's, the one lane that is due holds the words that decode. -/
theorem stepRunsTheWord : Obligations.StepRunsTheWord := by
  refine ⟨?_, ?_, ?_, ?_⟩
  · intro s l ws i u t pc f ha hf hl heven hlen hin hbuf hd hc hg hs
    rw [step_of_agenda_nil ha hf]
    exact coreTurn_runs_word rfl hl ⟨heven, hlen, hin, hbuf⟩ hd hc hg hs
  · intro s t n k i rest ha hf u hst hk hi
    rw [step_of_box ha hf]
    exact boxTurn_of_starts hst hk hi
  · intro s t n i rest ha hf u hst hi
    rw [step_of_box ha hf]
    exact boxTurn_of_wait hst hi
  · intro s i a rest ha hf hs hi
    rw [step_of_event ha hf]
    exact eventTurn_of_not_syncGroup hs hi

end Sys2Proof.Machine
end

section
/-! SUPPORT. Family 03, number formats: the traps of two-source floating words (O33). -/

namespace Sys2Proof.Machine

open Sys2Proof

/-! ### Through the start of a word -/

theorem me_starts (s : State) (l : Lane) :
    (s.starts l).me = { s.me with eqj := (s.starts l).me.eqj, lanes := (s.starts l).me.lanes } := (starts_seen s l).me

@[simp] theorem src_starts (s : State) (l : Lane) : (s.starts l).me.src = s.me.src := by rw [me_starts]; rfl
@[simp] theorem v_starts (s : State) (l : Lane) : (s.starts l).me.v = s.me.v := by rw [me_starts]
@[simp] theorem vUe_starts (s : State) (l : Lane) : (s.starts l).me.vUe = s.me.vUe := by rw [me_starts]
@[simp] theorem p_starts (s : State) (l : Lane) : (s.starts l).me.p = s.me.p := by rw [me_starts]
@[simp] theorem ety_starts (s : State) (l : Lane) : (s.starts l).ety = s.ety := by simp [State.ety]
@[simp] theorem pv_starts (s : State) (l : Lane) (v : VReg) : (s.starts l).pv v = s.pv v := by simp [State.pv]
@[simp] theorem active_starts (s : State) (l : Lane) (p : PReg) : (s.starts l).active p = s.active p := by
  simp [State.active, State.vl, State.rdP, State.pp]

/-! ### Sources that are registers -/

/-- The vector that a register's name gives. -/
def State.vreg (s : State) (v : VReg) : BitVec 2048 := s.me.v.get (s.pv v)

@[simp] theorem vreg_starts (s : State) (l : Lane) (v : VReg) : (s.starts l).vreg v = s.vreg v := by simp [State.vreg]

theorem elem_eq (s : State) (v : VReg) (i : Nat) : s.elem v i = elemAt (etBytes s.ety) (s.vreg v) i := rfl

/-- Registers with no uncorrectable word are read as they stand. -/
theorem readSrcs_registers {s : State} (hu : s.me.vUe = []) {vs : List VReg} (hv : ∀ v ∈ vs, v.toNat < 60) :
    readSrcs vs s = .ok (vs.map s.vreg, s) := by
  induction vs with
  | nil => rfl
  | cons v vs ih =>
    have hone : readSrc v s = .ok (s.vreg v, s) := by
      simp [readSrc, hv v (by simp), State.scrubV, hu, State.vreg]
    simp [readSrcs, hone, ih fun w hw => hv w (by simp [hw]), bind, Except.bind]

theorem needQueues_registers {s : State} {vs : List VReg} (hv : ∀ v ∈ vs, v.toNat < 60) : needQueues vs s = .ok () := by
  have hno : (vs.filter fun v => decide (60 ≤ v.toNat)) = [] := by
    simpa [List.filter_eq_nil_iff] using hv
  simp [needQueues, hno, readSrcs, Except.map]

/-- A guarded word over registers that issues, and whose shape is accepted, answers with its effect on the registers. -/
theorem vGuarded_registers {s : State} {p : PReg} {srcs : List VReg} {more : State → List Nat} {ok : State → Bool}
    (eff : List (BitVec 2048) → List Nat → Eff) (hi : Issues .v (s.vReads p srcs (more s)) s) (hp : s.active p ≠ [])
    (hu : s.me.vUe = []) (hv : ∀ v ∈ srcs, v.toNat < 60) (hok : ok (s.starts .v) = true) :
    vGuarded p srcs more ok eff s = answer .v s ((eff (srcs.map s.vreg) (s.active p) (s.starts .v)).map fun t => t.retire .v) := by
  have hsrc : readSrcs srcs (s.starts .v) = .ok (srcs.map s.vreg, s.starts .v) := by
    rw [readSrcs_registers (by simpa using hu) hv]
    simp
  simp only [State.vReads] at hi
  simp [vGuarded, wordK, word, hp, mayIssue_ok hi, needQueues_registers hv, needShape, hok, hsrc, bind, Except.bind]

/-- The active elements of a vector register, with their indexes. -/
def State.picked (s : State) (p : PReg) (v : VReg) : List (Nat × Nat) := (s.active p).map fun k => (k, s.elem v k)

/-- A word of two register sources that issues, and whose type is accepted, answers with the write of its results. -/
theorem vBin_registers {s : State} {d a b : VReg} {p : PReg} {ok : EType → Bool} (lat : Nat)
    (f : EType → Rm → Nat → Nat → Nat × FpFlags) (hi : Issues .v (s.vReads p [a, b] []) s) (hp : s.active p ≠ [])
    (hu : s.me.vUe = []) (ha : a.toNat < 60) (hb : b.toNat < 60) (hok : ok s.ety = true) :
    vBin d a b p lat ok f s = answer .v s ((vWrite d (etBytes s.ety) lat (s.picked p a ++ s.picked p b)
      ((s.active p).map fun k => (k, f s.ety s.me.src.rm (s.elem a k) (s.elem b k))) (s.starts .v)).map fun t => t.retire .v) := by
  rw [vBin, vGuarded_registers _ hi hp hu (by simp [ha, hb]) (by simpa using hok)]
  simp [pick, State.picked, elem_eq]

/-! ### The poison trap and the floating flags -/

/-- The lowest index of a poison element, from the one found before element `e`. -/
def notePoison (t : EType) (found : Option Nat) (e : Nat × Nat) : Option Nat :=
  if poisoned t e.2 then some (found.elim e.1 fun k => min k e.1) else found

theorem lowestPoison_eq_foldl (t : EType) (els : List (Nat × Nat)) : lowestPoison t els = els.foldl (notePoison t) none := by
  unfold lowestPoison
  congr 1
  funext found e
  cases found <;> rfl

/-- What is noted of an element is what was found before, or its own index where it holds poison. -/
theorem notePoison_mem {t : EType} {found : Option Nat} {e : Nat × Nat} {k : Nat} (h : notePoison t found e = some k) :
    found = some k ∨ (poisoned t e.2 = true ∧ e.1 = k) := by
  unfold notePoison at h
  split at h
  next hp =>
    cases found with
    | none => exact .inr ⟨hp, Option.some.inj h⟩
    | some j =>
      have hmin : min j e.1 = k := Option.some.inj h
      rcases Nat.le_total j e.1 with hje | hej
      · exact .inl (by rw [← hmin, Nat.min_eq_left hje])
      · exact .inr ⟨hp, by rw [← hmin, Nat.min_eq_right hej]⟩
  next => exact .inl h

theorem notePoison_self (t : EType) (found : Option Nat) {e : Nat × Nat} (hp : poisoned t e.2 = true) :
    ∃ k, notePoison t found e = some k ∧ k ≤ e.1 := by
  rw [notePoison, if_pos hp]
  cases found with
  | none => exact ⟨e.1, rfl, Nat.le_refl _⟩
  | some j => exact ⟨min j e.1, rfl, Nat.min_le_right ..⟩

theorem notePoison_some (t : EType) (j : Nat) (e : Nat × Nat) : ∃ k, notePoison t (some j) e = some k ∧ k ≤ j := by
  unfold notePoison
  split
  · exact ⟨min j e.1, rfl, Nat.min_le_left ..⟩
  · exact ⟨j, rfl, Nat.le_refl _⟩

theorem foldl_notePoison_mem {t : EType} {els : List (Nat × Nat)} {found : Option Nat} {k : Nat}
    (h : els.foldl (notePoison t) found = some k) : found = some k ∨ ∃ e ∈ els, poisoned t e.2 = true ∧ e.1 = k := by
  induction els generalizing found with
  | nil => exact .inl h
  | cons x els ih =>
    rcases ih h with hx | ⟨e, he, hp, hk⟩
    · rcases notePoison_mem hx with hf | ⟨hp, hk⟩
      · exact .inl hf
      · exact .inr ⟨x, List.mem_cons_self, hp, hk⟩
    · exact .inr ⟨e, List.mem_cons_of_mem x he, hp, hk⟩

theorem foldl_notePoison_some (t : EType) (els : List (Nat × Nat)) (j : Nat) :
    ∃ k, els.foldl (notePoison t) (some j) = some k ∧ k ≤ j := by
  induction els generalizing j with
  | nil => exact ⟨j, rfl, Nat.le_refl _⟩
  | cons x els ih =>
    obtain ⟨i, hi, hij⟩ := notePoison_some t j x
    obtain ⟨k, hk, hki⟩ := ih i
    exact ⟨k, by rw [List.foldl_cons, hi, hk], Nat.le_trans hki hij⟩

/-- The index found is that of an element that holds poison. -/
theorem lowestPoison_mem {t : EType} {els : List (Nat × Nat)} {k : Nat} (h : lowestPoison t els = some k) :
    ∃ e ∈ els, poisoned t e.2 = true ∧ e.1 = k := by
  rw [lowestPoison_eq_foldl] at h
  exact (foldl_notePoison_mem h).resolve_left (Option.some_ne_none k ∘ Eq.symm)

/-- An index is found at or below that of every element that holds poison. -/
theorem lowestPoison_le {t : EType} {els : List (Nat × Nat)} {e : Nat × Nat} (he : e ∈ els) (hp : poisoned t e.2 = true) :
    ∃ k, lowestPoison t els = some k ∧ k ≤ e.1 := by
  rw [lowestPoison_eq_foldl]
  generalize (none : Option Nat) = found
  induction els generalizing found with
  | nil => cases he
  | cons x els ih =>
    rw [List.foldl_cons]
    rcases List.mem_cons.1 he with rfl | hin
    · obtain ⟨j, hj, hje⟩ := notePoison_self t found hp
      obtain ⟨k, hk, hkj⟩ := foldl_notePoison_some t els j
      exact ⟨k, by rw [hj, hk], Nat.le_trans hkj hje⟩
    · exact ih hin _

/-- The lowest index of an element that holds poison is the one found. -/
theorem lowestPoison_eq_some {t : EType} {els : List (Nat × Nat)} {e : Nat × Nat} (he : e ∈ els) (hp : poisoned t e.2 = true)
    (hlow : ∀ x ∈ els, poisoned t x.2 = true → e.1 ≤ x.1) : lowestPoison t els = some e.1 := by
  obtain ⟨k, hk, hle⟩ := lowestPoison_le he hp
  obtain ⟨x, hx, hxp, rfl⟩ := lowestPoison_mem hk
  rw [hk, Nat.le_antisymm hle (hlow x hx hxp)]

theorem lowestPoison_eq_none {t : EType} {els : List (Nat × Nat)} (h : ∀ e ∈ els, poisoned t e.2 = false) :
    lowestPoison t els = none := by
  cases hk : lowestPoison t els with
  | none => rfl
  | some k =>
    obtain ⟨e, he, hp, -⟩ := lowestPoison_mem hk
    rw [h e he] at hp
    cases hp

/-- An enabled flag among a word's flags raises FP_EXC with the enabled ones (03 R88). -/
theorem raiseFlags_enabled {f : FpFlags} {s : State} (hits : f.toBits &&& s.me.src.ten ≠ 0) :
    raiseFlags f s = .error (.trap .fpExc (zextW (f.toBits &&& s.me.src.ten))) := by
  unfold raiseFlags
  exact if_pos (by simpa using hits)

section
variable {s : State} {d : VReg} {w lat : Nat} {used : List (Nat × Nat)} {res : List (Nat × Nat × FpFlags)}

/-- Under PTRAP the lowest poison element of a word's sources stops its write, whatever its flags (19 R419). -/
theorem vWrite_poison {k : Nat} (hpt : s.me.src.ptrap = true) (hk : lowestPoison s.ety used = some k) :
    vWrite d w lat used res s = .error (.trap .poison (BitVec.ofNat 64 k)) := by
  simp [vWrite, needSane, hpt, hk, bind, Except.bind]

/-- Where no poison stops it, an enabled flag stops a word's write, with the enabled ones of its flags (03 R88). -/
theorem vWrite_fpExc (hpt : s.me.src.ptrap = true → lowestPoison s.ety used = none)
    (hits : (allFlags (res.map fun r => r.2.2)).toBits &&& s.me.src.ten ≠ 0) :
    vWrite d w lat used res s = .error (.trap .fpExc (zextW ((allFlags (res.map fun r => r.2.2)).toBits &&& s.me.src.ten))) := by
  have hsane : needSane s.ety used s = .ok () := by
    unfold needSane
    split
    next h => rw [hpt h]
    next => rfl
  simp [vWrite, hsane, raiseFlags_enabled hits, bind, Except.bind]

end

/-! ### Two-source floating words -/

@[simp] theorem mem_picked {s : State} {p : PReg} {v : VReg} {e : Nat × Nat} :
    e ∈ s.picked p v ↔ e.1 ∈ s.active p ∧ e.2 = s.elem v e.1 := by
  rw [State.picked, List.mem_map]
  constructor
  · rintro ⟨k, hk, rfl⟩
    exact ⟨hk, rfl⟩
  · intro ⟨hk, hx⟩
    exact ⟨e.1, hk, Prod.ext rfl hx.symm⟩

/-- The two sources' active elements hold no poison where, element by element, neither does. -/
theorem picked_sane {s : State} {p : PReg} {a b : VReg}
    (h : ∀ k ∈ s.active p, poisoned s.ety (s.elem a k) = false ∧ poisoned s.ety (s.elem b k) = false) :
    lowestPoison s.ety (s.picked p a ++ s.picked p b) = none := by
  refine lowestPoison_eq_none fun e he => ?_
  simp only [List.mem_append, mem_picked] at he
  obtain ⟨hk, hx⟩ | ⟨hk, hx⟩ := he
  · rw [hx, (h e.1 hk).1]
  · rw [hx, (h e.1 hk).2]

/-- The first active element at which a source holds poison is the one found. -/
theorem picked_poison {s : State} {p : PReg} {a b : VReg} {k : Nat} (hk : k ∈ s.active p)
    (hp : poisoned s.ety (s.elem a k) = true ∨ poisoned s.ety (s.elem b k) = true)
    (hlow : ∀ j ∈ s.active p, j < k → poisoned s.ety (s.elem a j) = false ∧ poisoned s.ety (s.elem b j) = false) :
    lowestPoison s.ety (s.picked p a ++ s.picked p b) = some k := by
  have hle : ∀ e ∈ s.picked p a ++ s.picked p b, poisoned s.ety e.2 = true → k ≤ e.1 := by
    intro e he hep
    simp only [List.mem_append, mem_picked] at he
    refine Nat.not_lt.1 fun hlt => ?_
    obtain ⟨hj, hx⟩ | ⟨hj, hx⟩ := he
    · rw [hx, (hlow e.1 hj hlt).1] at hep
      cases hep
    · rw [hx, (hlow e.1 hj hlt).2] at hep
      cases hep
  rcases hp with hpa | hpb
  · exact lowestPoison_eq_some (e := (k, s.elem a k)) (by simp [hk]) hpa hle
  · exact lowestPoison_eq_some (e := (k, s.elem b k)) (by simp [hk]) hpb hle

/-- The four words of two floating sources are `vBin` with their own operation, which accepts the real types. -/
theorem exec_floatBin {s : State} {d a b : VReg} {p : PReg}
    (ht : s.ety = .f32 ∨ s.ety = .f64 ∨ s.ety = .bf16 ∨ s.ety = .f16) {i : Instr} {f : Nat → Nat → Nat × FpFlags}
    (hi : (i, f) ∈ ([(.vadd d a b p, elAdd s.ety s.me.src.rm), (.vsub d a b p, elSub s.ety s.me.src.rm),
      (.vmul d a b p, elMul s.ety s.me.src.rm), (.vdiv d a b p, fpDiv (etFmt s.ety) s.me.src.rm)] :
        List (Instr × (Nat → Nat → Nat × FpFlags)))) :
    ∃ lat ok g, exec i s = vBin d a b p lat ok g s ∧ ok s.ety = true ∧ g s.ety s.me.src.rm = f := by
  have hF : etF s.ety = true := by
    rcases ht with h | h | h | h <;> rw [h] <;> rfl
  have hFC : etFC s.ety = true := by simp [etFC, hF]
  simp only [List.mem_cons, Prod.mk.injEq, List.not_mem_nil, or_false] at hi
  obtain ⟨rfl, rfl⟩ | ⟨rfl, rfl⟩ | ⟨rfl, rfl⟩ | ⟨rfl, rfl⟩ := hi
  · exact ⟨3, etFC, elAdd, exec_vadd d a b p s, hFC, rfl⟩
  · exact ⟨3, etFC, elSub, exec_vsub d a b p s, hFC, rfl⟩
  · exact ⟨3, etFC, elMul, exec_vmul d a b p s, hFC, rfl⟩
  · exact ⟨8, etF, elDiv, exec_vdiv d a b p s, hF, rfl⟩

/-- Settles O33: the word answers with the write of its results, which the lowest poison element stops, and else an enabled
flag. -/
theorem vectorTrapsArePrecise : Obligations.VectorTrapsArePrecise := by
  intro s d a b p hu ha hb hp hi ht i f hif hits
  obtain ⟨lat, ok, g, hex, hok, rfl⟩ := exec_floatBin ht hif
  rw [hex, vBin_registers lat g hi hp hu ha hb hok]
  constructor
  · intro k hpt hk hpk hlow
    rw [vWrite_poison (k := k) (by simpa using hpt) (by simpa using picked_poison hk hpk hlow)]
    rfl
  · intro hsane hne
    have hflags : ((s.active p).map fun k => (k, g s.ety s.me.src.rm (s.elem a k) (s.elem b k))).map (fun r => r.2.2) =
        (s.active p).map fun k => (g s.ety s.me.src.rm (s.elem a k) (s.elem b k)).2 := by
      rw [List.map_map]; rfl
    rw [vWrite_fpExc (by simpa using fun hpt => picked_sane (hsane hpt)) (by rw [hflags, src_starts]; exact hne), hflags, src_starts]
    rfl

end Sys2Proof.Machine
end

section
/-! SUPPORT. Family 03, number formats: the commit of a matrix computation (O42). -/

namespace Sys2Proof.Machine

open Sys2Proof

/-! ### Lists of equal pieces -/

theorem length_flatMap_toBytes (w : Nat) (xs : List Nat) : (xs.flatMap fun x => toBytes w x).length = w * xs.length := by
  induction xs with
  | nil => rfl
  | cons x xs ih => rw [List.flatMap_cons, List.length_append, toBytes_length, ih, List.length_cons, Nat.mul_succ, Nat.add_comm]

/-- Byte `k` of value `j`, in the bytes of several values of one width. -/
theorem getD_flatMap_toBytes {w k : Nat} (hk : k < w) (xs : List Nat) {j : Nat} (hj : j < xs.length) :
    (xs.flatMap fun x => toBytes w x).getD (w * j + k) 0 = byteOf xs[j] k := by
  induction xs generalizing j with
  | nil => exact absurd hj (Nat.not_lt_zero j)
  | cons x xs ih =>
    rw [List.flatMap_cons, List.getD_eq_getElem?_getD]
    cases j with
    | zero =>
      rw [Nat.mul_zero, Nat.zero_add, List.getElem?_append_left (by rw [toBytes_length]; exact hk), ← List.getD_eq_getElem?_getD]
      exact toBytes_getD w x k hk
    | succ j =>
      have hat : w * (j + 1) + k = w + (w * j + k) := by rw [Nat.mul_succ]; omega
      rw [hat, List.getElem?_append_right (by rw [toBytes_length]; omega), toBytes_length, Nat.add_sub_cancel_left,
        ← List.getD_eq_getElem?_getD]
      exact ih (Nat.lt_of_succ_lt_succ hj)

/-! ### Memory and cores -/

/-- The value of a run of bytes depends on these bytes alone. -/
theorem peekN_congr {s t : State} {a n : Nat} (h : ∀ k, k < n → memGet t.mem (a + k) = memGet s.mem (a + k)) :
    t.peekN a n = s.peekN a n := by
  simp only [State.peekN, State.bytes, memRead_eq]
  exact congrArg leBytes (List.map_congr_left fun k hk => h k (List.mem_range.1 hk))

@[simp] theorem core_updCore_id (s : State) (c d : CoreId) : (s.updCore c id).core d = s.core d := by
  by_cases h : d = c
  · subst h
    exact core_setCore_same s d _
  · exact core_setCore_other s _ h

@[simp] theorem core_poke (s : State) (a : Nat) (bs : List Byte) (c : CoreId) : (s.poke a bs).core c = s.core c := rfl

theorem Sound.poke {s : State} (h : Sound s) (a : Nat) (bs : List Byte) : Sound (s.poke a bs) := by
  obtain ⟨hue, honce, hhealth⟩ := h
  exact ⟨by simp [State.poke, hue], honce, hhealth⟩

/-! ### One output row -/

theorem accEntry_sound {s : State} (h : Sound s) (key : Nat) (i96 : Bool) : s.accEntry key i96 = s.peekN key 12 := by
  simp [State.accEntry, badWords_sound h]

/-- The new values of the entries of output row `i` of a computation. -/
def MatRun.rowValues (m : MatRun) (c : CoreId) (i : Nat) (s : State) : List Nat :=
  (List.range m.cols).map fun j => m.entry (m.pairs i) j (s.peekN (keyAcc c m.bank (i * 384) + 12 * j) 12)

@[simp] theorem MatRun.length_rowValues (m : MatRun) (c : CoreId) (i : Nat) (s : State) : (m.rowValues c i s).length = m.cols := by
  simp [MatRun.rowValues]

theorem zipIdx_map_range {α β : Type} (n : Nat) (f : Nat → α) (g : Nat → α → β) :
    (((List.range n).map f).zipIdx.map fun o => g o.2 o.1) = (List.range n).map fun j => g j (f j) := by
  apply List.ext_getElem <;> simp

/-- Where no memory is lost, a row's step writes the row's new values at the row's first entry and counts no lost word. -/
theorem MatRun.row_sound (m : MatRun) (c : CoreId) (i : Nat) {s : State} (h : Sound s) :
    (m.row c i s).2 = (s.updCore c id).poke (keyAcc c m.bank (i * 384)) ((m.rowValues c i s).flatMap fun x => toBytes 12 x) := by
  simp only [MatRun.row, badWords_sound h, accEntry_sound h, zipIdx_map_range, MatRun.rowValues, List.length_nil]
  rfl

theorem MatRun.row_focus (m : MatRun) (c : CoreId) (i : Nat) (s : State) : (m.row c i s).2.focus = s.focus := rfl

theorem MatRun.row_keeps_sound (m : MatRun) (c : CoreId) (i : Nat) {s : State} (h : Sound s) : Sound (m.row c i s).2 := by
  rw [m.row_sound c i h]
  exact Sound.poke h _ _

theorem MatRun.row_core (m : MatRun) (c : CoreId) (i : Nat) {s : State} (h : Sound s) (d : CoreId) :
    (m.row c i s).2.core d = s.core d := by
  rw [m.row_sound c i h, core_poke, core_updCore_id]

theorem MatRun.row_mem (m : MatRun) (c : CoreId) (i : Nat) {s : State} (h : Sound s) (a : Nat) :
    memGet (m.row c i s).2.mem a =
      if keyAcc c m.bank (i * 384) ≤ a ∧ a < keyAcc c m.bank (i * 384) + 12 * m.cols then
        ((m.rowValues c i s).flatMap fun x => toBytes 12 x).getD (a - keyAcc c m.bank (i * 384)) 0
      else memGet s.mem a := by
  rw [m.row_sound c i h, memGet_poke, length_flatMap_toBytes, MatRun.length_rowValues]
  rfl

/-- The bytes of the row's entry `j` are those of its new value. -/
theorem MatRun.row_mem_entry (m : MatRun) (c : CoreId) (i : Nat) {s : State} (h : Sound s) {j k : Nat} (hj : j < m.cols) (hk : k < 12) :
    memGet (m.row c i s).2.mem (keyAcc c m.bank (i * 384) + 12 * j + k) =
      byteOf (m.entry (m.pairs i) j (s.peekN (keyAcc c m.bank (i * 384) + 12 * j) 12)) k := by
  have hat : keyAcc c m.bank (i * 384) + 12 * j + k - keyAcc c m.bank (i * 384) = 12 * j + k := by omega
  rw [m.row_mem c i h, if_pos (by omega), hat, getD_flatMap_toBytes hk _ (by simpa using hj)]
  simp [MatRun.rowValues]

/-- A byte that lies in no entry of the row stands. -/
theorem MatRun.row_mem_other (m : MatRun) (c : CoreId) (i : Nat) {s : State} (h : Sound s) {a : Nat}
    (ha : a < keyAcc c m.bank (i * 384) ∨ keyAcc c m.bank (i * 384) + 12 * m.cols ≤ a) :
    memGet (m.row c i s).2.mem a = memGet s.mem a := by
  rw [m.row_mem c i h, if_neg (by omega)]

/-! ### The rows of a computation -/

/-- The first `n` output rows are written; gives the entries that have become NaNs. -/
def MatRun.commitRows (m : MatRun) (n : Nat) (s : State) : Nat × State :=
  (List.range n).foldl (fun r i => let u := m.row r.2.focus i r.2; (r.1 + u.1, u.2)) (0, s)

theorem MatRun.commitRows_succ (m : MatRun) (n : Nat) (s : State) :
    (m.commitRows (n + 1) s).2 = (m.row (m.commitRows n s).2.focus n (m.commitRows n s).2).2 := by
  simp [MatRun.commitRows, List.range_succ]

/-- `t` is `s` with the first `n` output rows of the computation written: the entries of these rows hold their new values, and
every other byte and every core stand. -/
structure RowsWritten (m : MatRun) (n : Nat) (s t : State) : Prop where
  focus : t.focus = s.focus
  sound : Sound t
  cores : ∀ c, t.core c = s.core c
  entries : ∀ i j k, i < n → j < m.cols → k < 12 →
    memGet t.mem (keyAcc s.focus m.bank (384 * i + 12 * j) + k) =
      byteOf (m.entry (m.pairs i) j (s.peekN (keyAcc s.focus m.bank (384 * i + 12 * j)) 12)) k
  rest : ∀ a, (∀ i j, i < n → j < m.cols →
      a < keyAcc s.focus m.bank (384 * i + 12 * j) ∨ keyAcc s.focus m.bank (384 * i + 12 * j) + 12 ≤ a) →
    memGet t.mem a = memGet s.mem a

/-- The key of an entry, from the first of its row and from the first of the bank. -/
theorem keyAcc_entry (c : CoreId) (b i j : Nat) :
    keyAcc c b (384 * i + 12 * j) = keyAcc c b (i * 384) + 12 * j ∧ keyAcc c b (384 * i + 12 * j) = keyAcc c b 0 + 384 * i + 12 * j := by
  unfold keyAcc
  omega

/-- The next row's step writes its entries from what stood in them before the commit: rows do not meet, each being at most 384
bytes long. -/
theorem RowsWritten.succ {m : MatRun} {n : Nat} {s t : State} (h : RowsWritten m n s t) (hc : m.cols ≤ 32) :
    RowsWritten m (n + 1) s (m.row t.focus n t).2 where
  focus := h.focus
  sound := m.row_keeps_sound _ _ h.sound
  cores c := (m.row_core _ _ h.sound c).trans (h.cores c)
  entries i j k hi hj hk := by
    obtain ⟨hrow, hbank⟩ := keyAcc_entry s.focus m.bank i j
    by_cases hin : i = n
    · subst hin
      have hold : t.peekN (keyAcc s.focus m.bank (384 * i + 12 * j)) 12 = s.peekN (keyAcc s.focus m.bank (384 * i + 12 * j)) 12 :=
        peekN_congr fun k hk => h.rest _ fun i' j' hi' hj' => by
          obtain ⟨-, hbank'⟩ := keyAcc_entry s.focus m.bank i' j'
          omega
      rw [h.focus, hrow, m.row_mem_entry _ _ h.sound hj hk, ← hrow, hold]
    · obtain ⟨hrown, hbankn⟩ := keyAcc_entry s.focus m.bank n 0
      rw [h.focus, m.row_mem_other _ _ h.sound (by omega)]
      exact h.entries i j k (by omega) hj hk
  rest a ha := by
    have hout : a < keyAcc s.focus m.bank (n * 384) ∨ keyAcc s.focus m.bank (n * 384) + 12 * m.cols ≤ a := by
      refine Decidable.byContradiction fun hin => ?_
      obtain ⟨hrow, -⟩ := keyAcc_entry s.focus m.bank n ((a - keyAcc s.focus m.bank (n * 384)) / 12)
      have := ha n ((a - keyAcc s.focus m.bank (n * 384)) / 12) (Nat.lt_succ_self n) (by omega)
      omega
    rw [h.focus, m.row_mem_other _ _ h.sound hout]
    exact h.rest a fun i j hi hj => ha i j (Nat.lt_succ_of_lt hi) hj

theorem rowsWritten_commitRows (m : MatRun) {s : State} (h : Sound s) (hc : m.cols ≤ 32) (n : Nat) :
    RowsWritten m n s (m.commitRows n s).2 := by
  induction n with
  | zero => exact ⟨rfl, h, fun _ => rfl, fun _ _ _ hi => absurd hi (Nat.not_lt_zero _), fun _ _ => rfl⟩
  | succ n ih =>
    rw [m.commitRows_succ]
    exact ih.succ hc

/-! ### The commit -/

/-- The core of a computation that commits: the engine is free and the exception counters have moved. -/
def Core.committed (m : MatRun) (nan now : Nat) (c : Core) : Core :=
  { c with mrun := none, mBusy := now, mPaid := now,
           ctl := { c.ctl with mxnan := satAdd c.ctl.mxnan nan, mspbad := satAdd c.ctl.mspbad m.illegal } }

/-- A commit whose manifest enables neither cause writes the rows and frees the engine. -/
theorem matCommit_untrapped (s : State) {m : MatRun} (h16 : m.man.getLsbD 16 = false) (h18 : m.man.getLsbD 18 = false) :
    s.matCommit m = (m.commitRows m.rows s).2.updMe
      (Core.committed m (m.commitRows m.rows s).1 (m.commitRows m.rows s).2.now) := by
  simp only [State.matCommit, h16, h18, Bool.and_false, Bool.false_eq_true, if_false]
  rfl

/-- `M_COMMAND_COMMIT` on a computation whose last cycle has passed commits it. -/
theorem exec_mCommandCommit_done {s : State} {m : MatRun} {p : Nat} (hm : s.me.mrun = some m) (hd : m.done = some p) (hp : p ≤ s.now) :
    exec .mCommandCommit s = .next (s.matCommit m) := by
  simp [exec_mCommandCommit, execMCommandCommit, event, hm, hd, hp]

/-- Settles O42, by induction on the rows written: a row's step writes its own entries from what stood there before the commit. -/
theorem matrixCommandCommits : Obligations.MatrixCommandCommits := by
  intro s m p hm hd hp hs _ hc h16 h18 key
  have hw := rowsWritten_commitRows m hs hc m.rows
  have hme : (m.commitRows m.rows s).2.me = s.me := by
    unfold State.me
    rw [hw.focus, hw.cores]
  refine ⟨s.matCommit m, exec_mCommandCommit_done hm hd hp, ?_⟩
  rw [matCommit_untrapped s h16 h18]
  refine ⟨hw.entries, hw.rest, ?_, ?_, ?_, ?_, fun c hcf => ?_⟩
  · rw [me_updMe]; rfl
  · rw [me_updMe, hme]; rfl
  · rw [me_updMe, hme]; rfl
  · rw [me_updMe, hme]; rfl
  · rw [core_updMe_other _ _ (by rw [hw.focus]; exact hcf), hw.cores]

end Sys2Proof.Machine
end
